-- ==== Sys2Proof/Word.lean ====
section
/-! DEFINITION. Word types of the AZ512 and the sparse map in which the model keeps every table and memory.

All register maps of spec/ are little-endian bit vectors (00_scope R1); counts, sizes and device time are `Nat`. -/

namespace Sys2Proof

/-- One byte. -/
abbrev Byte := BitVec 8
/-- A 32-bit register or memory word (R26: registers are 32 bits wide). -/
abbrev Word := BitVec 32
/-- A 64-bit ring base, result or time field. -/
abbrev DWord := BitVec 64
/-- A byte string, first byte first. -/
abbrev Bytes := List Byte

/-- A sparse table: keys strictly rising, and no entry equal to what an unlisted key reads as.
The operations that keep this form are in Machine/Ops.lean. -/
abbrev SMap (β : Type) := List (Nat × β)

end Sys2Proof
end

