-- ==== Sys2Proof/Syntax.lean ====
section
/-! DEFINITION. The commands of the AZ512: one constructor of `Instr` per row of spec/opcode_table.json.

The table gives its rows no bits and no fields.  An operand of a constructor is either the part of the device the
row acts on (a queue, a tile, a link, a region) or what the outside world answers in that step (host memory read by
DMA, a frame received, the outcome of a decode): see assumption 2. -/

namespace Sys2Proof

/-- Data width of a Pytan instruction (R234). -/
inductive Width where
  | b | h | w | d
deriving DecidableEq, Repr

/-- A Pytan operand specifier with its extension word (R234 to R238).
`zero` is mode 7 reg 7 (0x3F): ZERO, and what an unused operand field must hold (R235).
`idx` carries the reserved bits [31:21] of its extension word, which R236 requires to be 0. -/
inductive Opd where
  | reg (n : BitVec 3)
  | ind (n : BitVec 3)
  | disp (n : BitVec 3) (d32 : Word)
  | idx (n x : BitVec 3) (scale : BitVec 2) (d16 : BitVec 16) (rsv : BitVec 11)
  | postInc (n : BitVec 3)
  | preDec (n : BitVec 3)
  | abs (addr : Word)
  | imm (v : Word)
  | lk | rc | fl | timeLo | timeHi
  | pcRel (d32 : Word)
  | zero
deriving DecidableEq, Repr

/-- The fields of one Pytan instruction besides its opcode (R234). -/
structure PyI where
  width : Width
  d : Opd
  s1 : Opd
  s2 : Opd
  cond : BitVec 4
deriving DecidableEq, Repr

/-- What a DMA read of host memory answers. -/
inductive HostRead where
  | ok (data : Bytes)
  /-- translation failure or failed access, at this host address (R45, R88) -/
  | fault (addr : DWord)
deriving DecidableEq, Repr

/-- What a DMA write to host memory answers. -/
inductive HostWrite where
  | ok
  /-- translation failure or failed access, at this host address (R45, R88) -/
  | fault (addr : DWord)
deriving DecidableEq, Repr

/-- What the fetch of a 64-byte submission entry answers: the entry's bits (byte k at bits 8k+7:8k, R56). -/
inductive SqeRead where
  | ok (e : BitVec 512)
  | fault
deriving DecidableEq, Repr

/-- What the read of a descriptor list answers: every 16-byte descriptor in the order read, NEXT ones included (R60). -/
inductive ListRead where
  | ok (ds : List (BitVec 128))
  | fault (addr : DWord)
deriving DecidableEq, Repr

/-- A register space that a register write can name; in configuration space those are MSI-X
Message Control and Device Control (assumption 4). -/
inductive Space where
  | bar0 | bar2
  | tile (t : Nat)
  | steward
  | config
deriving DecidableEq, Repr

/-- The outcome of decoding one codeword on one rung (R181, R191). -/
inductive CwResult where
  /-- the corrected codeword, 4,608 bytes -/
  | ok (cw : Bytes)
  | fail
deriving DecidableEq, Repr

/-- A 32-byte work item descriptor (R277), little-endian. -/
abbrev ItemDesc := BitVec 256

/-- Who writes a bank owner register besides the core (R306). -/
inductive OwnerWriter where
  | crossbar | slice | steward | core
deriving DecidableEq, Repr

/-- A lane under a known-answer test (R428). -/
inductive TestLane where
  | reducer | expander
  | digest (lane : Nat)
deriving DecidableEq, Repr

/-- The request ports of the CAM (R385): the 8 region ports and the host queue engine. -/
inductive CamPort where
  | region (p : Nat)
  | host
deriving DecidableEq, Repr

/-- Who reads a DRAM burst, with what the burst holds of the contents of R412: a core's window read with its operand and address (R270),
the Stockpot items `2 i` and `2 i + 1` of a region's share, a journal staging copy, a place's entry in the CAM overflow
directory, or a cached grain of a slab. -/
inductive DramReader where
  | core (t operand addr : Nat)
  | stockpot (p i : Nat)
  | journal
  | directory (place : Nat)
  | cache (ti grain : Nat)
deriving DecidableEq, Repr

/-- What a DRAM request asks for (R399, R402, R410): a read, or a write of the bytes of `data` whose bit in `covered` is set, of
mirrored contents or not. -/
inductive DramAccess where
  | read (reader : DramReader)
  | write (covered : BitVec 64) (data : BitVec 512) (mirrored : Bool)
deriving DecidableEq, Repr

/-- A request for one burst of a subchannel (R399, R404); `bank` is bank group and bank. -/
structure DramReq where
  rank : Nat
  bank : Nat
  row : Nat
  col : Nat
  access : DramAccess
deriving DecidableEq, Repr

/-- The tile logic whose parity error is reported (R430; the causes 2 to 5 of R525). -/
inductive TileUnit where
  | core | slice | crossbar | intc
deriving DecidableEq, Repr

/-- Chip-level unit and cause of a chip fault (R525, kind 0x40). -/
structure ChipCause where
  unit : Nat
  cause : Nat
  region : Nat
deriving DecidableEq, Repr

/-- A codeword as the scan of recovery reads it, decoded up to rung 5 (R135). -/
inductive ScanCw where
  | erased
  | fail
  | ok (data : Bytes) (tag : BitVec 256)
deriving DecidableEq, Repr

/-- A stripe row of a band as the scan reads it: its 128 codewords in the order of their grains; those not listed are erased. -/
structure ScanRow where
  region : Nat
  band : Nat
  row : Nat
  cws : List ScanCw
deriving DecidableEq, Repr

/-- What recovery reads from flash beside what the device wrote there: checkpoint copies that do not read back valid (number, and
whether it is copy B), bits of journal entries that read back changed (copy B, JSEQ, bit), and rows of bands (R134, R135). -/
structure ScanIn where
  ckptBad : List (Nat × Bool) := []
  flips : List (Bool × Nat × Nat) := []
  rows : List ScanRow := []
deriving DecidableEq, Repr

/-- A boot image as the boot ROM reads it (R448). -/
structure BootImage where
  magic : Word
  rev : BitVec 16
  length : Nat
  entry : Nat
  version : Word
  /-- SHA-256 of the LENGTH bytes, as the boot digest unit computes it (R376) -/
  digest : BitVec 256
deriving DecidableEq, Repr

/-- The results of the DRAM training of one subchannel (R408). -/
inductive TrainResult where
  | ok (speed : BitVec 2)
  | failed
deriving DecidableEq, Repr

/-- The commands: one constructor per row of spec/opcode_table.json, in groups by chapter. -/
inductive Instr where
  -- doorbells, host registers, PCIe events (02_host_queues_and_instances)
  /-- SQ_TAIL (R34) -/
  | sqTail (q : Nat) (v : Word)
  /-- CQ_HEAD (R36) -/
  | cqHead (q : Nat) (v : Word)
  /-- RESTART (R41) -/
  | restart (q : Nat) (cqOk : Bool)
  /-- FLUSH_PENDING (R41) -/
  | flushPending (q : Nat) (cqOk : Bool)
  /-- RESTART_TAKES_EFFECT (R41) -/
  | restartTakesEffect (q : Nat) (cqOk : Bool)
  /-- ENABLE_SET (R38) -/
  | enableSet
  /-- ENABLE_CLEAR (R38) -/
  | enableClear
  /-- SHUTDOWN (R28) -/
  | shutdown
  /-- SHUTDOWN_DONE (R28) -/
  | shutdownDone
  /-- REGISTER_WRITE (R2) -/
  | registerWrite (sp : Space) (off bits : Nat) (v : DWord)
  /-- SUBMISSION_FETCH (R35); `rl` is what the read of a RUN's range list answers (R75) -/
  | submissionFetch (r : SqeRead) (rl : HostRead) (cqOk : Bool)
  /-- DESCRIPTOR_LIST_READ (R60) -/
  | descriptorListRead (q tag : Nat) (r : ListRead) (w : HostWrite) (cqOk : Bool)
  /-- HOST_DATA_ARRIVAL (R122) -/
  | hostDataArrival (q tag : Nat) (r : HostRead) (aux : HostWrite) (cqOk : Bool)
  /-- MODERATION_WINDOW_END (R51) -/
  | moderationWindowEnd (v : Nat)
  /-- VECTOR_UNMASK (R52) -/
  | vectorUnmask (v : Nat)
  /-- D3HOT_ENTRY (R53) -/
  | d3hotEntry
  /-- D0_RETURN (R54) -/
  | d0Return (cqOk : Bool)
  /-- ASPM_L1_ENTRY (R53) -/
  | aspmL1Entry
  /-- PME_TURN_OFF (R53) -/
  | pmeTurnOff
  /-- FUNCTION_LEVEL_RESET (R24) -/
  | functionLevelReset
  /-- QUEUE_DRAIN_END (R38) -/
  | queueDrainEnd (q : Nat) (writeOk : Bool)
  -- host commands (03_host_commands): each starts the fetched entry of queue q, tag tag
  /-- APPEND (R65) -/
  | append (q tag : Nat) (cqOk : Bool)
  /-- READ (R68) -/
  | read (q tag : Nat) (w : HostWrite) (cqOk : Bool)
  /-- OVERWRITE (R70) -/
  | overwrite (q tag : Nat) (cqOk : Bool)
  /-- OPEN (R71) -/
  | openSlab (q tag : Nat) (cqOk : Bool)
  /-- CLOSE (R71) -/
  | closeSlab (q tag : Nat) (cqOk : Bool)
  /-- RESET (R71) -/
  | resetSlab (q tag : Nat) (cqOk : Bool)
  /-- FLUSH (R67) -/
  | flushTail (q tag : Nat) (cqOk : Bool)
  /-- RUN (R72) -/
  | run (q tag : Nat) (cqOk : Bool)
  /-- PROGRAM_LOAD (R73) -/
  | programLoad (q tag : Nat) (image : HostRead) (w : HostWrite) (cqOk : Bool)
  /-- PIPELINE_DESCRIPTOR_LOAD (R204) -/
  | pipelineDescriptorLoad (q tag : Nat) (image : HostRead) (w : HostWrite) (cqOk : Bool)
  /-- PROGRAM_DROP (R73) -/
  | programDrop (q tag : Nat) (cqOk : Bool)
  /-- CIPHER_LOAD (R344) -/
  | cipherLoad (q tag : Nat) (material : HostRead) (cqOk : Bool)
  /-- CIPHER_ZEROISE (R353) -/
  | cipherZeroise (q tag : Nat) (cqOk : Bool)
  /-- HMAC_LOAD (R368) -/
  | hmacLoad (q tag : Nat) (material : HostRead) (cqOk : Bool)
  /-- HMAC_ZEROISE (R369) -/
  | hmacZeroise (q tag : Nat) (cqOk : Bool)
  /-- CAM_SEARCH (R393) -/
  | camSearch (q tag : Nat) (block : HostRead) (cqOk : Bool)
  /-- CAM_INSERT (R390) -/
  | camInsert (q tag : Nat) (block : HostRead) (cqOk : Bool)
  /-- CAM_DELETE (R393) -/
  | camDelete (q tag : Nat) (block : HostRead) (cqOk : Bool)
  /-- CAM_UPDATE (R393) -/
  | camUpdate (q tag : Nat) (block : HostRead) (cqOk : Bool)
  /-- CAM_READ (R393) -/
  | camRead (q tag : Nat) (block : HostRead) (w : HostWrite) (cqOk : Bool)
  /-- CAM_CLEAR (R393) -/
  | camClear (q tag : Nat) (block : HostRead) (cqOk : Bool)
  /-- ABORT (R80) -/
  | abort (q tag : Nat) (cqOk : Bool)
  /-- INSTANCE_CREATE (R83) -/
  | instanceCreate (q tag : Nat) (cqOk : Bool)
  /-- INSTANCE_DELETE (R49) -/
  | instanceDelete (q tag : Nat) (cqOk : Bool)
  /-- INSTANCE_RESET (R47) -/
  | instanceReset (q tag : Nat) (cqOk : Bool)
  /-- INSTANCE_RESET_COMPLETE (R443) -/
  | instanceResetComplete (inst : Nat) (cqOk : Bool)
  /-- INSTANCE_RESET_TIMEOUT (R443) -/
  | instanceResetTimeout (inst : Nat)
  /-- QUEUE_CREATE (R83) -/
  | queueCreate (q tag : Nat) (cqOk : Bool)
  /-- QUEUE_DELETE (R83) -/
  | queueDelete (q tag : Nat) (cqOk : Bool)
  /-- PASID_BIND (R45) -/
  | pasidBind (q tag : Nat) (cqOk : Bool)
  /-- PASID_UNBIND (R83) -/
  | pasidUnbind (q tag : Nat) (cqOk : Bool)
  /-- KEY_GRANT (R83) -/
  | keyGrant (q tag : Nat) (cqOk : Bool)
  /-- CAM_GRANT (R389) -/
  | camGrant (q tag : Nat) (cqOk : Bool)
  /-- MODERATE (R51) -/
  | moderate (q tag : Nat) (cqOk : Bool)
  /-- LOG_READ_ERROR_LOG (R83) -/
  | logReadErrorLog (q tag : Nat) (w : HostWrite) (cqOk : Bool)
  /-- LOG_READ_HEALTH_REPORT (R439) -/
  | logReadHealthReport (q tag : Nat) (w : HostWrite) (cqOk : Bool)
  /-- DICT_READ (R83) -/
  | dictRead (q tag : Nat) (w : HostWrite) (cqOk : Bool)
  /-- DICT_WRITE (R467) -/
  | dictWrite (q tag : Nat) (value : HostRead) (cqOk : Bool)
  /-- FORMAT (R84) -/
  | format (q tag : Nat) (cqOk : Bool)
  /-- SANITIZE (R85) -/
  | sanitize (q tag : Nat) (cqOk : Bool)
  /-- SELF_TEST_SHORT (R86) -/
  | selfTestShort (q tag : Nat) (cqOk : Bool)
  /-- SELF_TEST_EXTENDED (R86) -/
  | selfTestExtended (q tag : Nat) (cqOk : Bool)
  /-- READ_WAIT_LIMIT (R68) -/
  | readWaitLimit (q tag : Nat) (cqOk : Bool)
  /-- WRITE_CLOSED_REOPEN (R119) -/
  | writeClosedReopen (inst : Nat)
  /-- RUN_START (R223) -/
  | runStart (q tag : Nat) (status ptab param : HostRead) (cqOk : Bool)
  /-- KEY_SCHEDULE_DONE (R351) -/
  | keyScheduleDone (hmac : Bool) (slot : Nat) (cqOk : Bool)
  -- Pytan instructions (10_pytan_instructions_and_timing): core c issues the instruction with fields x
  /-- MOV (R251) -/
  | mov (c : Nat) (x : PyI)
  /-- ADD (R251) -/
  | add (c : Nat) (x : PyI)
  /-- ADDC (R251) -/
  | addc (c : Nat) (x : PyI)
  /-- SUB (R251) -/
  | sub (c : Nat) (x : PyI)
  /-- SUBC (R251) -/
  | subc (c : Nat) (x : PyI)
  /-- NEG (R251) -/
  | neg (c : Nat) (x : PyI)
  /-- AND (R251) -/
  | and (c : Nat) (x : PyI)
  /-- OR (R251) -/
  | or (c : Nat) (x : PyI)
  /-- XOR (R251) -/
  | xor (c : Nat) (x : PyI)
  /-- ANDN (R251) -/
  | andn (c : Nat) (x : PyI)
  /-- NOT (R251) -/
  | not (c : Nat) (x : PyI)
  /-- SHL (R251) -/
  | shl (c : Nat) (x : PyI)
  /-- SHR (R251) -/
  | shr (c : Nat) (x : PyI)
  /-- SAR (R251) -/
  | sar (c : Nat) (x : PyI)
  /-- ROL (R251) -/
  | rol (c : Nat) (x : PyI)
  /-- ROR (R251) -/
  | ror (c : Nat) (x : PyI)
  /-- SETB (R251) -/
  | setb (c : Nat) (x : PyI)
  /-- CLRB (R251) -/
  | clrb (c : Nat) (x : PyI)
  /-- FLPB (R251) -/
  | flpb (c : Nat) (x : PyI)
  /-- FLDU (R251) -/
  | fldu (c : Nat) (x : PyI)
  /-- FLDS (R251) -/
  | flds (c : Nat) (x : PyI)
  /-- WIDEN (R251) -/
  | widen (c : Nat) (x : PyI)
  /-- POPC (R251) -/
  | popc (c : Nat) (x : PyI)
  /-- CLZ (R251) -/
  | clz (c : Nat) (x : PyI)
  /-- MUL (R251) -/
  | mul (c : Nat) (x : PyI)
  /-- MULH (R251) -/
  | mulh (c : Nat) (x : PyI)
  /-- MIN (R251) -/
  | min (c : Nat) (x : PyI)
  /-- MAX (R251) -/
  | max (c : Nat) (x : PyI)
  /-- ADR (R252) -/
  | adr (c : Nat) (x : PyI)
  /-- JMP (R254) -/
  | jmp (c : Nat) (x : PyI)
  /-- CALL (R255) -/
  | call (c : Nat) (x : PyI)
  /-- SKIP (R253) -/
  | skip (c : Nat) (x : PyI)
  /-- SKIPBIT (R257) -/
  | skipbit (c : Nat) (x : PyI)
  /-- RPT (R259) -/
  | rpt (c : Nat) (x : PyI)
  /-- NOP (R251) -/
  | nop (c : Nat) (x : PyI)
  /-- DONE (R246) -/
  | done (c : Nat) (x : PyI)
  /-- DONE_TAKES_EFFECT (R246) -/
  | doneTakesEffect (c : Nat) (w : HostWrite) (cqOk : Bool)
  /-- SCOPY (R251) -/
  | scopy (c : Nat) (x : PyI)
  /-- SCOMP (R251) -/
  | scomp (c : Nat) (x : PyI)
  /-- SSEEK (R251) -/
  | sseek (c : Nat) (x : PyI)
  /-- SFILL (R251) -/
  | sfill (c : Nat) (x : PyI)
  /-- SMAP (R251) -/
  | smap (c : Nat) (x : PyI)
  /-- SCRC (R252) -/
  | scrc (c : Nat) (x : PyI)
  /-- WFE (R261) -/
  | wfe (c : Nat) (x : PyI)
  /-- WFE_WAKE (R261) -/
  | wfeWake (c : Nat)
  /-- SEV (R262) -/
  | sev (c : Nat) (x : PyI)
  /-- WAITT (R263) -/
  | waitt (c : Nat) (x : PyI)
  /-- WAITT_WAKE (R263) -/
  | waittWake (c : Nat)
  /-- FENCE (R265) -/
  | fence (c : Nat) (x : PyI)
  /-- FENCE_DONE (R265) -/
  | fenceDone (c : Nat)
  /-- POST (R264) -/
  | post (c : Nat) (x : PyI)
  /-- POST_ACCEPTED (R264) -/
  | postAccepted (c : Nat)
  /-- ENG (R264) -/
  | eng (c : Nat) (x : PyI)
  /-- CAMS (R395) -/
  | cams (c : Nat) (x : PyI)
  /-- WATCHDOG (R247) -/
  | watchdog (c : Nat) (cqOk : Bool)
  -- Ladle (11_ladle_scheduler)
  /-- ITEM_DISPATCH (R283) -/
  | itemDispatch (c : Nat) (cqOk : Bool)
  /-- STEWARD_ITEM_SUBMIT (R278) -/
  | stewardItemSubmit (d : ItemDesc)
  /-- TIMER_TICK (R292) -/
  | timerTick (p : Nat)
  /-- BACKGROUND_RAISE (R286) -/
  | backgroundRaise (p : Nat)
  /-- STEAL_DELAY_EXPIRY (R287) -/
  | stealDelayExpiry (p : Nat)
  /-- STOCKPOT_BRING_BACK (R295) -/
  | stockpotBringBack (p : Nat)
  -- tile memory (12_tile_memory_and_ecc)
  /-- BANK_OWNER_WRITE (R306) -/
  | bankOwnerWrite (t b : Nat) (v : Word) (w : OwnerWriter)
  /-- BANK_HANDOVER (R306) -/
  | bankHandover (t b : Nat)
  /-- BANK_ZEROING_DONE (R308) -/
  | bankZeroingDone (t b : Nat)
  /-- TL_EVP_WRITE (R422) -/
  | tlEvpWrite (t : Nat) (v : Word)
  /-- REMAP_ENTRY_WRITE (R320) -/
  | remapEntryWrite (t b n : Nat) (v : Word)
  /-- TL_RET_WRITE (R314) -/
  | tlRetWrite (t : Nat) (v : Word)
  /-- RETENTION_ENTRY (R314) -/
  | retentionEntry (t g : Nat)
  /-- RETENTION_WAKE_DONE (R314) -/
  | retentionWakeDone (t g : Nat)
  /-- CONFLICT_COUNTER_CLEAR (R304) -/
  | conflictCounterClear (t : Nat) (v : Word)
  /-- COLLIDE_CLEAR (R310) -/
  | collideClear (t b : Nat) (v : Word)
  /-- MERGE_ENTRY_WRITE (R313) -/
  | mergeEntryWrite (t b : Nat)
  /-- HARD_FAULT_CHECK (R320) -/
  | hardFaultCheck (t b : Nat) (again : BitVec 7)
  /-- SCRUB_READ (R322) -/
  | scrubRead (t b : Nat) (upset : BitVec 39) (staged : Option (Nat × Nat))
  /-- BUCKET_LEAK (R319) -/
  | bucketLeak
  /-- MAP_STORE_SCRUB (R323) -/
  | mapStoreScrub (synd : BitVec 7)
  -- engines (13, 14, 15)
  /-- REDUCER_JOB_END (R341) -/
  | reducerJobEnd (t : Nat) (cqOk : Bool)
  /-- EXPANDER_JOB_END (R341) -/
  | expanderJobEnd (t : Nat) (cqOk : Bool)
  /-- CIPHER_JOB_END (R365) -/
  | cipherJobEnd (t lane : Nat) (cqOk : Bool)
  /-- DIGEST_JOB_END (R373) -/
  | digestJobEnd (t lane : Nat) (wordA wordB : Bool) (cqOk : Bool)
  /-- CIPHER_SEGMENT_BOUNDARY (R357) -/
  | cipherSegmentBoundary (t lane checkFails : Nat)
  /-- DIGEST_SEGMENT_BOUNDARY (R373) -/
  | digestSegmentBoundary (t lane : Nat)
  /-- DECODER_KNOWN_ANSWER_TEST (R428) -/
  | decoderKnownAnswerTest (soft : Bool) (n : Nat) (pass : Bool)
  /-- LANE_KNOWN_ANSWER_TEST (R428) -/
  | laneKnownAnswerTest (t : Nat) (lane : TestLane) (pass : Bool)
  -- associative search (16)
  /-- SEARCH_START (R385) -/
  | searchStart
  /-- SEARCH_RESPONSE (R384) -/
  | searchResponse (w : HostWrite) (cqOk : Bool)
  /-- CAM_MOVE (R387) -/
  | camMove (cqOk : Bool)
  /-- CAM_PARITY_SCAN (R428) -/
  | camParityScan (failing : Option Nat)
  /-- CAM_SEGMENT_PLACING_DONE (R429) -/
  | camSegmentPlacingDone (seg : Nat)
  -- DRAM (17)
  /-- DRAM_READ_RETURN (R400); `asked` are the requests made of the subchannel since the last, `beats` the DQ and CB lines of the burst
that returns, DQ in the low bits -/
  | dramReadReturn (ch sub : Nat) (asked : List DramReq) (beats : List (BitVec 40))
  /-- DRAM_REFRESH (R407) -/
  | dramRefresh (ch sub rank : Nat)
  /-- MR4_READ (R407) -/
  | mr4Read (ch sub rank rate temp : Nat)
  /-- ZQ_CALIBRATION (R408) -/
  | zqCalibration (ch sub : Nat)
  /-- ROW_IDLE_CLOSE (R406) -/
  | rowIdleClose (ch sub rank bank : Nat)
  /-- DRAM_SCRUB (R403) -/
  | dramScrub (ch sub rank bank row col : Nat) (beats : List (BitVec 40))
  /-- DC_RETRAIN_WRITE (R409) -/
  | dcRetrainWrite (ch : Nat) (v : Word)
  /-- DRAM_RETRAIN_DONE (R409) -/
  | dramRetrainDone (ch sub : Nat) (ok : Bool)
  -- Rhaent links (06)
  /-- RDATA (R174); `line` is what the line carries, in blocks as the receiver is aligned, from the control block of the frame's SOF on -/
  | rdata (l : Nat) (line : List (BitVec 130)) (refusals : Nat) (cqOk : Bool)
  /-- RSP (R160) -/
  | rsp (l : Nat) (line : List (BitVec 130))
  /-- ACK (R161) -/
  | ack (l : Nat) (w : Word)
  /-- NAK (R161) -/
  | nak (l : Nat) (w : Word)
  /-- CRD (R156) -/
  | crd (l : Nat) (w : Word)
  /-- TS1 (R163) -/
  | ts1 (l : Nat) (w : Word)
  /-- TS2 (R163) -/
  | ts2 (l : Nat) (w : Word)
  /-- STBY (R167) -/
  | stby (l : Nat) (w : Word)
  /-- WAKE (R167) -/
  | wake (l : Nat) (w : Word)
  /-- SLEEP (R167) -/
  | sleep (l : Nat) (w : Word)
  /-- BLOCK_LOCK (R153); `line` is what the line carries while the receiver hunts, 130 bits at a time -/
  | blockLock (l : Nat) (line : List (BitVec 130))
  /-- BLOCK_HUNT_TIMEOUT (R153) -/
  | blockHuntTimeout (l : Nat)
  /-- LOSS_OF_LOCK (R153); `shs` are the sync headers of the last 16 blocks -/
  | lossOfLock (l : Nat) (shs : List (BitVec 2))
  /-- REPLAY_TIMEOUT (R161) -/
  | replayTimeout (l : Nat)
  /-- CREDIT_STALL (R158) -/
  | creditStall (l vc : Nat)
  /-- NAK_HOLDOFF_END (R160) -/
  | nakHoldoffEnd (l : Nat)
  /-- SIGNAL_DETECT (R163) -/
  | signalDetect (l : Nat)
  /-- DETECT_TIMEOUT (R162) -/
  | detectTimeout (l : Nat)
  /-- EQUALISATION_PRESET (R163) -/
  | equalisationPreset (l quality : Nat)
  /-- TRAINING_LIMIT (R163) -/
  | trainingLimit (l : Nat)
  /-- ENUMERATION_WAVE (R164) -/
  | enumerationWave
  /-- RECOVERY_TIMEOUT (R165) -/
  | recoveryTimeout (l : Nat)
  /-- FULL_RETRAIN_FAILURE (R165) -/
  | fullRetrainFailure (l : Nat)
  /-- LINK_DEGRADED (R166) -/
  | linkDegraded (l : Nat)
  -- media operations (07)
  /-- READ_PAGE_RESPONSE (R172); `rec` is the response record (R173) -/
  | readPageResponse (l : Nat) (rec : BitVec 128) (erased : Bool) (cqOk : Bool)
  /-- PROGRAM_RESPONSE (R175) -/
  | programResponse (l : Nat) (rec : BitVec 128) (cqOk : Bool)
  /-- ERASE_RESPONSE (R96) -/
  | eraseResponse (l : Nat) (rec : BitVec 128) (cqOk : Bool)
  /-- STATUS_RESPONSE (R172) -/
  | statusResponse (l : Nat) (rec : BitVec 128)
  /-- GET_FEATURE_RESPONSE (R172) -/
  | getFeatureResponse (l : Nat) (rec : BitVec 128)
  /-- SET_FEATURE_RESPONSE (R172) -/
  | setFeatureResponse (l : Nat) (rec : BitVec 128)
  /-- SUSPEND_RESPONSE (R201) -/
  | suspendResponse (l : Nat) (rec : BitVec 128)
  /-- RESUME_RESPONSE (R172) -/
  | resumeResponse (l : Nat) (rec : BitVec 128)
  /-- READ_PILOT_RESPONSE (R190) -/
  | readPilotResponse (l : Nat) (rec : BitVec 128) (up down : Nat)
  /-- DESCRIPTOR_RESPONSE (R178); `d` is the 256 bytes of its RDATA frame (R177) -/
  | descriptorResponse (l : Nat) (rec : BitVec 128) (d : Bytes)
  /-- DIE_NO_ANSWER (R199) -/
  | dieNoAnswer (l die : Nat) (cqOk : Bool)
  /-- SUSPEND_WAIT (R200) -/
  | suspendWait (l die : Nat)
  /-- SUSPEND_LIMIT (R200) -/
  | suspendLimit (l die : Nat)
  /-- CODEWORD_DECODE (R191) -/
  | codewordDecode (l cid : Nat) (r : CwResult) (w : HostWrite) (cqOk : Bool)
  /-- PARITY_REBUILD (R194) -/
  | parityRebuild (l cid : Nat) (w : HostWrite) (cqOk : Bool)
  /-- PILOT_SWEEP (R190) -/
  | pilotSweep
  /-- PILOT_REWRITE (R189) -/
  | pilotRewrite (l die plane : Nat)
  /-- BAND_AGE_REFRESH (R196) -/
  | bandAgeRefresh (p band : Nat)
  -- store background work (04)
  /-- VERIFY_READ (R103) -/
  | verifyRead (p band : Nat) (cqOk : Bool)
  /-- RELOCATION_START (R112) -/
  | relocationStart (slab : Nat)
  /-- FOLD_ROW (R107) -/
  | foldRow (p band : Nat)
  -- journal, power, reset, bring-up (05, 20)
  /-- JOURNAL_INTERVAL (R127) -/
  | journalInterval
  /-- JOURNAL_BUFFER_THRESHOLD (R127) -/
  | journalBufferThreshold
  /-- JOURNAL_PAGE_PERSISTED (R128) -/
  | journalPagePersisted (cqOk : Bool)
  /-- CHECKPOINT_TIMER (R129) -/
  | checkpointTimer
  /-- CHECKPOINT_JOURNAL_VOLUME (R129) -/
  | checkpointJournalVolume
  /-- CHECKPOINT_DONE (R129) -/
  | checkpointDone (cqOk : Bool)
  /-- POWER_FAIL_ASSERTED (R131) -/
  | powerFailAsserted
  /-- POWER_FAIL_RETURN (R133) -/
  | powerFailReturn
  /-- POWER_ON (R444) -/
  | powerOn
  /-- PERST_ASSERTED (R445) -/
  | perstAsserted
  /-- PERST_DEASSERTED (R444) -/
  | perstDeasserted (nodeId : BitVec 5) (bootSel : BitVec 2)
  /-- DEV_RST_ASSERTED (R445) -/
  | devRstAsserted
  /-- DEV_RST_DEASSERTED (R444) -/
  | devRstDeasserted (nodeId : BitVec 5) (bootSel : BitVec 2)
  /-- BOOT_IMAGE_LOADED (R449) -/
  | bootImageLoaded (img : BootImage)
  /-- CFG_READY (R452) -/
  | cfgReady
  /-- ADMIN_READY (R452) -/
  | adminReady
  /-- DRAM_READY (R408) -/
  | dramReady (gib : Nat) (results : List (Nat × TrainResult))
  /-- REGION_READY (R452) -/
  | regionReady (p : Nat)
  /-- RECOVERY_START (R134) -/
  | recoveryStart (scan : ScanIn)
  /-- MAP_READY (R134) -/
  | mapReady
  /-- WALL_TIME_DEADLINE (R186) -/
  | wallTimeDeadline
  /-- CONFIG_SAVE_DONE (R460) -/
  | configSaveDone (cqOk : Bool)
  -- field network (21)
  /-- KDP_READ (R476) -/
  | kdpRead (port : Nat) (frame : Bytes)
  /-- KDP_WRITE (R467) -/
  | kdpWrite (port : Nat) (frame : Bytes)
  /-- KDP_BREAD (R476) -/
  | kdpBread (port : Nat) (frame : Bytes)
  /-- KDP_BWRITE (R476) -/
  | kdpBwrite (port : Nat) (frame : Bytes) (readBackOk : Bool)
  /-- KDP_BWRITE_TIMEOUT (R476) -/
  | kdpBwriteTimeout (role : Nat)
  /-- NOTIFY (R479) -/
  | notify (port : Nat)
  -- power states and clocks (22)
  /-- P1_ENTRY (R483) -/
  | p1Entry
  /-- P2_ENTRY (R484) -/
  | p2Entry
  /-- P3_ENTRY (R487) -/
  | p3Entry
  /-- POWER_STATE_EXIT_DONE (R486) -/
  | powerStateExitDone
  /-- TILE_CLOCK_DROP (R488) -/
  | tileClockDrop (t : Nat)
  /-- TILE_CLOCK_RAISE (R491) -/
  | tileClockRaise (t : Nat)
  /-- CORE_CLOCK_STOP (R499) -/
  | coreClockStop (c : Nat)
  /-- GOVERNOR_ESTIMATE (R492) -/
  | governorEstimate (mW : Nat)
  /-- THERMAL_SAMPLE (R494) -/
  | thermalSample (temps : List Nat)
  -- interrupts (18); controller 64 is the steward's
  /-- INT_DOORBELL (R418) -/
  | intDoorbell (ctl : Nat) (v : Word)
  /-- DELIVERY_COMMIT (R419) -/
  | deliveryCommit (ctl src : Nat)
  /-- INT_CMASK (R420) -/
  | intCmask (ctl : Nat) (v : Word)
  /-- INT_ACK (R422) -/
  | intAck (ctl : Nat) (v : Word)
  /-- LOCK (R416) -/
  | lock
  -- faults, health and the ledger (19)
  /-- HEARTBEAT_MISSED (R430) -/
  | heartbeatMissed (t : Nat) (cqOk : Bool)
  /-- TILE_RESTART (R433) -/
  | tileRestart (t : Nat) (ok : Bool)
  /-- TILE_RESTART_DONE (R433) -/
  | tileRestartDone (t : Nat)
  /-- REGION_FAULT (R436) -/
  | regionFault (p cause : Nat) (cqOk : Bool)
  /-- REGION_RESTART_DONE (R436) -/
  | regionRestartDone (p : Nat) (ok : Bool)
  /-- CHIP_FAULT (R437) -/
  | chipFault (c : ChipCause) (cqOk : Bool)
  /-- LEDGER_CHECK (R442) -/
  | ledgerCheck (quantity index held : Nat)
  /-- POWER_LOSS (R123) -/
  | powerLoss
  /-- TILE_PARITY_ERROR (R430) -/
  | tileParityError (t : Nat) (u : TileUnit)
  /-- DQS_OSCILLATOR_DRIFT (R409) -/
  | dqsOscillatorDrift (ch sub drift : Nat)
  /-- PCIE_LINK_STATE_CHANGE (R415) -/
  | pcieLinkStateChange (up : Bool)
  /-- ATS_INVALIDATE (R22) -/
  | atsInvalidate
deriving DecidableEq, Repr

end Sys2Proof
end

