-- ==== Sys2Proof/Config.lean ====
section
/-! DEFINITION. What an implementation fixes, and the free values.

A free value is a constant with no body: no proof can see what it is (assumption 6). Each is applied to the counter
`State.free`, which the step reads and advances, or to the operands it depends on. -/

namespace Sys2Proof.Config

/-- A random 64-bit word of the device's random bit generator: the boot nonce of R474. -/
opaque freeDWord : Nat → DWord

/-- Which of two allowed values a racing DRAM read returns (R233: the old or the new value of each aligned word):
true for the new one. -/
opaque freeChoice : Nat → Bool

/-- The result bits of an operation whose value the spec does not state. -/
opaque freeNat : Nat → Nat

/-- What the fuses of the part hold: the expected boot digests with their revoke bits (R376), the factory key (R472), the MAC
address and the serial number (21). -/
opaque fusedDigests : List (BitVec 256 × Bool)
opaque fusedFactoryKey : Bytes
opaque fusedMac : Bytes
opaque fusedSerial : Bytes

/-- Identity of the PCIe function and its limits (R22): device ID, class code, tags of outstanding reads in FLIT mode and
otherwise, the ATS translation unit and the depth of the ATS invalidate queue. -/
def deviceId : BitVec 16 := 0x0512
def classCode : BitVec 24 := 0x018000
def readTagsFlit : Nat := 4096
def readTags : Nat := 768
def atsUnit : Nat := 4096
def atsDepth : Nat := 32

/-- Number of grains in a slab (03: a slab holds 1 GiB in grains of 1 KiB). -/
def slabGrains : Nat := 1048576
/-- Entries of the slab table (R90). -/
def slabEntries : Nat := 2097152
/-- Largest exported slab count (R92). -/
def maxExported : Nat := 1862645
/-- Entries of the operation table, and its two reservations (R43). -/
def opEntries : Nat := 65536
def opQueue0 : Nat := 256
def opUrgent : Nat := 1024
/-- Log index positions and log slabs (R109, R110). -/
def logIndexSize : Nat := 131072
def logSlabsPerInst : Nat := 8
def logSlabsDevice : Nat := 1024
/-- Journal buffer entries, its flush threshold, entries of a page (R127). -/
def journalBuf : Nat := 8192
def journalThreshold : Nat := 6144
def journalPage : Nat := 512
/-- Remap entries of a region (R115). -/
def remapEntries : Nat := 8192
/-- Parity pages of a region's ring (R102). -/
def parityPages : Nat := 655360
/-- The SLC floor in bands (R105, R116). -/
def slcFloor : Nat := 256
/-- Ready-queue, level-0, timer-list and flow sizes (R282, R293, R289). -/
def readySize : Nat := 4096
def level0Places : Nat := 64
def timerSize : Nat := 2048
def flowCount : Nat := 16384
/-- Cipher key slots (R344). -/
def cipherSlots : Nat := 4096
/-- Push-back thresholds (R294). -/
def pushBackOn : Nat := 3840
def pushBackOff : Nat := 3584
/-- Handles of an instance and device-wide executing RUNs (R223). -/
def handlesPerInst : Nat := 64
def runsDevice : Nat := 1024
/-- Program store bytes and largest image (R243). -/
def progStore : Nat := 4194304
def imageMax : Nat := 65536
/-- CAM places and segments (R379). -/
def camPlaces : Nat := 131072
def camSegPlaces : Nat := 8192

end Sys2Proof.Config
end

