-- ==== Sys2Proof/Machine/State.lean ====
section
/-! DEFINITION. The whole state of the AZ512, as plain data, its reset value, and the reasons a step can stop.

Every field is written `name : type := reset`, and its comment says width, rule and chapter of spec/, and what it is.
`DC` in a comment marks a reset value the spec does not state (DESIGN CHOICE, assumption 1).
`own` marks a field that is the model's own bookkeeping, not a register the spec names (assumption 3). -/

namespace Sys2Proof.Machine

/-! ### Host queues and instances (02, 03) -/

/-- `HQ_CTX.STATE.STATE` (02, R38). -/
inductive QState where
  | disabled | active | frozen | draining
deriving DecidableEq, Repr

/-- Why a queue drains (R38): it decides what QUEUE_DRAIN_END makes of it. -/
inductive DrainCause where
  | none | delete | instReset | instDelete | flr
deriving DecidableEq, Repr

/-- Completion class (02, completion entry [2:1]). -/
inductive CplClass where
  | success | refused | failed | aborted
deriving DecidableEq, Repr

/-- A 16-byte completion entry (02, R31). -/
structure Cpl where
  result : DWord := 0
  sqHead : BitVec 5 := 0
  phase : Bool := false
  cls : CplClass := .success
  frozen : Bool := false
  slack : Bool := false
  tag : BitVec 5 := 0
  code : BitVec 8 := 0
deriving DecidableEq, Repr

/-- A completion held under CQ_WRITE_FAULT (R41), with the ring entry it belongs to. -/
structure HeldCpl where
  slot : BitVec 5
  cpl : Cpl
  sqe : BitVec 512 := 0               -- own: the submission entry of its command, for the error log page (R32, R41)
  pasid : Option (BitVec 20) := none  -- own: the PASID its write carries (R45)
deriving DecidableEq, Repr

/-- Error log page (02, R32, R39, R89); all fields reset to 0 with the queue's context (R38). -/
structure Elog where
  valid : Bool := false
  more : Bool := false
  tag : BitVec 5 := 0
  opcode : BitVec 8 := 0
  code : BitVec 8 := 0
  freezes : Word := 0
  time : DWord := 0
  detail : DWord := 0
  slab : Word := 0
  started : BitVec 6 := 0
  notStarted : BitVec 6 := 0
  sqe : BitVec 512 := 0
deriving DecidableEq, Repr

/-- Queue context page of one queue (02, R32). -/
structure Queue where
  st : QState := .disabled            -- 2 bits, R32 R38, reset 0
  restartPending : Bool := false      -- 1 bit, R32 R41, reset 0
  flushPending : Bool := false        -- own: the pending restart was written with FLUSH_PENDING (R41)
  inst : Nat := 0                     -- 8 bits INSTANCE, R32, reset 0
  cls : BitVec 2 := 0                 -- CLASS, R32, reset 0
  weight : BitVec 8 := 0              -- WEIGHT, R32, reset 0
  vector : BitVec 11 := 0             -- HQ_CTX.VECTOR, R32, reset 0 (DC)
  pasid : Option (BitVec 20) := none  -- HQ_CTX.PASID with its valid bit, R32 R45, reset invalid (DC)
  sqBase : DWord := 0                 -- HQ_CTX.SQBASE, R32, reset 0 (DC)
  cqBase : DWord := 0                 -- HQ_CTX.CQBASE, R32, reset 0 (DC)
  sqHead : BitVec 5 := 0              -- HQ_CTX.PTRS, R32, reset 0 (R38)
  sqTail : BitVec 5 := 0              -- HQ_CTX.PTRS
  cqTail : BitVec 5 := 0              -- HQ_CTX.PTRS
  cqHead : BitVec 5 := 0              -- HQ_CTX.PTRS
  phase : Bool := false               -- HQ_CTX.PTRS [31]; 1 on entering ACTIVE (R38)
  unfetched : Nat := 0                -- own: entries between SQ_HEAD and SQ_TAIL (0-32)
  tags : Word := 0                    -- HQ_CTX.TAGS, R32, reset 0
  elog : Elog := {}                   -- ELOG, R32
  marks : Word := 0                   -- abort marks of unfetched slots, R82
  cqTags : List (BitVec 5) := []      -- own: tags of the unconsumed completion entries, oldest first (R36)
  held : List HeldCpl := []           -- completions held under CQ_WRITE_FAULT, R41
  discard : Bool := false             -- own: a completion write faulted in DRAINING (R41)
  drain : DrainCause := .none         -- own: the event that put the queue in DRAINING (R38)
  grants : Nat := 0                   -- own: grants received in the current round (R42)
deriving DecidableEq, Repr

/-- The pool an operation-table entry was drawn from (R43). -/
inductive OpPool where
  | queue0 | urgent | shared
deriving DecidableEq, Repr

/-- One entry of the operation table (10 of R10, R43): a fetched command. -/
structure Op where
  sqe : BitVec 512 := 0               -- the submission entry, R56
  inst : Nat := 0                     -- owning instance, R43
  pool : OpPool := .shared            -- R43
  order : Nat := 0                    -- own: fetch order, for R75
  started : Bool := false             -- R39: started or only fetched
  listOk : Bool := false              -- the descriptor list has been read whole (R60)
  slack : Bool := false               -- R62
  share : Option (Nat × Nat) := none  -- own: region and grains of the staging share that its arriving group holds (R121)
  first : Nat := 0                    -- first grain (APPEND, OVERWRITE)
  bytesIn : Nat := 0                  -- own: host bytes received
  rlist : HostRead := .ok []          -- own: what the read of a RUN's range list answered (R75)
  pend : Bytes := []                  -- own: received bytes not yet in a commit group
  grains : Nat := 0                   -- own: grains kept (R64)
  blocks : Nat := 0                   -- own: source blocks coded (R64)
  groupsDone : Bool := false          -- own: every group is staged
  bins : List (BitVec 2) := []        -- bin list, R66
  binsBad : Option DWord := none      -- own: the host address at which writes of the bin list fault (R66)
  want : List Nat := []               -- own: grains of a READ not yet delivered
  bad : Option Nat := none            -- own: lowest grain found poisoned or lost so far (R184)
  got : List (Nat × Bytes) := []      -- own: grains of the unit being expanded, as decoded (R69)
  at_ : Nat := 0                      -- own: first grain of the unit being expanded
  bytesOut : Nat := 0                 -- own: bytes written to the host (R64)
  units : Nat := 0                    -- own: units expanded (R69)
  waiting : Option Nat := none        -- own: a READ or RUN waits since this time (R68)
  keyGen : Option (Nat × Nat) := none -- key slot and generation referenced (R352)
  base : Nat := 0                     -- own: write pointer when the command started (R81)
  logSlab : Option Nat := none        -- own: log slab an OVERWRITE writes (R109)
  aborter : Option Nat := none        -- own: key of the ABORT command that stopped this one (R80)
  checked : Bool := false             -- own: a RUN or ABORT whose own checks have passed and that has not started (R206)
deriving DecidableEq, Repr

/-- One MSI-X vector with its moderation (R50 to R54). -/
structure Vec where
  count : Nat := 1                    -- R51, 1-32, default 1
  window : Nat := 0                   -- R51, 0-1000 µs, default 0
  posted : Nat := 0                   -- own: completions posted since the last message
  winEnd : Option Nat := none         -- own: end instant of the open window
  winCount : Nat := 1                 -- own: count in force for the open window
  pending : Bool := false             -- MSI-X pending bit, R52
  masked : Bool := true               -- vector control mask bit; PCIe resets it to 1 (PRESUMED, assumption 4)
  addr : DWord := 0                   -- MSI-X table address (DC)
  data : Word := 0                    -- MSI-X table data (DC)
deriving DecidableEq, Repr

/-- Instance states (R44). -/
inductive IState where
  | free | active | writeClosed | resetting
deriving DecidableEq, Repr

/-- One instance (R44 to R49). -/
structure Inst where
  st : IState := .free                -- R44; instance 0 is ACTIVE
  quota : Nat := 0                    -- operation quota, 32-65,536, R43
  extents : List (Nat × Nat) := []    -- namespace descriptor: (table index, length) in slab order, at most 8, R91
  pasid : Option (BitVec 20) := none  -- R45
  keyBase : Nat := 0                  -- cipher slot range, R83
  keyCount : Nat := 0
  hmacBase : Nat := 0                 -- HMAC slot range, R83
  hmacCount : Nat := 0
  camBase : Nat := 0                  -- CAM context range, R83
  camCount : Nat := 0
  camQuota : Nat := 0                 -- CAM entry quota, R83
  camAz128 : Bool := false            -- region layout, R388
  camStart : Nat := 0                 -- first place of the CAM region, R388
  camLen : Nat := 0                   -- places of the CAM region, R388
  camGap : Nat := 16                  -- hole interval the region was created with, R388
  resetOp : Option (Nat × Nat) := none -- own: queue and tag of the reset or delete in progress
  resetAt : Nat := 0                  -- own: when it began (R443)
  resetDelete : Bool := false         -- own: it is a delete (R49)
  keepKeys : Bool := false            -- own: KEEP_KEYS of the reset (R47)
  prior : IState := .active           -- own: state before the reset (R454)
  spareOkSince : Option Nat := none   -- own: since when the spare pool is at the reserve (R119)
deriving DecidableEq, Repr

/-- PCIe power and link conditions (R53, R54). -/
inductive PcieState where
  | d0 | l1 | d3hot
deriving DecidableEq, Repr

/-- The host queue engine, the PCIe function and the instances (02). -/
structure HostQ where
  queues : SMap Queue := []           -- 4,096 queue context pages, R29 R32
  ops : SMap (Option Op) := []        -- operation table, key 32 q + tag, R43
  fetchSeq : Nat := 0                 -- own: fetches made, for R75
  cqAnswer : Bool := true             -- own: the host's answer to completion writes while one row runs; true between rows
  vecs : SMap Vec := []               -- 2,048 MSI-X vectors, R22 R50
  funcMask : Bool := false            -- MSI-X function mask; PCIe resets it to 0 (PRESUMED, assumption 4)
  aqSqBase : DWord := 0               -- CU_AQ_SQBASE, R26, reset 0 (DC)
  aqCqBase : DWord := 0               -- CU_AQ_CQBASE, R26, reset 0 (DC)
  aqEnable : Bool := false            -- CU_AQ_CTRL.ENABLE, R26, reset 0
  aqVector : BitVec 11 := 0           -- CU_AQ_CTRL.VECTOR, R26, reset 0
  cuEvent : Word := 0                 -- CU_EVENT, R27, reset 0
  cuEventMask : Word := 0             -- CU_EVENT_MASK, R26, reset 0
  shutdown : Bool := false            -- own: CU_CTRL.SHUTDOWN has been written (R28)
  shutdownDone : Bool := false        -- CU_STATUS.SHUTDOWN_DONE, R26, reset 0 (DC)
  idReady : Word := 0                 -- ID_READY, R26, reset 0
  dramPresent : Bool := false         -- ID_CAPS [0], R26 R398, reset 0 (DC: no DRAM found yet)
  compact : Bool := true              -- ID_CAPS [1], R26 R398, reset 1 (DC: in force while no DRAM)
  pcie : PcieState := .d0             -- function and link power state, R53 R54
  linkUp : Bool := false              -- PCIe link up, R415 R445, reset 0 (DC)
  heldCpl : List (Nat × HeldCpl) := [] -- completions held in D3hot, in order, R54
  heldMsg : List Nat := []            -- messages held in D3hot, R54
  maxPayload : BitVec 3 := 0          -- Device Control [7:5], R22: 0 128, 1 256, 2 512 bytes; reset as PCIe has it (PRESUMED, assumption 4)
  maxReadReq : BitVec 3 := 2          -- Device Control [14:12], R22: 128·2^n bytes, at most 4,096; reset as PCIe has it (PRESUMED, assumption 4)
  urgentNext : Nat := 0               -- own: next Urgent queue, round robin (R42)
  classNext : Nat × Nat × Nat := (0, 0, 0) -- own: next queue of High, Medium, Low
  classLeft : Nat × Nat × Nat := (0, 0, 0) -- own: grants left of High, Medium, Low in the round (R42)
  insts : SMap Inst := [(0, { st := .active, quota := 65536 })] -- 256 instances, R44 (instance 0 exists, quota 65,536)
  stopFetch : Bool := false           -- own: fetching is stopped by R131 step 1, R437 or a reset
deriving DecidableEq, Repr

/-! ### The store (04) -/

/-- Slab states (04, R93). -/
inductive SlabSt where
  | empty | opened | full | retired
deriving DecidableEq, Repr

/-- Slab table entry (04, R91), 64 bits; reset EMPTY with everything 0 (DC). -/
structure Slab where
  st : SlabSt := .empty
  log : Bool := false
  tail : Bool := false
  moving : Bool := false
  slc : Bool := false
  region : Nat := 0
  band : Nat := 0
  wp : Nat := 0
  inst : Nat := 0
deriving DecidableEq, Repr

/-- Band states (04, R96). -/
inductive BState where
  | free | opened | closed | verified | stale | erasing | retired
deriving DecidableEq, Repr

/-- Band table entry (04, R95), 32 bits, with the counts that R103, R104, R185 and R196 keep per band. -/
structure Band where
  st : BState := .free
  remapped : Bool := false
  role : Nat := 0                     -- 0 slab, 1 log, 2 SLC, 3 parity, 4 journal, 5 spare, 6 donor
  erases : Nat := 0                   -- ERASES: the highest erase count among its dieblocks, R114
  own : Nat := 0                      -- own: erase count of its dieblocks that are not remapped (R114)
  firstProg : Option Nat := none      -- age clock at first program, R185 R186
  closedAt : Option Nat := none       -- own: when it was CLOSED (R103)
  erasePend : List Nat := []          -- own: tiles whose dieblock erase has not ended
  eraseWait : List Nat := []          -- own: tiles whose dieblock erase waits for its link (R199)
  checking : List Nat := []           -- own: tiles whose first-row read has not ended (R137)
  lossy : Bool := false               -- own: it lost a dieblock that cannot be replaced (R96)
  torn : Bool := false                -- own: it holds a page neither erased nor valid (R137)
  readers : Nat := 0                  -- own: active RUN ranges reading it (R221)
deriving DecidableEq, Repr

/-- One log extent (R109), with its age. -/
structure Extent where
  slab : Nat := 0
  first : Nat := 0
  count : Nat := 0
  logSlab : Nat := 0
  logFirst : Nat := 0
  age : Nat := 0                      -- own: the newest extent covering a grain is live
  cgid : Nat := 0                     -- own: commit group number of its group (R136)
deriving DecidableEq, Repr

/-- A log slab (R109, R110). -/
structure LogSlab where
  inst : Nat := 0
  region : Nat := 0
  band : Nat := 0
  fill : Nat := 0                     -- grains written, 0-1,048,576
deriving DecidableEq, Repr

/-- Why a slab is relocated (R112). -/
inductive MoveWhy where
  | merge | verifyFail | wear | refresh | loss
deriving DecidableEq, Repr

/-- A relocation or merge under way (R112, R113, the region's open-band record). -/
structure Move where
  why : MoveWhy := .merge
  srcRegion : Nat := 0
  srcBand : Nat := 0
  dstRegion : Nat := 0
  dstBand : Nat := 0
  w0 : Nat := 0
  epoch : Nat := 0
  begun : Bool := false               -- MOVE_BEGIN persisted (R139)
  copied : Nat := 0                   -- rows copied
  left : Nat := 0                     -- own: codewords of the current row still to be read
  exts : List (Nat × Nat) := []       -- own: (index position, age) of extents live at the copy of every row so far
  missed : List Nat := []             -- own: ages of extents not live at the copy of some row that holds them
  wseq : Nat := 0                     -- own: write sequence number before the row being programmed (R182)
  dead : Option (List (Nat × Nat)) := none -- own: once step 4 has begun, consumed extents (position, age) not yet named (R125)
  switching : Bool := false           -- MAP_SWITCH journaled
  phase : Nat := 0                    -- own: current row: 0 to be read, 1 being read, 2 being programmed; 3 and 4 a fresh target is awaited, with and without the old one
  got : List (Nat × Bytes × Bool) := [] -- own: grains of the current row as read, with POISON
  mids : List (Nat × Nat × Nat) := [] -- earlier targets (region, band, first grain) of a move begun again, R112, R138
  foreground : Bool := false          -- a waiting command needs it (R110, R220)
deriving DecidableEq, Repr

/-- SLC residency of a band (R106, R107): rows [f, w). -/
structure SlcRec where
  f : Nat := 0
  w : Nat := 0
  rows : List (Nat × Nat × Nat) := [] -- (row, SLC band, row of the SLC band)
  pages : List (Nat × Nat × Nat) := [] -- single pages placed anew after a program failure: (8 row + tile, band, row), R198
  left : Nat := 0                     -- own: codewords of the row being folded still to be read
  phase : Nat := 0                    -- own: row F: 0 at rest, 1 being read, 2 being programmed
  got : List (Nat × Bytes × BitVec 256) := [] -- own: codewords of row F as read: number in the row, data, tag
deriving DecidableEq, Repr

/-- A staged grain in protected staging (R120). -/
structure Staged where
  slab : Nat := 0                     -- slab table index
  grain : Nat := 0
  region : Nat := 0
  band : Nat := 0
  at_ : Nat := 0                      -- grain position in the band (R95)
  data : Bytes := []
  desc : BitVec 4 := 0                -- grain descriptor, R183
  wseq : Nat := 0
  cgid : Nat := 0
  last : Bool := false                -- last codeword of its commit group, R182
  issued : Bool := false              -- own: the program of its row has been issued
  programmed : Bool := false          -- its page is programmed
  grp : Nat := 0                      -- own: first grain of its commit group
  wpAt : Nat := 0                     -- own: write pointer of its slab when its group was staged (R136)
  kind : Nat := 0                     -- KIND of its tag: 0 slab data, 1 log slab data, R182
  reloc : Option (Nat × Nat × Nat) := none -- RELOC, SRCREGION, SRCBAND and EPOCH of its tag, R112 R182
  poison : Bool := false              -- its word was uncorrectable (R428)
deriving DecidableEq, Repr

/-- A verify-read under way (R103): the row being read, codewords to come, tiles with a failing codeword. -/
structure Verify where
  row : Nat := 0
  left : Nat := 0
  bad : List Nat := []
  test : Bool := false                -- own: it is made by the extended self-test (R86)
deriving DecidableEq, Repr

/-- The copy of a dieblock to its replacement after a program failure (R197). -/
structure Repair where
  tile : Nat := 0
  row : Nat := 0                      -- the failed row
  next : Nat := 0                     -- page being copied
  left : Nat := 0                     -- codewords of it still to be read
  phase : Nat := 4                    -- own: 4 first row of the donor dieblock being read (R137); page: 0 to be read, 1 being read, 2 being programmed; 3 the failed row
  got : List (Nat × Bytes × BitVec 256) := [] -- own: codewords of the page as read: number in the page, data, tag
  donor : Nat := 0                    -- band that gives the replacing dieblock
  old : Nat := 0                      -- own: the failing dieblock, a band index
  more : List (Nat × Nat) := []       -- own: (row, tile offset) of further program failures in the band
deriving DecidableEq, Repr

/-- Dieblock remap entry (R115). -/
structure Remap where
  tile : Nat := 0
  retired : Nat := 0
  replacing : Nat := 0
  erases : Nat := 0                   -- the remapped dieblock's own erase count, R114
deriving DecidableEq, Repr

/-- What the map store and the region buffers hold of the store (R90): the part a checkpoint saves (R129). -/
structure Store where
  slabs : SMap Slab := []             -- slab table, 2,097,152 entries, R90
  tails : SMap Bytes := []            -- stream tails by table index, R67
  tailSeqs : SMap Nat := []           -- WSEQ of the tag held with each stream tail, R120
  descs : SMap (BitVec 4) := []       -- grain descriptors, key slab * 2^20 + grain, R183
  exts : SMap (Option Extent) := []   -- log index, 131,072 positions, R109
  logs : SMap (Option LogSlab) := []  -- log slabs 0-1,023, R110
  bands : SMap Band := []             -- band stores, key region * 2^20 + band, R94
  moves : SMap (Option Move) := []    -- open-band records of MOVING slabs, R112
  slcs : SMap (Option SlcRec) := []   -- open-band records of SLC-resident rows, R107, key as bands
  remaps : SMap (Option Remap) := []  -- remap tables, key region * 8,192 + n, R115
  retiredDb : List Nat := []          -- retired dieblocks, key (tile * 2^19 + band), R115
  failedDies : List Nat := []         -- failed dies, key 16 link + die, R199
  vfails : SMap Nat := []             -- verify failures per dieblock, R104
  failing : List Nat := []            -- dieblocks to be retired when their band is STALE, R104 R198, key as retiredDb
  exported : Nat := 0                 -- entry 0x04_0001, R92; 0 until FORMAT (DC)
  geom : SMap (Nat × Nat) := []       -- (DIES, BLOCKS) of each region's first descriptor, R94 R178
  epoch : Nat := 0                    -- GC epoch, R113
  wseq : Nat := 0                     -- write sequence counter, R182
  cgid : SMap Nat := []               -- commit group number per slab, R182
  extAge : Nat := 0                   -- own: age counter of log extents
  sanitizing : Bool := false          -- a SANITIZE is in progress, R85
  sanAt : Nat := 0                    -- own: key of the next band the SANITIZE takes up, R85
  sanWait : Option Nat := none        -- own: key of the band whose erase it waits for
  sanJournal : List Nat := []         -- own: bands that hold the journal or a checkpoint when it comes to them: erased last
  formatting : Bool := false          -- own: a FORMAT or SANITIZE is emptying the slabs (R84)
  emptying : List Nat := []           -- own: slabs that a RESET empties as the journal buffer has room (R127)
  parity : SMap Nat := []             -- parity pages held per band (key as bands), R102
  paritySlot : SMap (Option Nat) := [] -- ring page of a row, key 2,048 band key + row, R101
  ringNext : SMap Nat := []           -- own: ring band (0-159) each region's parity ring writes
  ringUsed : SMap Nat := []           -- own: pages of a ring band used since its erase, key as bands
  spares : SMap Nat := []             -- own: bands of each region that FORMAT made spare bands (ROLE 5), below the ring
  badDonors : List Nat := []          -- own: donor dieblocks whose first row was not erased, key as retiredDb (R137)
  slcCur : SMap (Option (Nat × Nat)) := [] -- own: OPEN SLC band of a region and its next row, R106
  parityAgain : List (Nat × List Bytes) := [] -- own: parity pages to be programmed again (R198), key 2048 band key + row
  slcAgain : List (Nat × Nat × Nat) := [] -- own: (band key, row, tile offset) of SLC pages to be programmed again (R198)
  dbReads : SMap Nat := []            -- reads of each dieblock since its erase, key 8 band key + tile offset, R196
  moveReq : SMap (Option (MoveWhy × Bool)) := [] -- own: relocations requested, by slab, with foreground, R110 R112
  mergeReq : List (Nat × Bool) := []  -- own: log slabs to be merged, with foreground, R110 R111
  verifies : SMap (Option Verify) := [] -- own: verify-reads under way, key as bands
  repairs : SMap (Option Repair) := [] -- own: dieblock copies under way, key as bands (R197)
  wear : SMap Bool := []              -- own: region has a wear-levelling relocation running (R114)
  refresh : SMap Nat := []            -- own: refresh relocations running per region (R196)
deriving DecidableEq, Repr

/-! ### Health and read levels (07, 19) -/

/-- A read-level table entry (R185), 32 bits. -/
structure RLevel where
  offset : Int := 0
  ratio : Nat := 8
  acc : Int := 0
deriving DecidableEq, Repr

/-- A 32-byte health event (R438). -/
structure HEvent where
  number : Nat
  kind : Nat
  level : Nat
  time : Nat
  region : Nat
  tile : Nat
  link : Nat
  arg : DWord
  arg2 : Word
deriving DecidableEq, Repr

/-- A temperature record (R439): 0 is the device sensor, 1-8 regions 0-7. -/
structure Temp where
  max : Nat := 0
  aboveMs : List Nat := [0, 0, 0, 0]  -- own: milliseconds at or above 85, 95, 100, 105 °C
  histMs : SMap Nat := []             -- own: milliseconds per bin
deriving DecidableEq, Repr

/-- Health counts and events (R438 to R440). -/
structure Health where
  events : List HEvent := []          -- newest 1,024 events, newest first
  nEvents : Nat := 0                  -- EVENTS, the newest number
  rung : SMap Nat := []               -- RUNG[0-6], R195
  corrSram : Nat := 0
  corrDram : Nat := 0
  ueSram : Nat := 0
  ueDram : Nat := 0
  linkResends : Nat := 0
  linkRecoveries : Nat := 0
  linkRetrains : Nat := 0
  linkHunts : Nat := 0                -- entries into block hunting since manufacture, R169
  tileRestarts : Nat := 0
  regionRestarts : Nat := 0
  unsafeShutdowns : Nat := 0
  mismatches : Nat := 0
  retiredBands : Nat := 0
  stalls : Nat := 0                   -- credit stalls, R158
  dieFails : SMap Nat := []           -- program, erase and die failures per die, R199, key 16 link + die
  faults : SMap Nat := []             -- Pytan faults per instance and kind, R270, key 8 instance + code
  camWindow : SMap Nat := []          -- CAMS outside the range, per instance, R381
  temps : SMap Temp := []             -- TEMP[0-8], R439
  retiredCells : List DWord := []     -- retired cells recorded in health (kind 0x01 arguments), R454
deriving DecidableEq, Repr

/-! ### Journal, checkpoints, hold-up (05) -/

/-- The body of a journal entry (05, R124). -/
inductive JBody where
  | pad
  | wpAdvance (slab wp wseq : Nat)
  | slabState (slab : Nat) (st : SlabSt) (region band inst : Nat)
  | bandState (band : Nat) (st : BState) (role erases : Nat)
  | logExtent (pos : Nat) (e : Extent)
  | extentDead (pos slab epoch : Nat)
  | moveBegin (slab band region w0 epoch : Nat)
  | mapSwitch (slab band region wp epoch : Nat)
  | fold (band f : Nat)
  | remap (n : Nat) (r : Remap)
  | namespace_ (inst : Nat) (create retire : Bool) (slab count exported : Nat) -- own: `count` slabs from `slab` on
  | checkpoint (num start : Nat) (clean : Bool) (regA regB : Nat)
  | holdup (time rescued : Nat)
deriving DecidableEq, Repr

/-- A journal entry (R124): JSEQ, region, CONT and body. -/
structure JEntry where
  jseq : Nat
  region : Nat
  cont : Bool
  body : JBody
deriving DecidableEq, Repr

/-- What waits for a journal entry to be persisted (R97, R107, R112, R137, R139). -/
inductive JAct where
  | bandStale (key : Nat)
  | moveBegun (slab epoch : Nat)
  | mapSwitched (slab epoch : Nat)
  | slcFree (key row : Nat)
  | anchor (num : Nat)
deriving DecidableEq, Repr

/-- An anchor record (20, R456). -/
structure Anchor where
  seq : Nat
  ckpt : Nat
  regA : Nat
  regB : Nat
  bandA : Nat := 0                    -- first journal band of copy A
  bandB : Nat := 0                    -- first journal band of copy B
  start : Nat
  clean : Bool
deriving DecidableEq, Repr

/-- A checkpoint on flash (R129): its number, start JSEQ, CLEAN bit, and the map it holds. -/
structure Ckpt where
  num : Nat
  start : Nat
  clean : Bool
  regA : Nat
  regB : Nat
  image : Store
  insts : SMap Inst
  health : Health                     -- health as written with it (R440)
  levels : SMap (Option RLevel)       -- read-level tables (R186)
  pilotAge : SMap Nat                 -- age tables of the pilot blocks (R186)
  ageClock : Nat                      -- R186
  wall : Option Nat                   -- wall time at the checkpoint, R186
  bands : List Nat := []              -- the journal bands that hold its copies, key as bands, R129 R130
deriving DecidableEq, Repr

/-- What asked for the steps of R131: POWER_FAIL#, SHUTDOWN (R28), a device reset (R445) or a chip fault (R437). -/
inductive HoldFor where
  | powerFail | shutdown | reset | chip
deriving DecidableEq, Repr

/-- The journal band that a copy of the journal is being written to (R128). -/
structure JBand where
  band : Option Nat := none           -- band index, taken with ROLE 4
  next : Nat := 0                     -- next 16 KiB page of it, 0-16,384
  issued : Nat := 0                   -- pages of the entries being programmed whose program has been issued
  again : List Nat := []              -- own: first JSEQs of those whose program has failed and is to be made again (R198)
deriving DecidableEq, Repr

/-- The journal engine (05). -/
structure Journal where
  jseq : Nat := 0                     -- JSEQ of the newest entry, 48 bits, R124, reset 0 (DC)
  buf : List JEntry := []             -- journal buffer, 8,192 entries, oldest first, R127
  flying : List JEntry := []          -- own: entries of pages being programmed (R128)
  flash : List JEntry := []           -- own: persisted entries since the second-newest checkpoint, oldest first
  acts : List (Nat × JAct) := []      -- own: what waits for an entry to be persisted
  lastFlush : Nat := 0                -- own: when the newest flush began (R127)
  regA : Nat := 0                     -- regions of the two copies, R128
  regB : Nat := 4
  written : Nat := 0                  -- own: bytes of journal written since the last checkpoint (R129)
  ckptAt : Nat := 0                   -- own: when the last checkpoint was taken (R129)
  ckptNum : Nat := 0                  -- newest checkpoint number, R124
  ckptRun : Option (Nat × Bool) := none -- own: start JSEQ and CLEAN of the checkpoint being written
  ckpts : List Ckpt := []             -- checkpoints on flash, newest first, R129 R130
  anchors : List Anchor := []         -- anchor log, newest first, R456
  bandA : JBand := {}                 -- own: the journal band being written in region regA, R128
  bandB : JBand := {}                 -- own: the one in region regB
  jbands : List (Nat × Nat) := []     -- own: journal bands written to their end, with the newest JSEQ in each, R130
  ckptBands : List Nat := []          -- own: bands taken for the checkpoint being written, R129
  holdStep : Nat := 0                 -- own: step of R131 in progress, 0 none; 4 the checkpoint of a SHUTDOWN; 5 complete
  holdAt : Nat := 0                   -- own: device time at POWER_FAIL#, for HOLDUP (R124)
  rescueWait : List Nat := []         -- own: regions whose rescue waits for the first row of a band (R131, R137)
  rescueAgain : List (Nat × List (Bytes × Bytes)) := [] -- own: codewords of failed rescue programs, with their region (R198)
  rescued : Nat := 0                  -- own: grains rescued by step 2
  rescue : List Staged := []          -- own: staged grains that rescue copies hold in SLC (R131)
  lost : List Staged := []            -- own: grains whose staged copy was lost with the supplies (R123), without data
  holdFor : HoldFor := .powerFail     -- own: why the steps of R131 run
  clean : Bool := false               -- own: the last stop was clean (R134)
  recovered : Bool := false           -- own: the map has been loaded and replayed since the reset (R134)
  unsafeStop : Bool := false          -- own: power fell before R131 ended (R123)
  lastHoldup : Nat := 0               -- time of the last HOLDUP entry, R438 kind 0x71
deriving DecidableEq, Repr

/-! ### Rhaent links and media (06, 07) -/

/-- Link states with the codes of R162. -/
inductive LState where
  | disabled | detect | train | enumerate | active | recovery | standby | sleeping | parked | absent | down
deriving DecidableEq, Repr

/-- Media operations (R172). -/
inductive MOp where
  | readPage | program | erase | status | getFeature | setFeature | suspend | resume | readPilot | descriptor
deriving DecidableEq, Repr

/-- What a media command is for. -/
inductive Why where
  | hostRead (q tag : Nat) (gs : List (Nat × Nat)) -- READ, R68: slab grains and their index in the codeword
  | segment (run rng seg : Nat) (gs : List (Nat × Nat)) -- a RUN segment, R207
  | move (slab row : Nat)                  -- relocation or merge copy, R112
  | verify (band : Nat)                    -- verify-read, R103
  | foldCw (band row : Nat)                -- read of a row to be folded, R107
  | repairCw (band : Nat)                  -- read of a page of a dieblock being replaced, R197
  | repairProg (band row : Nat)            -- program of a page of the replacing dieblock, R197
  | donorRow (band : Nat)                  -- first-row read of the replacing dieblock, R137
  | firstRow (band : Nat)                  -- first-row read before allocation, R137
  | rebuild (l cid : Nat)                  -- read for a rung-5 rebuild, R194
  | row (band row : Nat)                   -- program of a band row, R101
  | slcRow (band row : Nat)                -- program of a row in the SLC buffer, R106
  | foldRow (band row : Nat)               -- program of a folded row, R107
  | parity (band row : Nat)                -- program of a parity page, R101
  | journal (first : Nat) (b : Bool)       -- program of the journal page of JSEQ `first` on, copy A or B, R128
  | rescue                                 -- rescue program, R131
  | bandErase (band : Nat)                 -- erase, R96
  | pilot (die plane boundary off : Nat)   -- pilot read, R190
  | pilotErase (die plane : Nat)           -- erase of a pilot rewrite, R189
  | pilotProg (die plane page : Nat)       -- program of a pilot page, R189
  | enumerate                              -- descriptor read, R177
  | sanitize                               -- erase of a dieblock that no band uses any more, R84
  | selfTest
  | firmware
deriving DecidableEq, Repr

/-- STATUS of a media response record (R173). -/
inductive MStatus where
  | pass | programFail | eraseFail | badCommand | notSuspended | parked | dieFault
deriving DecidableEq, Repr

/-- A stack descriptor (R177): the fields of its 256 bytes but for the CRC. -/
structure StackDesc where
  rev : Nat
  dies : Nat
  planes : Nat
  blocks : Nat
  pilot : Nat
  pages : Nat
  pageBytes : Nat
  bits : Nat
  levels : Nat
  levelMap : BitVec 32
  dac : Nat                           -- units of 0.1 mV
  ratedQlc : Nat                      -- P/E cycles
  ratedSlc : Nat                      -- tens of P/E cycles
  trQlc : Nat                         -- µs, as the times below
  trSlc : Nat
  extraSense : Nat
  progQlc : Nat
  progSlc : Nat
  bers : Nat
  suspendUs : Nat
  offsets : List (BitVec 8)           -- boundaries 1 to 15
  dieReadyUs : Nat
  serial : DWord
deriving DecidableEq, Repr

/-- A media command record (R171). -/
structure MCmd where
  op : MOp := .status
  slc : Bool := false
  die : Nat := 0
  planes : BitVec 4 := 0
  block : Nat := 0
  page : Nat := 0
  cwmask : BitVec 16 := 0
  reads : Nat := 1
  sstep : Nat := 0
  level : Nat := 0
  arg : Word := 0
  offs : List Int := []               -- OFFS, R171: offsets of boundaries 1-15, or the one of SLC mode
  data : List Bytes := []             -- the codewords of a PROGRAM's WDATA frames, in order, R172 R179
  sentAt : Nat := 0                   -- own: when it was issued (R199, R200)
  why : Why := .firmware
  foreground : Bool := true
deriving DecidableEq, Repr

/-- A codeword on the retry ladder (R191): an outstanding READ_PAGE. -/
structure Climb where
  rung : Nat := 0
  sub : Nat := 0                      -- second sense of rung 1
  framesLeft : Nat := 0               -- RDATA frames still to come, R174
  responded : Bool := false
  frames : List Bytes := []           -- frames of the sense that have come: hard, S1, S2 (R174), held in the ingress ring (R157)
  soft : Bool := false                -- own: its decode is a soft decoder's job (R193)
  joined : List Why := []             -- other reads that joined the climb, R192
  rebuild : Nat := 0                  -- own: reads of a rung-5 rebuild still to come, R194
  parts : List Bytes := []            -- own: the codewords of the rebuild that have come, in QLC form (R194, assumption 72)
deriving DecidableEq, Repr

/-- What a frame of the device carries (R149): a command record, or codeword `k` of a PROGRAM. -/
inductive Body where
  | cmd (cid : Nat) (record : Bytes)
  | wdata (cid k : Nat) (data : Bytes)
deriving DecidableEq, Repr

/-- A frame waiting or held for replay (R159, R161). -/
structure Frame where
  seq : BitVec 12 := 0
  vc : Nat := 0
  len : Nat := 16
  body : Body
deriving DecidableEq, Repr

/-- A suspension of a die (R200). -/
structure Susp where
  since : Nat := 0                    -- when the suspension began
  count : Nat := 0                    -- suspensions of the current operation
  resumedAt : Nat := 0                -- when the last RESUME was sent
  active : Bool := false
deriving DecidableEq, Repr

/-- A pilot block being read (R190): its wordline, the boundary on trial and the counts by offset so far. -/
structure Pilot where
  wordline : Nat := 0
  boundary : Nat := 1
  got : List (Int × Nat × Nat) := []  -- own: (offset, upward, downward errors)
  waits : Bool := false               -- own: its next read waits for host reads of the die
deriving DecidableEq, Repr

/-- A codeword position of a wordline, by page type, as last decoded (R187): when, the hard frame as sensed at tracked offsets, and
the corrected codeword. -/
structure WlPage where
  pos : Nat                           -- own: die, plane, block, wordline and codeword, packed by `wlKey`
  kind : Nat                          -- page type
  time : Nat
  hard : Bytes
  cw : Bytes
deriving DecidableEq, Repr

/-- One Rhaent link port (06). -/
structure Link where
  st : LState := .disabled            -- LK_STATUS.STATE, R162 R169, reset 0
  degraded : Bool := false            -- LK_STATUS.DEGRADED, R166 R169, reset 0
  presetTx : BitVec 3 := 0            -- LK_STATUS.PRESET_TX, R169, reset 0
  presetRx : BitVec 3 := 0            -- LK_STATUS.PRESET_RX, R169, reset 0
  dies : Nat := 0                     -- LK_STATUS.DIES, R169, reset 0
  desc : Option StackDesc := none     -- the stack descriptor read at ENUMERATE, R177, reset none (DC)
  resends : Nat := 0                  -- LK_COUNT.RESENDS, 16 bits saturating, R169, reset 0
  hunts : Nat := 0                    -- LK_COUNT.HUNTS, 8 bits saturating, R169, reset 0
  recoveries : Nat := 0               -- LK_COUNT.RECOVERIES, 8 bits saturating, R169, reset 0
  hunting : Bool := false             -- block hunting, R153
  huntAt : Nat := 0                   -- own: when hunting began
  locked : Bool := false              -- own: block lock held
  rxSeq : BitVec 12 := 4095           -- newest accepted SEQ, R160 (SEQ 0 expected after training, R163)
  nakHold : Option Nat := none        -- own: NAK sent at this time and not yet released (R160)
  granted : Nat × Nat := (0, 0)       -- credits granted on VC0, VC1, R156 R157
  txSeq : BitVec 12 := 0              -- next SEQ to send, R159
  held : List Frame := []             -- replay buffer, at most 16, oldest first, R161
  heldAt : Nat := 0                   -- own: when the last ACK released a frame or the oldest was sent
  resendOldest : Nat := 0             -- own: resends of the oldest held frame (R161)
  waiting : List Frame := []          -- frames waiting for credits or for replay room, R156 R159
  total : Nat × Nat := (0, 0)         -- credit totals received for VC0 and VC2, R156
  totalAt : Nat × Nat := (0, 0)       -- own: when each total last advanced (R158)
  charged : Nat × Nat := (0, 0)       -- credits charged on VC0 and VC2, R156
  initial : Nat × Nat := (0, 0)       -- initial totals of VC0 and VC2, the bridge's buffer capacities, R156
  cmds : SMap (Option MCmd) := []     -- outstanding media commands by CID, at most 256, R171
  climbs : SMap (Option Climb) := []  -- ladder records of outstanding READ_PAGE commands, by CID, R191; from 256 on rebuilds without a command
  queue : List MCmd := []             -- own: media commands waiting for a CID or for the link
  rdFor : List (Nat × Nat) := []      -- own: (CID, RDATA frames to come), in order, R174
  crVc : Nat := 3                     -- own: the VC whose credit total the next header carries, R148 R156
  ring : Nat := 0                     -- codeword frames in the tile's ingress ring of this link, R157
  owed : List Nat := []               -- VC1 credits of frames whose release waits for the ring, oldest first, R155 R157
  wlPages : List WlPage := []         -- own: pages decoded within the last 1 ms, for the evidence of whole wordlines, R187
  dieStatus : SMap Word := []         -- VALUE of the last STATUS response, by die, R172
  features : SMap Word := []          -- feature values as last read or set, key 256 die + address, R172
  susp : SMap Susp := []              -- suspensions by die, R200
  pilots : SMap (Option Pilot) := []  -- own: pilot blocks being read, key 4 die + plane (R190)
  trainAt : Nat := 0                  -- own: when the current training step began (R163)
  trial : Option (Nat × List (Nat × Nat)) := none -- own: preset on trial and the (preset, quality) results so far
  ts1s : Nat := 0                     -- own: consecutive TS1 words received
  ts2s : Nat := 0                     -- own: TS2 words received in this exchange
  equalised : Bool := false           -- own: equalisation done
  retraining : Option Nat := none     -- own: full retrain in progress since (R165)
  failedRec : Nat := 0                -- own: failed recoveries in a row (R165)
  recTimes : List Nat := []           -- own: times of recoveries within the last second (R165)
  retrainAt : Option Nat := none      -- own: last full retrain (R166)
  resendLog : List Nat := []          -- own: times of resends in the last 10 s (R166)
  req : Option LState := none         -- own: STBY or SLEEP requested; ACTIVE once the bridge has answered WAKE (R167)
  wakeSent : Bool := false            -- own: the device has sent WAKE, and the bridge has not answered (R167)
  diesOff : Bool := false             -- own: dies powered down by PARK MODE 1 (R167)
  hardRetired : Bool := false         -- hard-decision decoder retired, R428
  katFails : Nat := 0                 -- own: known-answer failures in a row, R428
  load : List (Nat × Nat) := []       -- own: (since, bytes queued or in flight), newest first, R98
deriving DecidableEq, Repr

/-! ### Tiles: core, memory, engines (08 to 15) -/

/-- What kind of work item this is. -/
inductive ItemKind where
  | posted | segment | steward | background | selfTest
deriving DecidableEq, Repr

/-- A work item (R277) with what Ladle keeps of it. -/
structure Item where
  entry : Word := 0
  arg : Word := 0
  inst : Nat := 0
  prio : Nat := 0
  pin : Bool := false
  ordered : Bool := false
  timed : Bool := false
  wake : Bool := false
  affv : Bool := false
  flow : Nat := 0
  fseq : Nat := 0
  handle : Nat := 0
  affinity : Nat := 0
  wtag : Nat := 0
  due : Nat := 0
  kind : ItemKind := .posted          -- own
  run : Option Nat := none            -- own: the RUN it belongs to (R278), key 32 q + tag
  seq : Nat := 0                      -- own: order of acceptance
  enq : Nat := 0                      -- own: when it entered the ready queue (R287)
  fseen : Nat := 0                    -- own: fences ended when it was accepted or woken (R233)
  raised : Bool := false              -- own: raised to level 1 (R286)
  rng : Nat := 0                      -- own: range index of a segment (R207)
  seg : Nat := 0                      -- own: segment index in its range
  banks : Nat := 0                    -- own: scan banks needed (R212)
  holds : Bool := false               -- own: its input bank is still held on its home tile (R288, R431)
deriving DecidableEq, Repr

/-- What a core is doing. -/
inductive CoreMode where
  | idle | loading | running | wfe
  | waitt (due : Nat) (e : Bool)
  | fence | done
deriving DecidableEq, Repr

/-- A posted engine descriptor's class (R251). -/
inductive Engine where
  | cipher | reducer | expander | digest
deriving DecidableEq, Repr

/-- A value as hazard distances show it: the value before each of the last producers still unseen (R266). -/
structure Past (α : Type) where
  issue : Nat
  old : α
deriving DecidableEq, Repr

/-- The fault record a core sends Ladle (R270). -/
structure FaultRec where
  code : Nat
  operand : Nat                       -- 0 none, 1 S1, 2 S2, 3 D, 4 fetch
  inst : Nat
  flow : Nat
  fseq : Nat
  pc : Word
  addr : Nat                          -- the faulting data address, or 0
  rc : Word
deriving DecidableEq, Repr

/-- A Pytan core (09, R224). -/
structure Core where
  a : SMap Word := []                 -- A0-A7, 32 bits, R224, reset 0 (DC; R244 at dispatch)
  lk : Word := 0                      -- LK, 32 bits, R224, reset 0 (DC)
  rc : Word := 0                      -- RC, 32 bits, R224, reset 0 (DC)
  z : Bool := false                   -- FL.Z, R225, reset 0
  n : Bool := false                   -- FL.N, R225, reset 0
  c : Bool := false                   -- FL.C, R225, reset 0
  v : Bool := false                   -- FL.V, R225, reset 0
  pc : Word := 0                      -- PC, R224, reset 0 (DC)
  ev : Word := 0x7F                   -- TL_EV, R229 R241, reset 1 in each of bits [6:0]
  evp : Word := 0                     -- TL_EVP, R229 R241, reset 0
  shadow : DWord := 0                 -- time shadow, R238, cleared at dispatch
  mode : CoreMode := .idle            -- own: idle, running or waiting
  item : Option Item := none          -- the item on the core; TL_ITEM, TL_FLOW
  dispatched : Nat := 0               -- own: dispatch time, for the watchdog (R247)
  delay : Option Word := none         -- own: target of a transfer whose delay slot is next (R254)
  indirect : Bool := false            -- own: that transfer is an indirect jump (R256)
  skip : Bool := false                -- own: the next instruction is skipped (R257)
  rpt : Option (Word × Bool) := none  -- own: an RPT prefix (its address, RPT.E) waits for its instruction (R258)
  issued : Nat := 0                   -- own: issued-instruction count (R249, R266)
  lastPc : Word := 0                  -- own: address of the latest instruction issued, for the watchdog while the core waits (R270)
  pastA : SMap (List (Past Word)) := [] -- own: earlier values of A0-A7 by issue (R266)
  pastLk : List (Past Word) := []     -- own
  pastRc : List (Past Word) := []     -- own
  pastE : List (Past Bool) := []      -- own: FL.E before each recent TL_EV or TL_EVP write
  pastM : List (Past (Nat × Byte)) := [] -- own: bytes before each recent memory write, by address
  fault : Option FaultRec := none     -- the fault record sent last, R270
  prevInst : Nat := 0                 -- own: instance of the previous item (R244)
  image : Option (Nat × Nat) := none  -- instance and handle of the image in the code area, R244
  engOut : Nat := 0                   -- own: engine jobs posted and not ended (R246)
  camsOut : Nat := 0                  -- own: CAMS searches outstanding, at most 8 (R264)
  heldPost : Option Item := none      -- POST held for ready-queue space, R264
  seen : Nat := 0                     -- own: fences known to the running item (R233)
  evSeen : Nat := 0                   -- own: fences ended when the latest event was sent (R233)
  topRead : Option Nat := none        -- own: source of the latest INT_TOP read, not yet acknowledged (R422)
  clockOff : Bool := false            -- the core's clock is stopped, R499
deriving DecidableEq, Repr

/-- An entry of a bank's merge buffer (R312): word index, bytes given and their values. -/
structure MergeE where
  word : Nat
  data : Word
deriving DecidableEq, Repr

/-- One scratchpad bank's registers (12). -/
structure Bank where
  kind : BitVec 3 := 0                -- TL_BANK_OWNER.KIND, R305, reset 0
  unit : BitVec 5 := 0                -- TL_BANK_OWNER.UNIT, reset 0
  inst : BitVec 8 := 0                -- TL_BANK_OWNER.INSTANCE, reset 0
  next : Option (Word × Nat × Bool) := none -- own: owner write waiting: value, core issue count, by the core (R306)
  zeroing : Option Word := none       -- own: zeroing for the handover to this owner value (R308)
  colAddr : BitVec 15 := 0            -- TL_BANK_COLLIDE.ADDR, R310, reset 0
  colValid : Bool := false            -- .VALID, reset 0
  colLoser : BitVec 4 := 0            -- .LOSER, reset 0
  colCount : Nat := 0                 -- .COUNT, 8 bits saturating, reset 0
  bucket : Nat := 0                   -- TL_BANK_ECC.BUCKET, 8 bits, R319, reset 0
  ovf : Bool := false                 -- .OVF, reset 0
  ue : Bool := false                  -- .UE, reset 0
  remapFull : Bool := false           -- .REMAPFULL, reset 0
  cecnt : Nat := 0                    -- .CECNT, 16 bits saturating, reset 0
  errAddr : BitVec 15 := 0            -- TL_BANK_LASTERR.ADDR, R317, reset 0
  errSynd : BitVec 7 := 0             -- .SYND, reset 0
  errUnc : Bool := false              -- .UNCORR, reset 0
  errMaster : BitVec 4 := 0           -- .MASTER, reset 0
  flipD : Word := 0                   -- TL_BANK_FLIPD, R321, reset 0
  flipC : BitVec 7 := 0               -- TL_BANK_FLIPC.MASK, reset 0
  flipArm : Bool := false             -- .ARM, reset 0
  remap : SMap (BitVec 15 × Bool) := [] -- TL_BANK_REMAP0-3: ADDR, VALID, R320, reset 0
  merge : List MergeE := []           -- merge buffer, 8 entries, oldest first, R312
  scrubAt : Nat := 0                  -- own: next word of the scrubber (R322)
  checkWord : Option (Nat × BitVec 7) := none -- own: word and syndrome whose re-read is due (R320)
  retired : Bool := false             -- R428
deriving DecidableEq, Repr

/-- A cipher context record (R355). -/
structure CtxRec where
  st : BitVec 2 := 0                  -- 0 FREE, 1 OPEN, 2 SAVED
  owner : Option (Nat × Nat) := none  -- own: tile and acceptance number of the item that opened it (R356)
  mode : BitVec 2 := 0
  kslot : BitVec 12 := 0
  gen : Nat := 0
  ctr : BitVec 128 := 0
  y : BitVec 128 := 0
  aad : Nat := 0
  text : Nat := 0
deriving DecidableEq, Repr

/-- A queued or running lane job: its descriptor bits, who posted it, how far it is. -/
structure Job where
  desc : BitVec 384 := 0              -- R337 (256 bits), R363 (384 bits), R371 (256 bits)
  inst : Nat := 0
  core : Option Nat := none           -- posting tile's core; none for a device job
  item : Nat := 0                     -- own: acceptance number of the item that posted it (R242)
  enq : Nat := 0                      -- own: when it was queued (R288)
  done : Nat := 0                     -- own: input bytes processed at the last segment boundary
  stolen : Bool := false              -- taken from a region peer, R338
  begun : Bool := false               -- own: a lane has taken it: its checks are made and its key is referenced (R352)
  fail : Nat := 0                     -- own: the code those checks gave, 0 for none
  savedDone : Nat := 0                -- own: of a cipher job, `done` at its last saved state, or at its start (R350)
  savedRec : CtxRec := {}             -- own: its context record there
deriving DecidableEq, Repr

/-- A digest context record (R370). -/
structure DigRec where
  st : BitVec 2 := 0
  owner : Option (Nat × Nat) := none  -- own: as in CtxRec
  hmac : Bool := false
  kslot : Nat := 0
  gen : Nat := 0
  chain : List Word := []
  count : Nat := 0
  part : Bytes := []
deriving DecidableEq, Repr

/-- A codeword for a soft decoder (R193): its link and command ID, when it was queued, and whether a region peer took it (R288). -/
structure SoftJob where
  link : Nat
  cid : Nat
  enq : Nat
  stolen : Bool := false
deriving DecidableEq, Repr

/-- The lanes of one tile (13, 14, 15). -/
structure Lanes where
  rxEn : Bool := true                 -- RX_CTRL.ENABLE, R342, reset 1
  rxSteal : Bool := true              -- RX_CTRL.STEAL, reset 1
  rxQ : List Job := []                -- reducer queue, 16, R338
  rxRun : Option Job := none          -- running job; RX_STATUS.BUSY, STOLEN
  rxIn : Nat := 0                     -- RX_BYTES_IN (bytes; the register shows KiB), reset 0
  rxOut : Nat := 0                    -- RX_BYTES_OUT, reset 0
  rxDone : Nat := 0                   -- RX_JOBS.DONE, 24 bits saturating, reset 0
  rxErr : Nat := 0                    -- RX_JOBS.ERR, 8 bits saturating, reset 0
  rxBins : Nat × Nat × Nat × Nat := (0, 0, 0, 0) -- RX_BIN0-3, modulo 2^32, reset 0
  rxRetired : Bool := false           -- R428
  exEn : Bool := true                 -- EX_CTRL.ENABLE, reset 1
  exSteal : Bool := true              -- EX_CTRL.STEAL, reset 1
  exQ : List Job := []                -- expander queue, 16
  exRun : Option Job := none          -- EX_STATUS.BUSY, STOLEN
  exIn : Nat := 0                     -- EX_BYTES_IN, reset 0
  exOut : Nat := 0                    -- EX_BYTES_OUT, reset 0
  exDone : Nat := 0                   -- EX_JOBS.DONE, reset 0
  exErr : Nat := 0                    -- EX_JOBS.ERR, reset 0
  exLastCode : BitVec 8 := 0          -- EX_LASTERR.CODE, reset 0
  exLastOff : BitVec 12 := 0          -- EX_LASTERR.OFFSET, reset 0
  exRetired : Bool := false           -- R428
  rxChains : SMap (BitVec 384) := []  -- own: descriptors of reducer jobs that ended OUTFULL, by status address (R340)
  exChains : SMap (BitVec 384) := []  -- own: of expander jobs
  katRx : Nat := 0                    -- own: known-answer failures in a row, reducer (R428)
  katEx : Nat := 0                    -- own: expander
  softQ : List SoftJob := []          -- own: codewords waiting for the tile's soft decoder, oldest first (R193)
  softRun : Option SoftJob := none    -- own: the codeword it works on
  softRetired : Bool := false         -- soft decoder retired, R428
  katSoft : Nat := 0                  -- own
deriving DecidableEq, Repr

/-- The cipher and digest lanes of one tile (14, 15). -/
structure Crypt where
  cxEn : BitVec 4 := 0xF              -- CX_CTRL.ENABLE, reset 0xF
  cxSteal : Bool := true              -- CX_CTRL.STEAL, reset 1
  cxQ : List Job := []                -- cipher queue, 32, R357
  cxRun : SMap (Option Job) := []     -- running jobs of lanes 0-3; CX_STATUS.BUSY, STOLEN
  cxFailed : BitVec 4 := 0            -- CX_STATUS.FAILED, R350, reset 0
  cxText : Nat := 0                   -- CX_KIB (bytes; the register shows KiB), reset 0
  cxDone : Nat := 0                   -- CX_JOBS.DONE, reset 0
  cxErr : Nat := 0                    -- CX_JOBS.ERR, reset 0
  cxSwitch : Nat := 0                 -- CX_SWITCH.COUNT, reset 0
  cxMis : Nat := 0                    -- CX_CHECK.MISMATCH, reset 0
  cxMisLane : BitVec 4 := 0           -- CX_CHECK.LANE, reset 0
  dgEn : BitVec 2 := 3                -- DG_CTRL.ENABLE, reset 3
  dgSteal : Bool := true              -- DG_CTRL.STEAL, reset 1
  dgSnoop : Bool := true              -- DG_CTRL.SNOOP, reset 1
  dgQ : List Job := []                -- digest queue, 16, R373
  dgRun : SMap (Option Job) := []     -- running jobs of lanes 0-1; DG_STATUS.BUSY, STOLEN (SNOOPING: State.snooping)
  dgText : Nat := 0                   -- DG_KIB, reset 0
  dgDone : Nat := 0                   -- DG_JOBS.DONE, reset 0
  dgErr : Nat := 0                    -- DG_JOBS.ERR, reset 0
  dgMatch : Nat := 0                  -- DG_COMPARE.MATCH, reset 0
  dgFault : Nat := 0                  -- DG_COMPARE.FAULT, reset 0
  dgFaultAt : Option Nat := none      -- own: time of the last compare fault (R428)
  dgRetired : BitVec 2 := 0           -- R428
  dgSegs : Nat := 0                   -- DG_SNOOP.SEGMENTS, reset 0
  dgFallback : Nat := 0               -- DG_SNOOP.FALLBACK, reset 0
deriving DecidableEq, Repr

/-- State of one interrupt source in a controller (18, R418). -/
inductive SrcState where
  | idle | raised | delivered
deriving DecidableEq, Repr

/-- An interrupt controller (18); 65 of them. -/
structure IntC where
  cmask : BitVec 4 := 0               -- INT_CMASK.PMASK, R420, reset 0
  src : SMap SrcState := []           -- state of every source number, R418; INT_QSTATE
  override : Bool := false            -- INT_STAT.OVERRIDE, R424, reset 0
  lost : Bool := false                -- INT_STAT.LOST, R415, reset 0
  merged : Nat := 0                   -- INT_MERGED, 32 bits saturating, R418, reset 0
  qsel : BitVec 12 := 0               -- INT_QSEL, reset 0
deriving DecidableEq, Repr

/-- A tile (pan). -/
structure Tile where
  core : Core := {}
  ahead : Option Nat := none          -- acceptance number of the item the Ladle slice holds in advance, R283
  mem : List Host.Cell := []          -- scratchpad bytes as stored, 2 MiB, R299 (unlisted reads 0, assumption 5)
  synd : SMap (BitVec 7) := []        -- syndrome of each stored word (stored check bits against data), R316, key 32,768 bank + word
  spare : SMap (BitVec 39) := []      -- spare cells of remap entries, key 4 bank + n, R320
  banks : SMap Bank := []             -- 16 banks
  confLost : SMap Nat := []           -- TL_CONF_S1, S2, D, LDI LOST, 28 bits saturating, R304, reset 0
  confWin : SMap (BitVec 4) := []     -- their WINNER, reset 0
  thresh : BitVec 8 := 16             -- TL_ECC_CTRL.THRESH, R319, reset 16
  scrubEn : Bool := true              -- TL_ECC_CTRL.SCRUB_EN, R322, reset 1
  retain : BitVec 4 := 0              -- TL_RET.RETAIN, R314, reset 0
  awake : BitVec 4 := 0xF             -- TL_RET.AWAKE, reset 0xF
  wakeFrom : Nat := 0                 -- own: since when the group that wakes now has been waking (R314)
  lanes : Lanes := {}
  crypt : Crypt := {}
  intc : IntC := {}
  scanUsed : Nat := 0                 -- own: scan banks in use (R212)
  quiesced : Bool := false            -- R431
  retired : Bool := false             -- R433
  cause : Nat := 0                    -- own: cause of the current quiesce (R525)
  quiesces : List Nat := []           -- own: times of quiesces in the last hour (R433)
  restarting : Bool := false          -- own: its restart has begun (R433)
  clockMhz : Nat := 800               -- tile clock, R488, reset 800 (DC)
  idleSince : Nat := 0                -- own: since when its core has no item (R488)
deriving DecidableEq, Repr

/-! ### Ladle (11) -/

/-- A flow context (R289). -/
structure Flow where
  inst : Nat := 0
  run : Nat := 0
  nr : Nat := 0                       -- next release number
  done : List Nat := []               -- FSEQ of the items done and not yet released
deriving DecidableEq, Repr

/-- A region (pot): its Ladle arbiter, error manager and placement inputs. -/
structure Region where
  ready : List Item := []             -- ready queue, 4,096 items, oldest first, R282
  timers : List Item := []            -- timer list, 2,048 items, R293
  spilled : List Item := []           -- Stockpot share, oldest first, R295
  pushBack : Bool := false            -- push-back asserted, R294
  nextTick : Nat := 0                 -- own: number of the tick in progress (R292)
  tempDeci : Nat := 250               -- region sensor, 0.1 °C, R494, reset 25.0 °C (DC)
  hot : Bool := false                 -- own: thermally throttled (R494)
  coolSince : Option Nat := none      -- own: since when Tj is below 97 °C (R494)
  steps : Nat := 0                    -- thermal steps in force, R494
  vreq : BitVec 2 := 2                -- VREQp[1:0] pins, R489, 0b10 from power-on
  vreqAt : Nat := 0                   -- own: when the request was last raised (R491)
  faultAt : Option Nat := none        -- own: last region fault (R436)
  restarting : Bool := false          -- own: restart in progress (R436)
deriving DecidableEq, Repr

/-- A record of a pipeline stream, with its offset in the range's stream after EXPAND and whether its key hit
(R203, R215). -/
structure Rec where
  data : Bytes := []
  off : Nat := 0
  hit : Bool := false
deriving DecidableEq, Repr

/-- The state of a GCM object that goes on in the next segment (R358, R360). -/
structure GcmSt where
  phase : Nat := 0                    -- own: 0 header, 1 additional data, 2 text, 3 tag, 4 padding
  buf : Bytes := []                   -- bytes not yet consumed
  start : Nat := 0                    -- offset of the object in the range's stream
  pos : Nat := 0                      -- own: bytes of the stream consumed
  objLen : Nat := 0
  aadLen : Nat := 0
  left : Nat := 0                     -- own: text or padding bytes still to come
  hdr : Bytes := []
  ctr : BitVec 128 := 0
  y : BitVec 128 := 0
  made : Nat := 0                     -- own: plaintext bytes of the range so far
deriving DecidableEq, Repr

/-- What passes from a segment's item to the next one's (R210, R360): a cut coded unit, a cut record, a GCM state. -/
structure Carry where
  unit : List (Nat × BitVec 4 × Bytes) := [] -- grains of a cut coded unit, decrypted, with their descriptors
  record : Bytes := []                -- bytes of a cut record
  base : Nat := 0                     -- own: stream offset of the first byte of `record`
  gcm : GcmSt := {}
  ended : Bool := false               -- own: the framing of the range has ended (R211, R358)
deriving DecidableEq, Repr

/-- A segment of an active range (R207), from its item's entry to the release of its output. -/
structure SegSt where
  rng : Nat := 0
  seg : Nat := 0
  tile : Nat := 0                     -- its home tile
  lo : Nat := 0                       -- first grain
  n : Nat := 0                        -- grains, at most 64
  core : Option Nat := none           -- the tile that runs it
  left : Nat := 0                     -- codewords still to come
  got : List (Nat × BitVec 4 × Bytes) := [] -- its grains as read, with their descriptors
  badAt : Option Nat := none          -- first unreadable grain (R222)
  snoop : Nat := 0                    -- digest lane that hashes it by snoop, plus 1 (R377); 9 once no lane does
  silent : Bool := false              -- read again only for its seam (R219)
  ph : Nat := 0                       -- own: 0 queued, 1 being read, 2 in a PROGRAM stage, 3 stages done, 4 ended
  stage : Nat := 0                    -- own: next stage
  recs : List Rec := []               -- the stream before that stage
  inp : List Rec := []                -- own: the stream before its first stage after REDUCE and the keys (R434)
  raw : Bool := false                 -- own: a PROGRAM stage wrote the stream (R214)
  work : List (Nat × Bytes) := []     -- own: inputs still to be given to the PROGRAM stage, with their SRCOFF
  acc : Bytes := []                   -- own: what the PROGRAM stage has written
  room : Nat := 0                     -- OUTROOM given (R214)
  dig : List (Nat × Bytes) := []      -- own: bytes for per-range digests, by stage (R378)
  cin : Carry := {}                   -- own: the carry it began with
  cout : Carry := {}                  -- own: the carry it leaves
  last : Bool := false                -- the range ends with it
  skip : Nat := 0                     -- grains skipped
  trunc : Nat := 0                    -- records dropped
deriving DecidableEq, Repr

/-- An active range of a RUN (R208). -/
structure RangeSt where
  idx : Nat := 0
  ti : Nat := 0                       -- slab table index
  lo : Nat := 0                       -- grains [lo, hi)
  hi : Nat := 0
  region : Nat := 0                   -- the band it reads (R220)
  band : Nat := 0
  flow : Option Nat := none           -- R209
  next : Nat := 0                     -- own: next segment to get an item
  proc : Nat := 0                     -- own: segment whose carry is known
  carry : Carry := {}
  kept : Bool × Carry := (false, {})  -- own: whether the last segment released in order must be read again, and the carry to begin with then (R219)
  seq0 : Nat := 0                     -- own: segment of FSEQ 0
  rel : Nat := 0                      -- own: segments released with none before them missing
  later : List Nat := []              -- own: segments released beyond that (ORDER = 0)
  dig : List (Nat × List Word × Nat × Bytes) := [] -- per-range digest records: stage, chaining value, count, rest
deriving DecidableEq, Repr

/-- A RUN that executes (08). -/
structure RunSt where
  inst : Nat := 0
  handle : Nat := 0
  pipe : Bytes := []                  -- the pipeline descriptor, R202
  param : Bytes := []                 -- the parameter block, R63
  ranges : List (Nat × Nat × Nat) := [] -- (slab, first grain, grain count), R72
  todo : List Nat := []               -- range indexes not yet started, rising
  done : List Nat := []               -- range indexes complete
  act : List RangeSt := []            -- active ranges, in the order of the progress table
  segs : List SegSt := []             -- segments of active ranges whose output is not released
  out : Nat := 0                      -- bytes produced in this run, R64
  base : Nat := 0                     -- bytes of the chain before this run, R218
  runs : Nat := 0                     -- RUNs in the chain, R218
  cap : Option Nat := none            -- output cap, R217
  toSlab : Option Nat := none         -- output slab table index, R72
  outG : List (Bytes × BitVec 4) := [] -- own: whole grains of slab output not yet staged
  outB : Bytes := []                  -- own: bytes of a partial grain of slab output
  marks : List (Nat × RangeSt × Nat × Nat) := [] -- own: pieces of slab output not wholly staged, newest first: where they end, their range before, grains skipped, records dropped (R81, R218)
  skipped : Nat := 0                  -- grains skipped, R218
  trunc : Nat := 0                    -- records dropped, R218
  ptab : DWord := 0                   -- PTAB, R218
  progress : List (Nat × Nat) := []   -- own: DONE of the ranges of the progress table read (R219)
  closing : Option (CplClass × Nat × DWord × Nat) := none -- own: class, code, DETAIL and STOP once it stops
  failSlab : Word := 0xFFFFFFFF       -- own: the slab of the segment that failed, for the error log page
  items : Nat := 0                    -- items not yet ended, R280
  keys : List (Nat × Nat × Bool) := [] -- key references: slot, generation, HMAC, R352
deriving DecidableEq, Repr

/-- What the device keeps of a chain of RUNs (R219): the handle and range list it was begun with, and for each range
left unfinished its DONE and the carry at the start of the segment before it. -/
structure Chain where
  handle : Nat := 0
  rlist : Nat := 0
  kept : List (Nat × Nat × Bool × Carry) := []
deriving DecidableEq, Repr

/-- What a handle names (R73): an admitted Pytan image or pipeline descriptor. -/
inductive Admitted where
  | program (image : Bytes) (labels : List Nat) (landings : List Nat)
  | pipeline (desc : Bytes)
deriving DecidableEq, Repr

/-- A DRAM window word that readers may still see as it was (R233): its writer has not executed FENCE since (`fence` is
none), or the FENCE with this number has ended but the reader does not know of it. A word whose writer has not fenced is
what the core's DRAM write buffer (R240) holds. -/
structure Unsettled where
  writer : Nat
  win : Nat                           -- 4 instance + window
  word : Nat
  old : Word
  fence : Option Nat := none
deriving DecidableEq, Repr

/-- The scheduler, runs and program store (08, 09, 11). -/
structure Ladle where
  regions : SMap Region := []         -- 8 regions
  flows : SMap (Option Flow) := []    -- 16,384 flow contexts, R289
  runs : SMap (Option RunSt) := []    -- executing RUNs, key 32 q + tag, R223
  chains : List (Nat × Nat × Chain) := [] -- own: chains by instance and status block address, R219
  progs : SMap (Option Admitted) := [] -- program store (4 MiB), key 65,536 instance + handle, R243
  seq : Nat := 0                      -- own: acceptance counter of items
  stock : Nat := 1048576              -- Stockpot items in force, R295, default 1,048,576
  wins : SMap (List Host.Cell) := []  -- DRAM window contents, key 4 instance + w, R231 (zero filled)
  unsettled : List Unsettled := []    -- own: window words that other cores may see as old (R233, R240)
  fences : Nat := 0                   -- own: FENCEs ended
  winDispatched : SMap (List Nat) := [] -- window sizes in force for the item on a core, by tile, R232
deriving DecidableEq, Repr

/-! ### Keys (14, 15) -/

/-- One generation of a slot (R351): its number, key bytes (cipher) or the two HMAC states, and its references. -/
structure Gen where
  num : Nat := 0
  key : Bytes := []
  inner : List Word := []
  outer : List Word := []
  refs : Nat := 0
deriving DecidableEq, Repr

/-- A cipher or HMAC key slot (R344, R351, R368). -/
structure Slot where
  cur : Option Gen := none            -- current generation; empty at reset, R344
  old : Option Gen := none            -- retained generation
  load : Option (Bytes × Nat × Nat) := none -- own: key bytes of a load under way and its command (queue, tag)
  gens : Nat := 0                     -- own: generations installed so far
deriving DecidableEq, Repr

/-- The key store and context stores (14, 15). -/
structure Keys where
  cipher : SMap Slot := []            -- 4,096 slots, R344
  hmac : SMap Slot := []              -- 256 slots, R368
  ctx : SMap CtxRec := []             -- cipher context store, key 64 instance + record, R355
  dig : SMap DigRec := []             -- digest context store, key 16 instance + record, R370
deriving DecidableEq, Repr

/-! ### CAM (16) -/

/-- A CAM place (R379). -/
structure Place where
  valid : Bool := false
  shadow : Bool := false
  key : BitVec 128 := 0
  mask : BitVec 128 := 0
  ctx : Nat := 0
  prio : Nat := 0
  result : DWord := 0
  old : Option Nat := none            -- own: old place index after a segment failure (R429)
deriving DecidableEq, Repr

/-- A search waiting or in flight (R385). -/
structure Search where
  key : BitVec 128 := 0
  ctx : Nat := 0
  inst : Nat := 0
  core : Option (Nat × Nat × Word) := none -- tile, item acceptance number, response address; none for a host command
  cmd : Option (Nat × Nat) := none    -- queue and tag of a CAM command
  resp : Option (BitVec 128) := none  -- own: the response, once started (R384)
  startAt : Nat := 0
deriving DecidableEq, Repr

/-- The CAM (16). -/
structure Cam where
  places : SMap Place := []           -- 131,072 places, R379; all invalid at reset (DC)
  waiting : SMap (List Search) := []  -- requests per port (0-7 regions, 8 host), R385
  flying : List Search := []          -- searches started, oldest first
  nextPort : Nat := 0                 -- own: round robin over the 9 ports
  moves : List (Nat × Nat) := []      -- own: moves to make, (from, to), in order, R387
  onMoved : List (Nat × Place) := []  -- own: entry to write when the moves are done (R390)
  pendCmd : Option (Nat × Nat) := none -- own: queue and tag of the command the moves serve
  pendResult : DWord := 0             -- own: RESULT it completes with
  scanEn : Bool := true               -- CM_CTRL.SCAN_EN, reset 1
  inService : BitVec 16 := 0xFFFF     -- CM_STATUS.INSERVICE, reset 0xFFFF
  searches : Nat := 0                 -- CM_SEARCHES (searches; the register shows units of 1,024), reset 0
  multis : Nat := 0                   -- CM_MULTI, reset 0
  moved : Nat := 0                    -- CM_MOVES.COUNT, reset 0
  parity : Nat := 0                   -- CM_ERR.PARITY, 16 bits saturating, reset 0
  errSeg : BitVec 4 := 0              -- CM_ERR.SEGMENT, reset 0
  errValid : Bool := false            -- CM_ERR.VALID, reset 0
  failAt : SMap Nat := []             -- own: time of the last parity failure per segment, plus 1 (R428)
  placing : List Nat := []            -- own: segments whose entries are being placed again (R429)
  directory : SMap Place := []        -- own: entries of failed segments not yet placed again, by place index, as the overflow directory of R412 holds them
  grant : Option (Nat × Inst) := none -- own: the CAM_GRANT under way: instance, and its record once the moves are done (R389)
deriving DecidableEq, Repr

/-! ### DRAM (17) -/

/-- What the controller keeps of a bank (R406). -/
structure DBank where
  counter : Nat := 2                  -- 2 bits, R406, reset 2
  last : Option Nat := none           -- row the bank's previous access opened, R406
  isOpen : Bool := false              -- that row is still open, R406
deriving DecidableEq, Repr

/-- A request in a subchannel's queues (R404). -/
structure DramQ where
  req : DramReq
  no : Nat                            -- own: order of its arrival
  passed : Nat := 0                   -- own: younger requests that have bypassed it
deriving DecidableEq, Repr

/-- A cached grain: slab, grain, and its bytes as flash stores them (R412, R413). -/
structure CacheLine where
  ti : Nat
  grain : Nat
  data : Bytes
deriving DecidableEq, Repr

/-- One subchannel (R396). -/
structure SubCh where
  inService : Bool := false           -- DC_STATUS.INSERVICE, reset 0
  training : Bool := false            -- DC_STATUS.TRAINING, reset 0
  retrain : Bool := false             -- own: its retraining waits for the channel's other subchannel (R409)
  buckets : Nat × Nat := (0, 0)       -- leaky buckets of ranks 0 and 1, R401, reset 0
  ueTimes : List Nat := []            -- own: uncorrectable bursts in the last second (R411)
  temp : Nat := 0                     -- own: DRAM temperature last read from MR4, °C (R407, R409)
  trainTemp : Nat := 0                -- own: temperature at the last training (R409)
  refreshRate : Nat × Nat := (1, 1)   -- MR4 refresh-rate field per rank, R407 (DC)
  refreshes : Nat := 0                -- own: refresh commands issued (R407)
  selfRefresh : Bool := false         -- R407
  zqDone : Nat := 0                   -- own: ZQ calibrations done (R408)
  banks : SMap DBank := []            -- row state, key 64 rank + bank, R406
  scrubAt : Nat := 0                  -- own: bursts the scrubber has read (R403)
  reads : List DramQ := []            -- read queue, at most 64, in order of arrival, R404
  writes : List DramQ := []           -- write queue, at most 64, in order of arrival, R404
  outside : List DramReq := []        -- own: requests that wait for room in a queue
  draining : Bool := false            -- own: writes go first until 16 are left (R404)
  arrivals : Nat := 0                 -- own: requests that have entered the queues
  scrubWait : Option (Nat × Nat) := none -- own: the scrubber's read that waits: arrivals before it, and requests that have bypassed it (R403)
deriving DecidableEq, Repr

/-- One DRAM channel's registers (17). -/
structure Chan where
  scrubEn : Bool := true              -- DC_CTRL.SCRUB_EN, reset 1
  sub0 : SubCh := {}
  sub1 : SubCh := {}
  speed : BitVec 2 := 0               -- DC_STATUS.SPEED, reset 0
  unmirrored : Bool := false          -- DC_STATUS.UNMIRRORED, reset 0
  ovf : Bool := false                 -- DC_ECC.OVF, reset 0
  ue : Bool := false                  -- DC_ECC.UE, reset 0
  addrErr : Bool := false             -- DC_ECC.ADDRERR, reset 0
  cecnt : Nat := 0                    -- DC_ECC.CECNT, 16 bits saturating, reset 0
  errSub : Bool := false              -- DC_LASTERR.SUB, reset 0
  errRank : Bool := false             -- DC_LASTERR.RANK, reset 0
  errBeat : BitVec 4 := 0             -- DC_LASTERR.BEAT, reset 0
  errSynd : BitVec 7 := 0             -- DC_LASTERR.SYND, reset 0
  errAp : Bool := false               -- DC_LASTERR.APMIS, reset 0
  errUnc : Bool := false              -- DC_LASTERR.UNCORR, reset 0
  errRow : BitVec 17 := 0             -- DC_LASTERR.ROW, reset 0
  flipMask : BitVec 7 := 0            -- DC_FLIP.MASK, reset 0
  flipAp : Bool := false              -- DC_FLIP.AP, reset 0
  flipArm : Bool := false             -- DC_FLIP.ARM, reset 0
deriving DecidableEq, Repr

/-- The DRAM controllers (17). `DC_PASR.KEEP` is `State.keepMask`. -/
structure Dram where
  chans : SMap Chan := []             -- 4 channels
  gib : Nat := 0                      -- own: capacity found at training, GiB (R396)
  chMask : BitVec 4 := 0              -- own: populated channels (R396)
  cache : List CacheLine := []        -- read cache of decoded, still-encrypted grains, newest first, R412, R413
deriving DecidableEq, Repr

/-! ### Interrupt targets, health, ledger (18, 19) -/

/-- `INT_TGT[n]` (18, R416). -/
structure Target where
  core : BitVec 7 := 0x7F
  prio : BitVec 2 := 3
  en : Bool := false
deriving DecidableEq, Repr

/-! ### Steward, bring-up, dictionary, field network (20, 21) -/

/-- Where bring-up stands (20). -/
inductive Boot where
  | off            -- no power, or held in reset with PERST# low
  | rom            -- boot ROM runs; an image load is under way
  | recovery       -- recovery service (R451)
  | test           -- BOOT_SEL 0b11: steward held in reset (R446)
  | firmware       -- firmware runs
  | chipFault      -- fatal stop (R437)
deriving DecidableEq, Repr

/-- A block write being gathered (R476). -/
structure Gather where
  entry : Nat := 0
  data : Bytes := []
  lastAt : Nat := 0
deriving DecidableEq, Repr

/-- A role of the field network (R474): its kept counter and its last accepted request and response. -/
structure Role where
  counter : Nat := 0
  lastXid : Option Nat := none
  lastResp : Bytes := []
  gather : Option Gather := none
deriving DecidableEq, Repr

/-- A response that waits for a configuration save (R460, R478). -/
inductive Saver where
  | kdp (port : Nat) (peer hdr : Bytes) (role : Nat)
  | cmd (q tag : Nat)
deriving DecidableEq, Repr

/-- The object dictionary and the field-network ports (21). -/
structure Dict where
  vals : SMap Bytes := []             -- values in force that differ from their defaults, by entry number, R463
  base : SMap Bytes := []             -- base section, R458 R461
  overlays : SMap (SMap Bytes) := []  -- overlay sections 1-16, R458
  atReset : SMap Bytes := []          -- own: values of class B waiting for the next reset (R466)
  saving : Option (List Saver) := none -- own: writers waiting for the save under way
  nextSave : List Saver := []         -- own: writers gathered into the next save (R460)
  names : SMap Bytes := []            -- NAMEs of the overlay sections, 8 bytes each, R458
  copyA : Bytes := []                 -- configuration copy A as it lies in the NOR, R447 R458 (erased: nothing listed)
  copyB : Bytes := []                 -- configuration copy B
  inForce : Nat := 2                  -- entry 0x01_0003: 0 A, 1 B, 2 defaults, R459
  skipped : Nat := 0                  -- entry 0x01_0004, R459
  nonce : DWord := 0                  -- boot nonce, entry 0x0A_0005, R474 (free at each reset)
  roles : SMap Role := []             -- roles 0-3, R474
  notifyAt : SMap Nat := []           -- own: time of the last NOTIFY per port, plus 1 (R479)
  notifyBits : SMap Word := []        -- own: CU_EVENT bits set since the last NOTIFY per port
  notifyDue : SMap Bool := []         -- own: a NOTIFY is due on the port
  wallAt : Option (Nat × Nat) := none -- last wall time written and when (R186)
  factoryKey : Bytes := Config.fusedFactoryKey -- fused factory key, R472 (a free value, assumption 68)
  mac : Bytes := Config.fusedMac      -- fused MAC address, entry 0x00_0006, R468 (a free value, assumption 68)
  serial : Bytes := Config.fusedSerial -- fused serial number, entry 0x00_0002, R480 (a free value, assumption 68)
deriving DecidableEq, Repr

/-- The self-test in progress (R86). -/
structure SelfTest where
  q : Nat := 0
  tag : Nat := 0
  extended : Bool := false
  verified : Nat := 0                 -- bands verified, R64
  found : Nat := 0                    -- own: newest health event when it began; those since are its findings (R64, assumption 74)
  todo : List Nat := []               -- own: the links whose pilot blocks, or the bands, still to be tested
deriving DecidableEq, Repr

/-- The steward complex (20, 22): straps, boot, age clock, power, self-test. -/
structure Steward where
  boot : Boot := .off                 -- R444 to R451
  nodeId : BitVec 5 := 0              -- NODE_ID straps as sampled, R446 (pull-down: 0)
  bootSel : BitVec 2 := 0             -- BOOT_SEL straps as sampled, R446 (pull-down: 0)
  image : Nat := 0                    -- slot being tried or running, BD_STATUS.IMAGE, 0 A, 1 B, R449
  tried : Nat := 0                    -- own: images tried in this boot
  version : Word := 0                 -- entry 0x01_0005, R448
  bdDone : Bool := false              -- BD_STATUS.DONE, R376, reset 0
  bdHit : BitVec 4 := 0               -- BD_STATUS.HIT, reset 0
  bdR0 : Word := 0                    -- BD_RESULT0, reset 0
  bdR1 : Word := 0                    -- BD_RESULT1, reset 0
  digests : List (BitVec 256 × Bool) := Config.fusedDigests -- fused expected digests and revoke bits, R376 (a free value, assumption 68)
  time0 : Nat := 0                    -- own: time 0 of bring-up (R452)
  highAt : Nat := 0                   -- own: when POWER_FAIL# last went high (R522)
  ageClock : Nat := 0                 -- age clock, s, R186, entry 0x03_0017, reset 0 (DC)
  ageBase : Nat := 0                  -- own: device time at which ageClock was set
  wallUsed : Bool := false            -- own: the first wall-time write of this start has been handled (R186)
  wallSaved : Option Nat := none      -- own: wall time of the restored checkpoint (R186)
  mapAt : Nat := 0                    -- own: when MAP was set
  supplies : Bool := false            -- supplies in range, R444 R513
  perst : Bool := true                -- PERST# asserted (pin), R444
  devRst : Bool := false              -- DEV_RST# asserted (pin), R444
  powerFail : Bool := false           -- POWER_FAIL# low (pin), R131
  thermAlert : Bool := false          -- THERM_ALERT# driven low (pin), R494
  clockOff : Bool := false            -- the steward's clock is stopped, R499
  selfTest : Option SelfTest := none  -- SELF_TEST in progress, R86
  wave : Nat := 0                     -- enumeration wave in progress (1-based; 0 none), R164
  waveSize : Nat := 128               -- entry 0x03_0001 in force, R164
  slotImg : Nat := 0                  -- entry 0x0F_0011, R480
  slotOk : Bool × Bool := (true, true) -- image slots A, B hold a valid image (R481) (DC)
  pilotWl : Nat := 0                  -- own: wordline of the next pilot sweep (R190)
  pilotAt : Nat := 0                  -- own: when the last pilot sweep began (R190)
deriving DecidableEq, Repr

/-- Power states (22, R482). -/
inductive PState where
  | p0 | p1 | p2 | p3
deriving DecidableEq, Repr

/-- The governor and the power states (22). -/
structure Power where
  st : PState := .p0                  -- R482, reset P0 (DC)
  leaving : Bool := false             -- own: an exit to P0 is under way (R486)
  entering : Option PState := none    -- own: entry to this state is under way (R484)
  flushed : Bool := false             -- own: the entry to P2 has journaled its HOLDUP (R484)
  idleAt : Nat := 0                   -- own: since when the device is idle (R483)
  steps : Nat := 0                    -- throttling steps in force, R493, reset 0 (DC)
  samples : List Nat := []            -- own: the last 10 estimates, mW, newest first (R492)
  overAt : Option Nat := none         -- own: when the last step was taken
  belowAt : Option Nat := none        -- own: since when the estimate is below 27 W
  devTemp : Nat := 250                -- device sensor, 0.1 °C, R523, reset 25.0 °C (DC)
  sampleAt : Nat := 0                 -- own: when the sensors were last sampled (R494)
  estAt : Nat := 0                    -- own: when the power was last estimated (R492)
deriving DecidableEq, Repr

/-! ### What the device sends -/

/-- A transaction the device puts on one of its interfaces.
The model's own record of outputs (assumption 3): host memory, the links, the NOR and the network lie outside. -/
inductive Out where
  | cpl (q : Nat) (slot : BitVec 5) (pasid : Option (BitVec 20)) (data : Bytes) -- completion entry write, 16 bytes, R31 R45
  | ringZero (q : Nat) (pasid : Option (BitVec 20)) -- zeros over a completion ring, R47
  | dmaRead (q tag : Nat) (pasid : Option (BitVec 20)) -- a read of a ring entry, a list or a buffer, R45
  | msix (v : Nat)                                 -- MSI-X message, R50
  | hostWrite (q tag : Nat) (off : Nat) (pasid : Option (BitVec 20)) (data : Bytes) -- data write to DPTR's buffer, R23 R45
  | auxWrite (q tag : Nat) (addr : DWord) (pasid : Option (BitVec 20)) (data : Bytes) -- write to APTR or the progress table, R45
  | cfgDone                                        -- completion of the configuration write to D3hot, R53
  | aspmL1                                         -- ASPM L1 request, R53
  | pmeAck                                         -- PME_TO_Ack, R53
  | atsDone                                        -- invalidate completion, R22
  | aer                                            -- uncorrectable internal error, R437
  | ctl (l : Nat) (w : Word)                       -- Rhaent control word, R145
  | frame (l : Nat) (hdr : DWord) (payload : Bytes) -- Rhaent frame, sent as the blocks of `frameBlocks`, R147
  | kdp (port : Nat) (client : Bytes)              -- KDP response or NOTIFY, R470
  | norAnchor (b : Bytes)                          -- anchor record appended, R456
  | norImage (slot : Nat) (data : Bytes)           -- boot image programmed, R481
  | norCopy (c : Nat) (b : Bytes)                        -- configuration copy saved (0 A, 1 B), R460
  | intr (ctl src : Nat)                           -- doorbell write to a controller, R417
  | dramBurst (ch sub rank bank row col : Nat) (beats : List (BitVec 40)) -- burst written: DQ and CB lines, R399
  | dramForward (ch sub : Nat) (data : BitVec 512) -- a read takes the data of a queued write, R404
  | dramWriteBack (ch sub : Nat)                   -- good copy of a burst written back to its channel, R410
  | dramMirror (ch sub : Nat)                      -- request served from or copied to the mirror, R410
deriving DecidableEq, Repr

/-! ### The whole machine -/

/-- The state of the AZ512. -/
structure State where
  now : Nat := 0                      -- device time counter, 64-bit ns, R6, reset 0 (DC)
  hq : HostQ := {}                    -- host queue engine, PCIe function, instances
  st : Store := {}                    -- map store and region band stores
  staged : List Staged := []          -- protected staging, R120
  jr : Journal := {}                  -- journal engine
  links : SMap Link := []             -- 512 link ports
  levels : SMap (Option RLevel) := [] -- read-level tables, key by `levelKey`, R185; unlisted: as the descriptor starts it
  levelDir : SMap (Option Bool) := [] -- own: direction (up) of a class's last offset change, R191
  pilotAge : SMap Nat := []           -- age clock at the write of each pilot block, R189, key 64 link + 4 die + plane
  tiles : SMap Tile := []             -- 64 tiles
  ld : Ladle := {}                    -- region arbiters, flows, runs, program store
  keys : Keys := {}                   -- key store and context stores
  cam : Cam := {}                     -- CAM
  dram : Dram := {}                   -- DRAM controllers
  intTgt : SMap Target := []          -- INT_TGT, R416
  intLock : Bool := false             -- INT_GCTRL.LOCK, R416, reset 0
  stewInt : IntC := {}                -- the steward's interrupt controller, 18
  health : Health := {}               -- R438 to R440
  dict : Dict := {}                   -- object dictionary and field network
  stew : Steward := {}                -- steward complex
  pw : Power := {}                    -- power states and governor
  out : List Out := []                -- what the device has sent, newest first (own)
  free : Nat := 0                     -- counter of free values drawn (own, assumption 6)
  pending : List Instr := []          -- commands waiting, first in first out
deriving DecidableEq, Repr

/-- The machine right after reset: every field at the value its comment names; no command waits. -/
def State.reset : State := {}

/-- Reasons for a fault: none of the AZ512's commands ends in one. Faults of the hardware (a frozen queue, an item's
fault, a chip fault) are states of the machine, and a step reaches them as a next state. -/
inductive Fault where
  /-- Raised by no command of this model; kept so that the type has a name for a stop (safe). -/
  | none
deriving DecidableEq, Repr

/-- Reasons for a refusal. -/
inductive Refusal where
  /-- Raised by an arm of exec whose command has no meaning yet (safe). -/
  | notModelled (mnemonic : String)
deriving DecidableEq, Repr

end Sys2Proof.Machine
end

