-- ==== Sys2Proof/Machine/Ops.lean ====
section
/-! DEFINITION. The named operations every meaning is written over: sparse tables, bytes and bits, access to each part
of the state, device time, outputs, health events, interrupts, messages, completions, freezes and journal entries. -/

namespace Sys2Proof.Machine

/-! ### Sparse tables -/

/-- The value of key `k`; an unlisted key reads `d`. -/
def mget {β : Type} (d : β) : SMap β → Nat → β
  | [], _ => d
  | (k', v) :: r, k => if k' = k then v else mget d r k

/-- The table without key `k`. -/
def merase {β : Type} : SMap β → Nat → SMap β
  | [], _ => []
  | (k', v) :: r, k => if k' = k then merase r k else (k', v) :: merase r k

/-- Insert before the first greater key. -/
def minsert {β : Type} : SMap β → Nat → β → SMap β
  | [], k, v => [(k, v)]
  | (k', v') :: r, k, v => if k < k' then (k, v) :: (k', v') :: r else (k', v') :: minsert r k v

/-- Set key `k` to `v`; setting the value an unlisted key reads as removes the entry. -/
def mset {β : Type} [DecidableEq β] (d : β) (m : SMap β) (k : Nat) (v : β) : SMap β :=
  if v = d then merase m k else minsert (merase m k) k v

/-- Keys strictly rising from `lo`, and no entry equal to the default. -/
def mwfFrom {β : Type} [DecidableEq β] (d : β) : Nat → SMap β → Bool
  | _, [] => true
  | lo, (k, v) :: r => decide (lo ≤ k) && !decide (v = d) && mwfFrom d (k + 1) r

/-- The canonical form of a sparse table. -/
def mwf {β : Type} [DecidableEq β] (d : β) (m : SMap β) : Bool := mwfFrom d 0 m

/-- Apply `f` to the value of key `k`. -/
def mmod {β : Type} [DecidableEq β] (d : β) (m : SMap β) (k : Nat) (f : β → β) : SMap β :=
  mset d m k (f (mget d m k))

/-- Apply `f` to every listed value, dropping those that become the default. -/
def mmap {β : Type} [DecidableEq β] (d : β) (f : β → β) (m : SMap β) : SMap β :=
  m.filterMap (fun e => if f e.2 = d then none else some (e.1, f e.2))

/-! ### Bytes and bits -/

/-- A little-endian byte string as a number (R1). -/
def leNat : Bytes → Nat
  | [] => 0
  | b :: r => b.toNat + 256 * leNat r

/-- The `n` little-endian bytes of a number (R1). -/
def natLe : Nat → Nat → Bytes
  | 0, _ => []
  | n + 1, v => BitVec.ofNat 8 (v % 256) :: natLe n (v / 256)

/-- The bits [lo + len − 1 : lo] of a bit vector as a number. -/
def bits {w : Nat} (x : BitVec w) (lo len : Nat) : Nat := (x.extractLsb' lo len).toNat

/-- Bit `i` of a bit vector. -/
def bit {w : Nat} (x : BitVec w) (i : Nat) : Bool := x.getLsbD i

/-- `x` with bit `i` set to `b`. -/
def setBit {w : Nat} (x : BitVec w) (i : Nat) (b : Bool) : BitVec w :=
  if b then x ||| (BitVec.ofNat w 1 <<< i) else x &&& ~~~(BitVec.ofNat w 1 <<< i)

/-- Bytes [off, off + n) of a byte string, zeros past its end. -/
def slice (b : Bytes) (off n : Nat) : Bytes :=
  let r := (b.drop off).take n
  r ++ List.replicate (n - r.length) 0

/-- A little-endian field of a byte string. -/
def fieldLe (b : Bytes) (off n : Nat) : Nat := leNat (slice b off n)

/-- Saturating count. -/
def satAdd (lim a b : Nat) : Nat := Nat.min lim (a + b)

/-- Replace the first element that satisfies `p`. -/
def replaceFirst {α : Type} (p : α → Bool) (f : α → α) : List α → List α
  | [] => []
  | x :: r => if p x then f x :: r else x :: replaceFirst p f r

/-- Remove the first element that satisfies `p`. -/
def removeFirst {α : Type} (p : α → Bool) : List α → List α
  | [] => []
  | x :: r => if p x then r else x :: removeFirst p r

/-- Fold a state through a list. -/
def foldS {α σ : Type} (f : σ → α → σ) : σ → List α → σ
  | s, [] => s
  | s, x :: r => foldS f (f s x) r

/-! ### Parts of the state -/

def State.queue (s : State) (q : Nat) : Queue := mget {} s.hq.queues q
def State.setQueue (s : State) (q : Nat) (x : Queue) : State :=
  { s with hq := { s.hq with queues := mset {} s.hq.queues q x } }
def State.modQueue (s : State) (q : Nat) (f : Queue → Queue) : State := s.setQueue q (f (s.queue q))

/-- The key of a command in the operation table. -/
def opKey (q tag : Nat) : Nat := 32 * q + tag

def State.op (s : State) (q tag : Nat) : Option Op := mget none s.hq.ops (opKey q tag)
def State.setOp (s : State) (q tag : Nat) (o : Option Op) : State :=
  { s with hq := { s.hq with ops := mset none s.hq.ops (opKey q tag) o } }

def State.vec (s : State) (v : Nat) : Vec := mget {} s.hq.vecs v
def State.setVec (s : State) (v : Nat) (x : Vec) : State :=
  { s with hq := { s.hq with vecs := mset {} s.hq.vecs v x } }

def State.inst (s : State) (i : Nat) : Inst := mget {} s.hq.insts i
def State.setInst (s : State) (i : Nat) (x : Inst) : State :=
  { s with hq := { s.hq with insts := mset {} s.hq.insts i x } }

def State.slab (s : State) (i : Nat) : Slab := mget {} s.st.slabs i
def State.setSlab (s : State) (i : Nat) (x : Slab) : State :=
  { s with st := { s.st with slabs := mset {} s.st.slabs i x } }

/-- The key of band `b` of region `p`. -/
def bandKey (p b : Nat) : Nat := p * 1048576 + b

def State.bandAt (s : State) (k : Nat) : Band := mget {} s.st.bands k
def State.setBandAt (s : State) (k : Nat) (x : Band) : State :=
  { s with st := { s.st with bands := mset {} s.st.bands k x } }
def State.band (s : State) (p b : Nat) : Band := s.bandAt (bandKey p b)
def State.setBand (s : State) (p b : Nat) (x : Band) : State := s.setBandAt (bandKey p b) x

def State.link (s : State) (l : Nat) : Link := mget {} s.links l
def State.setLink (s : State) (l : Nat) (x : Link) : State := { s with links := mset {} s.links l x }

def State.tile (s : State) (t : Nat) : Tile := mget {} s.tiles t
def State.setTile (s : State) (t : Nat) (x : Tile) : State := { s with tiles := mset {} s.tiles t x }
def State.core (s : State) (t : Nat) : Core := (s.tile t).core
def State.setCore (s : State) (t : Nat) (x : Core) : State := s.setTile t { s.tile t with core := x }
def State.bank (s : State) (t b : Nat) : Bank := mget {} (s.tile t).banks b
def State.setBank (s : State) (t b : Nat) (x : Bank) : State :=
  s.setTile t { s.tile t with banks := mset {} (s.tile t).banks b x }

def State.region (s : State) (p : Nat) : Region := mget {} s.ld.regions p
def State.setRegion (s : State) (p : Nat) (x : Region) : State :=
  { s with ld := { s.ld with regions := mset {} s.ld.regions p x } }
def State.runOf (s : State) (k : Nat) : Option RunSt := mget none s.ld.runs k
def State.setRun (s : State) (k : Nat) (x : Option RunSt) : State :=
  { s with ld := { s.ld with runs := mset none s.ld.runs k x } }
def State.flow (s : State) (f : Nat) : Option Flow := mget none s.ld.flows f
def State.setFlow (s : State) (f : Nat) (x : Option Flow) : State :=
  { s with ld := { s.ld with flows := mset none s.ld.flows f x } }

/-- The key of a handle of an instance in the program store. -/
def progKey (inst h : Nat) : Nat := 65536 * inst + h
def State.prog (s : State) (inst h : Nat) : Option Admitted := mget none s.ld.progs (progKey inst h)

def State.cslot (s : State) (n : Nat) : Slot := mget {} s.keys.cipher n
def State.setCslot (s : State) (n : Nat) (x : Slot) : State :=
  { s with keys := { s.keys with cipher := mset {} s.keys.cipher n x } }
def State.hslot (s : State) (n : Nat) : Slot := mget {} s.keys.hmac n
def State.setHslot (s : State) (n : Nat) (x : Slot) : State :=
  { s with keys := { s.keys with hmac := mset {} s.keys.hmac n x } }

def State.chan (s : State) (c : Nat) : Chan := mget {} s.dram.chans c
def State.setChan (s : State) (c : Nat) (x : Chan) : State :=
  { s with dram := { s.dram with chans := mset {} s.dram.chans c x } }

def State.place (s : State) (i : Nat) : Place := mget {} s.cam.places i
def State.setPlace (s : State) (i : Nat) (x : Place) : State :=
  { s with cam := { s.cam with places := mset {} s.cam.places i x } }

/-- The region of a tile and of a link (R7). -/
def regionOfTile (t : Nat) : Nat := t / 8
def tileOfLink (l : Nat) : Nat := l / 8
def regionOfLink (l : Nat) : Nat := l / 64

/-! ### Time, outputs, free values -/

/-- Bring device time to at least `t` (assumption 8). -/
def State.reach (s : State) (t : Nat) : State := { s with now := Nat.max s.now t }

/-- Device time as the 64-bit counter shows it (R6). -/
def State.time64 (s : State) : DWord := BitVec.ofNat 64 s.now

/-- Put a transaction on one of the device's interfaces. -/
def State.emit (s : State) (o : Out) : State := { s with out := o :: s.out }

/-- Draw a free value: the counter's value, and the state with the counter advanced. -/
def State.draw (s : State) : Nat × State := (s.free, { s with free := s.free + 1 })

/-! ### Settings of the object dictionary (21, R480): the value in force, or the listed default -/

/-- The value of a numeric entry. -/
def State.param (s : State) (entry dflt : Nat) : Nat :=
  match s.dict.vals.find? (fun x => x.1 = entry) with
  | some (_, b) => leNat b
  | none => dflt

def State.waitLimitMs (s : State) : Nat := s.param 0x020020 500
/-- The dirty limit in KiB: the smaller of L and 25.6 MiB per ms of the declared hold-up time less 0.5 ms (R121, R132). -/
def State.dirtyLimit (s : State) : Nat :=
  Nat.min (1024 * s.param 0x040040 64) ((s.param 0x070030 3000 - 500) * 262144 / 10000)
/-- Grains a region may stage (R121, R132): an eighth of the dirty limit. -/
def State.stageShare (s : State) : Nat := s.dirtyLimit / 8
def State.journalIntervalNs (s : State) : Nat := 1000 * s.param 0x040041 2000
def State.spareReserve (s : State) : Nat := s.param 0x040010 1024
def State.openLimit (s : State) : Nat := s.param 0x040011 256
def State.watchdogNs (s : State) : Nat := 1000 * s.param 0x050011 1000
def State.stealDelay (s : State) : Nat := s.param 0x050030 2000
def State.tickNs (s : State) : Nat := s.param 0x050050 1000

/-! ### Interrupt sources (18) -/

/-- Source numbers that R415 reserves. -/
def srcReserved (n : Nat) : Bool :=
  if n < 0x800 then decide (n % 32 ≥ 30)
  else if n < 0x900 then decide (n % 32 ≥ 7)
  else if n < 0x910 then false
  else if n < 0xA00 then true
  else if n < 0xA40 then false
  else if n < 0xF00 then true
  else decide (n ≥ 0x1000)

/-- Controller `c`: 0–63 the tiles', 64 the steward's. -/
def State.intc (s : State) (c : Nat) : IntC := if c = 64 then s.stewInt else (s.tile c).intc
def State.setIntc (s : State) (c : Nat) (x : IntC) : State :=
  if c = 64 then { s with stewInt := x } else s.setTile c { s.tile c with intc := x }

/-- A doorbell write of source `n` at controller `c` (R415, R418): accepted, merged or, when reserved, discarded. -/
def State.ring (s : State) (c n : Nat) : State :=
  let i := s.intc c
  if srcReserved n then s.setIntc c { i with lost := true }
  else match mget .idle i.src n with
    | .idle => s.setIntc c { i with src := mset .idle i.src n .raised }
    | _ => s.setIntc c { i with merged := satAdd 0xFFFFFFFF i.merged 1 }

/-- The controller that takes a raise of source `n`: the one its target names, none when disabled (R416, R417). -/
def State.targetOf (s : State) (n : Nat) : Option Nat :=
  let t := mget {} s.intTgt n
  if t.en = true ∧ t.core.toNat ≤ 64 then some t.core.toNat else none

/-- A raise that finds no controller sets `INT_STAT.LOST` of the steward's (R417). -/
def State.lostRaise (s : State) : State := { s with stewInt := { s.stewInt with lost := true } }

/-- Whether every priority is masked at a tile's controller: its core is idle or runs an item of levels 1 to 7 (R421). -/
def State.fullMask (s : State) (c : Nat) : Bool :=
  decide (c < 64) && (match (s.core c).item with | some x => decide (x.prio ≠ 0) | none => true)

/-- The tile raises source 0xA00 + t for a source held under the full mask (R421). -/
def State.raiseHeld (s : State) (c : Nat) : State :=
  match s.targetOf (0xA00 + c) with
  | some d => (s.emit (.intr d (0xA00 + c))).ring d (0xA00 + c)
  | none => s.lostRaise

/-- A doorbell write; a source that becomes RAISED under the full mask makes the tile raise its own source (R421). -/
def State.doorbell (s : State) (c n : Nat) : State :=
  let was := mget .idle (s.intc c).src n
  let s := s.ring c n
  if was = .idle ∧ srcReserved n = false ∧ s.fullMask c = true then s.raiseHeld c else s

/-- A raise of source `n` (R417): the doorbell of the controller its target names, or LOST at the steward's. -/
def State.raise (s : State) (n : Nat) : State :=
  match s.targetOf n with
  | some c => (s.emit (.intr c n)).doorbell c n
  | none => s.lostRaise

/-! ### MSI-X messages and device events (02, R50 to R54) -/

/-- A message falls due on vector `v`: held in D3hot, pending while masked, else sent (R50, R52, R54). -/
def State.message (s : State) (v : Nat) : State :=
  if s.hq.pcie = .d3hot then { s with hq := { s.hq with heldMsg := s.hq.heldMsg ++ [v] } }
  else
    let x := s.vec v
    if s.hq.funcMask || x.masked then s.setVec v { x with pending := true }
    else s.emit (.msix v)

/-- The moderated message of vector `v` goes out and its window closes (R51). -/
def State.windowMessage (s : State) (v : Nat) : State :=
  (s.setVec v { s.vec v with posted := 0, winEnd := none }).message v

/-- A completion has been posted on vector `v` (R51). -/
def State.notePosted (s : State) (v : Nat) : State :=
  let s := match (s.vec v).winEnd with
    | some e => if e ≤ s.now then s.windowMessage v else s
    | none => s
  let x := s.vec v
  match x.winEnd with
  | some _ =>
    let s := s.setVec v { x with posted := x.posted + 1 }
    if x.posted + 1 ≥ x.winCount then s.windowMessage v else s
  | none =>
    if x.window = 0 then (s.setVec v { x with posted := 0 }).message v
    else if x.count ≤ 1 then (s.setVec v { x with posted := 0 }).message v
    else s.setVec v { x with posted := 1, winEnd := some (s.now + 1000 * x.window), winCount := x.count }

/-- Set bits of `CU_EVENT`; a bit that becomes 1 unmasked sends the vector 0 message at once (R50), and a NOTIFY
falls due on both ports (R479). -/
def State.cuSet (s : State) (m : Word) : State :=
  let new := m &&& ~~~s.hq.cuEvent
  if new = 0 then s
  else
    let d := s.dict
    let s := { s with
      hq := { s.hq with cuEvent := s.hq.cuEvent ||| m }
      dict := { d with
        notifyBits := mset 0 (mset 0 d.notifyBits 0 (mget 0 d.notifyBits 0 ||| new)) 1 (mget 0 d.notifyBits 1 ||| new)
        notifyDue := mset false (mset false d.notifyDue 0 true) 1 true } }
    if new &&& ~~~s.hq.cuEventMask = 0 then s else s.message 0

/-- Set `ID_READY`; a change sets `CU_EVENT.READY` (R26). -/
def State.setReady (s : State) (r : Word) : State :=
  if s.hq.idReady = r then s else ({ s with hq := { s.hq with idReady := r } }).cuSet 1

/-! ### Control words (R145, R146) -/

/-- CHK of a control word. -/
def ctlChk (code : Byte) (arg : BitVec 16) : Byte := ~~~(code ^^^ arg.extractLsb' 8 8 ^^^ arg.extractLsb' 0 8)

/-- A control word from its code and argument. -/
def ctlWord (code : Byte) (arg : BitVec 16) : Word := code ++ arg ++ ctlChk code arg

def ctlCode (w : Word) : Byte := w.extractLsb' 24 8
def ctlArg (w : Word) : BitVec 16 := w.extractLsb' 8 16
/-- A control word whose CHK matches and whose code is `code`. -/
def ctlIs (code : Byte) (w : Word) : Bool :=
  decide (ctlCode w = code) && decide (w.extractLsb' 0 8 = ctlChk (ctlCode w) (ctlArg w))

def cACK : Byte := 0x33
def cNAK : Byte := 0x3C
def cCRD : Byte := 0x5A
def cTS1 : Byte := 0x66
def cTS2 : Byte := 0x99
def cSTBY : Byte := 0xA0
def cWAKE : Byte := 0xAA
def cSLEEP : Byte := 0x0C
def cPARK : Byte := 0xC3

/-- Send a control word on a link. -/
def State.sendCtl (s : State) (l : Nat) (code : Byte) (arg : Nat) : State :=
  s.emit (.ctl l (ctlWord code (BitVec.ofNat 16 arg)))

/-- Send WAKE, which the bridge answers with WAKE (R167). -/
def State.sendWake (s : State) (l : Nat) : State := (s.setLink l { s.link l with wakeSent := true }).sendCtl l cWAKE 0

/-! ### Leaving a low-power state (22, R484, R486) -/

/-- Note activity: the device is not idle at this instant (R483). -/
def State.busy (s : State) : State := { s with pw := { s.pw with idleAt := s.now } }

/-- A cause of R486: an exit to P0 starts at once, WAKE goes to every link in STANDBY or SLEEP (R167, R487), and an
entry to P2 under way is cancelled (R484). -/
def State.wakeUp (s : State) : State :=
  let s := { s with pw := { s.pw with entering := none, flushed := false } }
  if s.pw.st = .p0 ∨ s.pw.leaving = true then s
  else
    let s := { s with pw := { s.pw with leaving := true } }
    foldS (fun (s : State) (e : Nat × Link) =>
      if e.2.st = .standby ∨ e.2.st = .sleeping then s.sendWake e.1 else s) s s.links

/-- Health event record (R438): numbered from 1, newest 1,024 kept; sets `CU_EVENT.HEALTH`; ends a low-power state. -/
def State.health! (s : State) (kind level region tile link : Nat) (arg : DWord) (arg2 : Word) : State :=
  let h := s.health
  let e : HEvent := { number := h.nEvents + 1, kind, level, time := s.now, region, tile, link, arg, arg2 }
  let d := s.dict
  let s := { s with
    health := { h with
      nEvents := h.nEvents + 1
      events := (e :: h.events).take 1024
      retiredCells := if kind = 1 then arg :: h.retiredCells else h.retiredCells }
    dict := { d with notifyDue := mset false (mset false d.notifyDue 0 true) 1 true } }
  (s.cuSet 2).wakeUp

/-- The region field of a health event that names none (R438). -/
def noRegion : Nat := 0xFF
/-- The link field of a health event that names none (R438). -/
def noLink : Nat := 0x3FF

/-! ### Submission entries (03, R56, R63) -/

abbrev Sqe := BitVec 512

namespace Sqe
def opcode (e : Sqe) : Nat := bits e 0 8
def subop (e : Sqe) : Nat := bits e 8 8
def flags (e : Sqe) : BitVec 16 := e.extractLsb' 16 16
def slabNo (e : Sqe) : Nat := bits e 32 32
def grain (e : Sqe) : Nat := bits e 64 20
def length (e : Sqe) : Nat := bits e 96 32
def dptr (e : Sqe) : DWord := e.extractLsb' 128 64
def aptr (e : Sqe) : DWord := e.extractLsb' 192 64
def kslot (e : Sqe) : Nat := bits e 256 12
/-- A field of bytes 36–63, by byte offset in the entry. -/
def field (e : Sqe) (byteOff len : Nat) : Nat := bits e (8 * byteOff) (8 * len)
def fFence (e : Sqe) : Bool := bit e 16
def fInline (e : Sqe) : Bool := bit e 17
def fReduce (e : Sqe) : Bool := bit e 18
def fStream (e : Sqe) : Bool := bit e 19
def fXts (e : Sqe) : Bool := bit e 20
def fResume (e : Sqe) : Bool := bit e 21
end Sqe

/-! ### Completions and freezes (02, R31, R38 to R41) -/

/-- What every step answers: this model's commands always reach a next state (see `Fault`). -/
abbrev Answer := Host.Outcome State Fault Refusal

/-- Run a row's effect `f` with `cqOk` as the host's answer to the completion writes it makes (R41). -/
def answering (cqOk : Bool) (s : State) (f : State → Answer) : Answer :=
  match f { s with hq := { s.hq with cqAnswer := cqOk } } with
  | .next t => .next { t with hq := { t.hq with cqAnswer := true } }
  | a => a

/-- Status codes (R88). -/
abbrev Code := BitVec 8

/-- Remove a command from the operation table. -/
def State.dropOp (s : State) (q tag : Nat) : State := (s.setOp q tag none).busy

/-- CLASS of a completion entry (R31). -/
def clsCode : CplClass → Nat
  | .success => 0
  | .refused => 1
  | .failed => 2
  | .aborted => 3

/-- The 16 bytes of a completion entry (R31), little-endian (R1). -/
def Cpl.bytes (c : Cpl) : Bytes :=
  natLe 8 c.result.toNat ++ natLe 4 c.sqHead.toNat ++
    natLe 4 (c.phase.toNat + 2 * clsCode c.cls + 8 * c.frozen.toNat + 16 * c.slack.toNat + 256 * c.tag.toNat + 65536 * c.code.toNat)

/-- A read of host memory for a command: a ring entry, a list or a buffer, under the PASID of the queue's instance (R45). -/
def State.dmaRead (s : State) (q tag : Nat) : State := s.emit (.dmaRead q tag (s.queue q).pasid)

/-- Command data written to DPTR's buffer at `off`, under the PASID of the queue's instance (R45). -/
def State.hostWrite (s : State) (q tag off : Nat) (d : Bytes) : State := s.emit (.hostWrite q tag off (s.queue q).pasid d)

/-- Command data written at host address `a`, under the PASID of the queue's instance (R45). -/
def State.auxWrite (s : State) (q tag : Nat) (a : DWord) (d : Bytes) : State := s.emit (.auxWrite q tag a (s.queue q).pasid d)

/-- Write a completion into the ring of a queue whose write succeeds (R31), or hold it in D3hot (R54). -/
def State.writeCpl (s : State) (q : Nat) (h : HeldCpl) : State :=
  if s.hq.pcie = .d3hot then { s with hq := { s.hq with heldCpl := s.hq.heldCpl ++ [(q, h)] } }
  else s.emit (.cpl q h.slot h.pasid h.cpl.bytes)

/-- Advance the completion ring past the entry just posted for `tag` (R31). -/
def Queue.advanceCq (x : Queue) (tag : BitVec 5) : Queue :=
  { x with
    cqTail := x.cqTail + 1
    phase := if x.cqTail = 31 then !x.phase else x.phase
    cqTags := x.cqTags ++ [tag] }

/-- The completion entry of a command as the queue stands (R31). -/
def Queue.entryFor (x : Queue) (tag : Nat) (cls : CplClass) (code : Code) (result : DWord) (slack : Bool) : Cpl :=
  { result, sqHead := x.sqHead, phase := x.phase, cls, frozen := decide (x.st = .frozen), slack,
    tag := BitVec.ofNat 5 tag, code }

/-- The submission entry of a command; zero for one that was never fetched. -/
def State.sqeOf (s : State) (q tag : Nat) : BitVec 512 := match s.op q tag with | some o => o.sqe | none => 0

/-- The completion of a command with its ring slot, its command's entry and the PASID its write carries (R31, R45). -/
def State.entryHeld (s : State) (q tag : Nat) (cls : CplClass) (code : Code) (result : DWord) (slack : Bool) : HeldCpl :=
  let x := s.queue q
  { slot := x.cqTail, cpl := x.entryFor tag cls code result slack, sqe := s.sqeOf q tag, pasid := x.pasid }

/-- Post one completion whose write succeeds. Codes 0x61 count in ELOG.NOT_STARTED, the others posted for a FROZEN
queue in ELOG.STARTED unless `failing` (R39, R32). -/
def State.postOk (s : State) (q tag : Nat) (cls : CplClass) (code : Code) (result : DWord) (slack failing : Bool) : State :=
  let x := s.queue q
  let h := s.entryHeld q tag cls code result slack
  let x' := x.advanceCq (BitVec.ofNat 5 tag)
  let x' := if x.st = .frozen ∧ failing = false then
      { x' with elog := if code = 0x61 then { x'.elog with notStarted := x'.elog.notStarted + 1 }
                        else { x'.elog with started := x'.elog.started + 1 } }
    else x'
  (((s.setQueue q x').dropOp q tag).writeCpl q h).notePosted x.vector.toNat

/-- The fetched but unstarted commands of a queue, in tag order. -/
def State.unstarted (s : State) (q : Nat) : List Nat :=
  (List.range 32).filter (fun t => match s.op q t with | some o => !o.started | none => false)

/-- The started commands of a queue. -/
def State.startedOps (s : State) (q : Nat) : List Nat :=
  (List.range 32).filter (fun t => match s.op q t with | some o => o.started | none => false)

/-- The slab field of the error log page: the slab that the command names, else all ones (R32, R56). -/
def elogSlab (e : Sqe) : Word :=
  if (1 ≤ e.opcode ∧ e.opcode ≤ 7) ∨ (e.opcode = 8 ∧ e.subop = 1) then BitVec.ofNat 32 e.slabNo else 0xFFFFFFFF

/-- The freeze of R38 and R39: state FROZEN, error log page written, unstarted commands completed as
NOT_STARTED_FROZEN. A queue that is FROZEN already only sets MORE. -/
def State.freeze (s : State) (q : Nat) (tag : BitVec 5) (opcode : Nat) (code : Code) (detail : DWord) (slab : Word)
    (sqe : BitVec 512) : State :=
  let x := s.queue q
  match x.st with
  | .active =>
    let e : Elog := {
      valid := true, tag := tag, opcode := BitVec.ofNat 8 opcode, code := code,
      freezes := x.elog.freezes + 1, time := s.time64, detail := detail, slab := slab, sqe := sqe }
    s.setQueue q { x with st := .frozen, elog := e }
  | .frozen => s.setQueue q { x with elog := { x.elog with more := true } }
  | _ => s

/-- Hold a completion that could not be written, behind those held before it (R41). -/
def State.holdCpl (s : State) (q tag : Nat) (h : HeldCpl) : State :=
  let x := s.queue q
  (s.setQueue q { (x.advanceCq (BitVec.ofNat 5 tag)) with held := x.held ++ [h] }).dropOp q tag

/-- The freeze by CQ_WRITE_FAULT for the completion that lies in slot `slot` (R38, R41, R88). -/
def State.freezeWrite (s : State) (q : Nat) (tag : BitVec 5) (slot : BitVec 5) (sqe : BitVec 512) : State :=
  s.freeze q tag (Sqe.opcode sqe) 0x4E (slot.setWidth 64) (elogSlab sqe) sqe

/-- Post a completion; the host takes the write where `ok` and the answer told with the row (`cqAnswer`) both say so. In D3hot
none is made, so none faults (R54). A write that faults is held and freezes the queue with CQ_WRITE_FAULT, or is discarded
in DRAINING with every later one of that queue (R38, R41); the message of R40 goes out at once when the freeze posts no
failing completion, which is so too when it is the failing command's own that faults (`failing`). In DRAINING a queue that
holds completions holds the later ones behind them; QUEUE_DRAIN_END writes them in order. -/
def State.postRaw (s : State) (ok : Bool) (q tag : Nat) (cls : CplClass) (code : Code) (result : DWord)
    (slack failing : Bool) : State :=
  let x := s.queue q
  let cqOk := (ok && s.hq.cqAnswer) || decide (s.hq.pcie = .d3hot)
  match x.st with
  | .disabled => s.dropOp q tag
  | .draining =>
    if x.discard then s.dropOp q tag
    else if x.held ≠ [] then s.holdCpl q tag (s.entryHeld q tag cls code result slack)
    else if cqOk then s.postOk q tag cls code result slack failing
    else (s.setQueue q { x with discard := true }).dropOp q tag
  | _ =>
    if cqOk then s.postOk q tag cls code result slack failing
    else
      let s1 := if failing then s else s.freezeWrite q (BitVec.ofNat 5 tag) x.cqTail (s.sqeOf q tag)
      let s2 := s1.holdCpl q tag (s1.entryHeld q tag cls code result slack)
      if failing = true ∨ x.st = .active then s2.message x.vector.toNat else s2

/-- Complete every fetched but unstarted command of a queue as aborted with `code` (R38, R39). -/
def State.abortUnstarted (s : State) (q : Nat) (code : Code) : State :=
  foldS (fun s t => s.postRaw true q t .aborted code 0 false false) s (s.unstarted q)

/-- The unstarted commands of a queue that `t` has frozen and `s` had not complete as NOT_STARTED_FROZEN (R39). -/
def State.frozenNow (s t : State) (q : Nat) : State :=
  if (s.queue q).st = .active ∧ (t.queue q).st = .frozen then t.abortUnstarted q 0x61 else t

/-- Post a completion; where its write freezes the queue, the unstarted commands complete too (R39). -/
def State.post (s : State) (ok : Bool) (q tag : Nat) (cls : CplClass) (code : Code) (result : DWord)
    (slack failing : Bool) : State :=
  s.frozenNow (s.postRaw ok q tag cls code result slack failing) q

/-- Complete a command with success. -/
def State.succeed (s : State) (q tag : Nat) (code : Code) (result : DWord) : State :=
  let slack := match s.op q tag with | some o => o.slack | none => false
  s.post true q tag .success code result slack false

/-- Refuse a command (class refused; the queue does not freeze, R88). -/
def State.refuse (s : State) (q tag : Nat) (code : Code) : State :=
  let slack := match s.op q tag with | some o => o.slack | none => false
  s.post true q tag .refused code 0 slack false

/-- Fail a command: the queue freezes, the failing command completes with FROZEN set, and the unstarted commands
complete as NOT_STARTED_FROZEN (R38, R39). `slab` is the slab concerned. -/
def State.failIn (s : State) (cqOk : Bool) (q tag : Nat) (code : Code) (detail result : DWord) (slab : Word) : State :=
  let sqe := s.sqeOf q tag
  let slack := match s.op q tag with | some o => o.slack | none => false
  let wasActive := decide ((s.queue q).st = .active)
  let s1 := s.freeze q (BitVec.ofNat 5 tag) (Sqe.opcode sqe) code detail slab sqe
  s.frozenNow (s1.postRaw cqOk q tag .failed code result slack wasActive) q

/-- Fail a command; the slab concerned is the one it names. -/
def State.fail (s : State) (cqOk : Bool) (q tag : Nat) (code : Code) (detail result : DWord) : State :=
  s.failIn cqOk q tag code detail result (elogSlab (s.sqeOf q tag))

/-- Complete a command as aborted. -/
def State.abortOp (s : State) (q tag : Nat) (code : Code) (result : DWord) : State :=
  let slack := match s.op q tag with | some o => o.slack | none => false
  s.post true q tag .aborted code result slack false

/-! ### Journal entries (05, R124) -/

/-- Buffer a journal entry with the next JSEQ. -/
def State.journal (s : State) (region : Nat) (cont : Bool) (b : JBody) : State :=
  let j := s.jr
  { s with jr := { j with jseq := j.jseq + 1, buf := j.buf ++ [⟨j.jseq + 1, region, cont, b⟩] } }

/-- Let `a` wait until every entry buffered so far is persisted. -/
def State.whenPersisted (s : State) (a : JAct) : State :=
  { s with jr := { s.jr with acts := s.jr.acts ++ [(s.jr.jseq, a)] } }

/-- Room in the journal buffer (R127: a change that needs an entry while the buffer is full waits). -/
def State.journalRoom (s : State) (n : Nat) : Bool := decide (s.jr.buf.length + n ≤ Config.journalBuf)

end Sys2Proof.Machine
end

