-- ==== Sys2Proof/Machine/CamOps.lean ====
section
/-! DEFINITION. The CAM's table (16): entries by their index, matches, insertion, moves and the regions of instances.

An entry that R429 has placed outside a failed segment keeps its old place index; every operation here names entries
by that index. -/

namespace Sys2Proof.Machine

/-- The index an entry at place `i` counts under (R429). -/
def Place.index (x : Place) (i : Nat) : Nat := x.old.getD i

/-- Live entries with their index and place, in table order. -/
def Cam.live (c : Cam) : List (Nat × Nat × Place) :=
  c.places.filterMap (fun e => if e.2.valid && !e.2.shadow then some (e.2.index e.1, e.1, e.2) else none)

/-- The entry that counts under an index: its place. -/
def Cam.entryAt (c : Cam) (k : Nat) : Option (Nat × Place) :=
  (c.live.find? (fun e => decide (e.1 = k))).map (·.2)

/-- Whether a place's segment takes part (R429). -/
def Cam.inServ (c : Cam) (i : Nat) : Bool := bit c.inService (i / Config.camSegPlaces)

/-- The lowest free place of a segment in service. -/
def Cam.freePlace (c : Cam) : Nat → Nat → Option Nat
  | 0, _ => none
  | fuel + 1, i =>
    if Config.camPlaces ≤ i then none
    else if (mget {} c.places i).valid = false ∧ c.inServ i = true then some i else c.freePlace fuel (i + 1)

/-- Write an entry under an index: at its own place, or, while that cannot be used, at a free one that keeps the index
(R429). An entry for which there is no place is lost; answers whether it was written. -/
def Cam.write (c : Cam) (k : Nat) (x : Place) : Bool × Cam :=
  if c.inServ k = true ∧ (mget {} c.places k).valid = false then
    (true, { c with places := mset {} c.places k { x with old := none } })
  else match c.freePlace (Config.camPlaces + 1) 0 with
    | some i => (true, { c with places := mset {} c.places i { x with old := some k } })
    | none => (false, c)

/-- Clear the entry under an index. -/
def Cam.clear (c : Cam) (k : Nat) : Cam :=
  match c.entryAt k with
  | some (i, _) => { c with places := mset {} c.places i {} }
  | none => c

/-- Move the entry under index `p` to index `q` (R387): copied with the shadow bit, then committed in one cycle. -/
def Cam.move (c : Cam) (p q : Nat) : Cam :=
  match c.entryAt p with
  | some (_, x) => { ((c.clear p).write q x).2 with moved := (c.moved + 1) % 4294967296 }
  | none => c

/-! ### Search (R380 to R384) -/

/-- Whether a place matches a key in a context (R380). -/
def Place.hits (x : Place) (key : BitVec 128) (ctx : Nat) : Bool :=
  decide (x.ctx = ctx) && decide ((key ^^^ x.key) &&& x.mask = 0)

/-- The winner of a search and the count of matches at its PRIO (R382, R383). -/
def Cam.winner (c : Cam) (key : BitVec 128) (ctx : Nat) : Option (Nat × Place × Nat) :=
  let hits := c.live.filter (fun e => e.2.2.hits key ctx)
  let best := hits.foldl (fun (b : Option (Nat × Nat × Place)) e => match b with
    | none => some e
    | some m => if e.2.2.prio < m.2.2.prio ∨ (e.2.2.prio = m.2.2.prio ∧ e.1 < m.1) then some e else some m) none
  best.map (fun m => (m.1, m.2.2, Nat.min 255 (hits.filter (fun e => decide (e.2.2.prio = m.2.2.prio))).length))

/-- POSITION of an entry of an instance (R384, R391): its place in the region, or in the region it is being moved to. -/
def State.camPosition (s : State) (inst k : Nat) : Nat :=
  let x := s.inst inst
  let pos := fun (y : Inst) => if y.camAz128 then k - y.camStart else 0xFFFFFFFF
  if x.camStart ≤ k ∧ k < x.camStart + x.camLen then pos x
  else match s.cam.grant with
    | some (i, y) => if i = inst ∧ y.camStart ≤ k ∧ k < y.camStart + y.camLen then pos y else pos x
    | none => pos x

/-- The 16-byte response of a search (R384). -/
def State.camResponse (s : State) (inst : Nat) (key : BitVec 128) (ctx : Nat) : BitVec 128 :=
  match s.cam.winner key ctx with
  | none => BitVec.ofNat 128 ((if (s.inst inst).camAz128 then 0 else 0xFFFFFFFF) * 2 ^ 96)
  | some (k, x, n) =>
    BitVec.ofNat 128 (x.result.toNat + x.prio % 65536 * 2 ^ 64 + (1 + (if 2 ≤ n then 2 else 0)) * 2 ^ 80 + n * 2 ^ 88 +
      s.camPosition inst k * 2 ^ 96)

def respHit (r : BitVec 128) : Bool := bit r 80
def respMulti (r : BitVec 128) : Bool := bit r 81
def respResult (r : BitVec 128) : DWord := r.extractLsb' 0 64

/-- Count a search that has started and been answered. -/
def State.camCount (s : State) (r : BitVec 128) : State :=
  { s with cam := { s.cam with searches := s.cam.searches + 1, multis := s.cam.multis + (if respMulti r then 1 else 0) } }

/-- A search that runs at once: the MATCH stage of a segment. -/
def State.camLookup (s : State) (inst : Nat) (key : BitVec 128) (ctx : Nat) : BitVec 128 × State :=
  let r := s.camResponse inst key ctx
  (r, s.camCount r)

/-- Whether searches of a context are held while its entries are being placed again (R429). -/
def State.camHeld (s : State) (ctx : Nat) : Bool :=
  s.cam.directory.any (fun e => e.2.valid && decide (e.2.ctx = ctx))

/-- The no-match response of R381 for a context outside the instance's range. -/
def State.noMatch (s : State) (inst : Nat) : BitVec 128 :=
  BitVec.ofNat 128 ((if (s.inst inst).camAz128 then 0 else 0xFFFFFFFF) * 2 ^ 96)

/-! ### Changes (R386 to R393) -/

/-- Entries of an instance's region: index and entry, by rising index. -/
def insertIdx (e : Nat × Place) : List (Nat × Place) → List (Nat × Place)
  | [] => [e]
  | f :: r => if e.1 < f.1 then e :: f :: r else f :: insertIdx e r
def Cam.regionEntries (c : Cam) (x : Inst) : List (Nat × Place) :=
  ((c.live.filter (fun e => decide (x.camStart ≤ e.1 ∧ e.1 < x.camStart + x.camLen))).map (fun e => (e.1, e.2.2))).foldl
    (fun acc e => insertIdx e acc) []

/-- Two entries that R393 calls equal. -/
def Place.same (a b : Place) : Bool :=
  decide (a.ctx = b.ctx ∧ a.key &&& a.mask = b.key &&& b.mask ∧ a.mask = b.mask ∧ a.prio = b.prio)

/-- Consecutive occupied indices from `k` up, at most `n`. -/
def runUp (occ : List Nat) : Nat → Nat → Nat
  | 0, _ => 0
  | n + 1, k => if occ.contains k then 1 + runUp occ n (k + 1) else 0
/-- Consecutive occupied indices from `k` − 1 down to `lo`. -/
def runDown (occ : List Nat) (lo : Nat) : Nat → Nat → Nat
  | 0, _ => 0
  | n + 1, k => if lo < k ∧ occ.contains (k - 1) then 1 + runDown occ lo n (k - 1) else 0

/-- Where a native region takes a new entry, and the moves that make room, first to last (R390). -/
def Cam.nativeRoom (c : Cam) (x : Inst) (e : Place) : Option (Nat × List (Nat × Nat)) :=
  let l := c.regionEntries x
  let occ := l.map (·.1)
  let le := fun (p : Place) => decide (p.ctx < e.ctx ∨ (p.ctx = e.ctx ∧ p.prio ≤ e.prio))
  let i := match (l.filter (fun f => le f.2)).getLast? with | some f => f.1 + 1 | none => x.camStart
  let hi := x.camStart + x.camLen
  let up := runUp occ x.camLen i
  let down := runDown occ x.camStart x.camLen i
  let upOk := decide (i + up < hi)
  let downOk := decide (x.camStart < i - down)
  if upOk = true ∧ up = 0 then some (i, [])
  else if downOk = true ∧ (upOk = false ∨ down ≤ up) then
    some (i - 1, (List.range down).map (fun j => (i - down + j, i - down + j - 1)))
  else if upOk then some (i, (List.range up).map (fun j => (i + up - 1 - j, i + up - j)))
  else none

/-- The next background move that gives a full group of a native region a hole (R390): the nearest group with two holes
or more lends one, entry by entry. -/
def Cam.rebalance (c : Cam) (x : Inst) : Option (Nat × Nat) :=
  if x.camAz128 ∨ x.camLen = 0 ∨ x.camGap = 0 then none
  else
    let occ := (c.regionEntries x).map (·.1)
    let groups := x.camLen / x.camGap
    let holes := fun (g : Nat) => x.camGap - (occ.filter (fun k => decide ((k - x.camStart) / x.camGap = g))).length
    match (List.range groups).find? (fun g => decide (holes g = 0)) with
    | none => none
    | some g =>
      let above := (List.range (groups - g)).find? (fun d => decide (2 ≤ holes (g + d)))
      let below := (List.range (g + 1)).find? (fun d => decide (2 ≤ holes (g - d)))
      let lo := x.camStart + g * x.camGap
      let hi := lo + x.camGap
      let goUp := match above, below with
        | some a, some b => decide (a < b)
        | some _, none => true
        | _, _ => false
      if above.isNone ∧ below.isNone then none
      else if goUp then some (hi + runUp occ x.camLen hi - 1, hi + runUp occ x.camLen hi)
      else some (lo - runDown occ x.camStart x.camLen lo, lo - runDown occ x.camStart x.camLen lo - 1)

/-- The moves that close the gaps of an AZ128 region, lowest first. -/
def closeGaps (start : Nat) (l : List (Nat × Place)) : List (Nat × Nat) :=
  ((l.zip (List.range l.length)).map (fun (e : (Nat × Place) × Nat) => (e.1.1, start + e.2))).filter (fun m => decide (m.1 ≠ m.2))

/-- Whether a change of the CAM is under way: changes are applied one at a time (R394). -/
def Cam.changing (c : Cam) : Bool := decide (c.moves ≠ []) || decide (c.onMoved ≠ []) || c.pendCmd.isSome || c.grant.isSome

/-! ### Regions (R388) -/

/-- Places of a region of a quota. -/
def regionPlaces (quota gap : Nat) (az : Bool) : Nat := if az then quota else (quota + gap - 2) / (gap - 1) * gap

/-- The lowest free run of `n` places, given the regions that exist, as (start, length). -/
def freeRun (regions : List (Nat × Nat)) (n : Nat) : Nat → Nat → Option Nat
  | 0, _ => none
  | fuel + 1, k =>
    if Config.camPlaces < k + n then none
    else match regions.find? (fun r => decide (r.1 < k + n ∧ k < r.1 + r.2)) with
      | none => some k
      | some r => freeRun regions n fuel (r.1 + r.2)

/-- The CAM regions of every instance. -/
def State.camRegions (s : State) : List (Nat × Nat) :=
  (s.hq.insts.filter (fun e => decide (0 < e.2.camLen))).map (fun e => (e.2.camStart, e.2.camLen))

/-- Insert an entry by (CTX, PRIO), after equals. -/
def insertOrd (e : Nat × Place) : List (Nat × Place) → List (Nat × Place)
  | [] => [e]
  | f :: r => if e.2.ctx < f.2.ctx ∨ (e.2.ctx = f.2.ctx ∧ e.2.prio < f.2.prio) then e :: f :: r else f :: insertOrd e r

/-- The moves that carry an instance's entries into a new region, in order (R389): a native region is filled with a hole
left in every group. -/
def Cam.regionMoves (c : Cam) (old new : Inst) : List (Nat × Nat) :=
  let l := c.regionEntries old
  let l := if new.camAz128 then l else l.foldl (fun acc e => insertOrd e acc) []
  let place := fun (j : Nat) => if new.camAz128 then new.camStart + j
    else new.camStart + j / (new.camGap - 1) * new.camGap + j % (new.camGap - 1)
  (l.zip (List.range l.length)).map (fun (e : (Nat × Place) × Nat) => (e.1.1, place e.2))

/-- Clear every entry of an instance (R49). -/
def State.camClearInst (s : State) (i : Nat) : State :=
  let x := s.inst i
  let mine := fun (p : Place) => decide (x.camBase ≤ p.ctx ∧ p.ctx < x.camBase + x.camCount)
  { s with cam := { s.cam with
      places := s.cam.places.filter (fun e => !mine e.2)
      directory := s.cam.directory.filter (fun e => !mine e.2)
      onMoved := s.cam.onMoved.filter (fun e => !mine e.2)
      grant := match s.cam.grant with | some (j, x) => if j = i then none else some (j, x) | none => none } }

end Sys2Proof.Machine
end

