-- ==== Sys2Proof/Machine/Crypt.lean ====
section
/-! DEFINITION. The checks, ciphers and digests the spec names by their standards: CRC-8, CRC-16, CRC-32C (06, 07),
AES with XTS and GCM (14, R343), SHA-256 and HMAC-SHA-256 (15, R366).
PRESUMED: the bodies of FIPS 197, IEEE 1619, SP 800-38D, FIPS 180-4 and RFC 2104 come from those standards, which
spec/ names and does not repeat (assumption 10). -/

namespace Sys2Proof.Machine

/-! ### CRCs -/

/-- `n` shifts of the reflected CRC-32C register (R150: polynomial 0x1EDC_6F41, reflected). -/
def crc32cShift : Nat → Word → Word
  | 0, c => c
  | n + 1, c => if bit c 0 then crc32cShift n ((c >>> 1) ^^^ 0x82F63B78) else crc32cShift n (c >>> 1)

/-- One byte through CRC-32C, with no initial value and no complement (R252). -/
def crc32cByte (c : Word) (b : Byte) : Word := crc32cShift 8 (c ^^^ b.setWidth 32)

/-- CRC-32C of R150 over bytes: initial value all ones, final complement. -/
def crc32c (b : Bytes) : Word := ~~~(foldS crc32cByte 0xFFFFFFFF b)

/-- `n` shifts of the CRC-16 register (R182: polynomial 0x1021). -/
def crc16Shift : Nat → BitVec 16 → BitVec 16
  | 0, c => c
  | n + 1, c => if bit c 15 then crc16Shift n ((c <<< 1) ^^^ 0x1021) else crc16Shift n (c <<< 1)

/-- CRC-16 of R182: initial value 0xFFFF, no final complement. -/
def crc16 (b : Bytes) : BitVec 16 :=
  foldS (fun (c : BitVec 16) (x : Byte) => crc16Shift 8 (c ^^^ (x.setWidth 16 <<< (8 : Nat)))) 0xFFFF b

/-- CRC-8 of a frame header over bits [55:0], bit 55 first (R148: x^8 + x^2 + x + 1, initial value 0xFF). -/
def crc8Bits : Nat → BitVec 56 → Byte → Byte
  | 0, _, c => c
  | n + 1, v, c =>
    let fb := bit c 7 ^^ bit v n
    let c' := c <<< 1
    crc8Bits n v (if fb then c' ^^^ 0x07 else c')

/-- HCRC of a header (R148). -/
def hcrc (v : BitVec 56) : Byte := crc8Bits 56 v 0xFF

/-! ### AES (FIPS 197) -/

/-- Multiplication by x in GF(2^8). -/
def xtime (a : Byte) : Byte := if bit a 7 then (a <<< 1) ^^^ 0x1B else a <<< 1

/-- Multiplication in GF(2^8), over the low `n` bits of `b`. -/
def gmulN : Nat → Byte → Byte → Byte
  | 0, _, _ => 0
  | n + 1, a, b => (if bit b 0 then a else 0) ^^^ gmulN n (xtime a) (b >>> 1)
def gmul (a b : Byte) : Byte := gmulN 8 a b

/-- The inverse in GF(2^8), a to the power 254; 0 gives 0. -/
def ginv (a : Byte) : Byte :=
  let a2 := gmul a a
  let a3 := gmul a2 a
  let a6 := gmul a3 a3
  let a7 := gmul a6 a
  let a14 := gmul a7 a7
  let a15 := gmul a14 a
  let a30 := gmul a15 a15
  let a31 := gmul a30 a
  let a62 := gmul a31 a31
  let a63 := gmul a62 a
  let a126 := gmul a63 a63
  let a127 := gmul a126 a
  gmul a127 a127

def rotl8 (a : Byte) (n : Nat) : Byte := (a <<< n) ||| (a >>> (8 - n))

/-- The S-box and its inverse. -/
def sbox (a : Byte) : Byte :=
  let b := ginv a
  b ^^^ rotl8 b 1 ^^^ rotl8 b 2 ^^^ rotl8 b 3 ^^^ rotl8 b 4 ^^^ 0x63
def invSbox (a : Byte) : Byte := ginv (rotl8 a 1 ^^^ rotl8 a 3 ^^^ rotl8 a 6 ^^^ 0x05)

def xorBytes : Bytes → Bytes → Bytes
  | a :: x, b :: y => (a ^^^ b) :: xorBytes x y
  | _, _ => []

/-- Byte `i` of a list, 0 past its end. -/
def byteAt (b : Bytes) (i : Nat) : Byte := b.getD i 0

/-- Key expansion. `ws` holds the words made so far, newest first, `i` the index of the next word. -/
def aesExpandN : Nat → Nat → Nat → Byte → List Bytes → List Bytes
  | 0, _, _, _, ws => ws
  | n + 1, nk, i, rc, ws =>
    let t := ws.getD 0 []
    let t' :=
      if i % nk = 0 then
        xorBytes [sbox (byteAt t 1), sbox (byteAt t 2), sbox (byteAt t 3), sbox (byteAt t 0)] [rc, 0, 0, 0]
      else if nk > 6 ∧ i % nk = 4 then t.map sbox else t
    aesExpandN n nk (i + 1) (if i % nk = 0 then xtime rc else rc) (xorBytes (ws.getD (nk - 1) []) t' :: ws)

/-- Cut into pieces of `k` bytes. -/
def chunks : Nat → Nat → Bytes → List Bytes
  | 0, _, _ => []
  | _, _, [] => []
  | fuel + 1, k, b => b.take k :: chunks fuel k (b.drop k)

/-- Round keys of a 16- or 32-byte key, first round first, 16 bytes each. -/
def aesRoundKeys (key : Bytes) : List Bytes :=
  let nk := key.length / 4
  let ws := aesExpandN (4 * (nk + 7) - nk) nk nk 1 (chunks nk 4 key).reverse
  chunks (nk + 7) 16 ws.reverse.flatten

def shiftRows (s : Bytes) : Bytes := (List.range 16).map (fun i => byteAt s ((i + 4 * (i % 4)) % 16))
def invShiftRows (s : Bytes) : Bytes := (List.range 16).map (fun i => byteAt s ((i + 12 * (i % 4)) % 16))

/-- One column times the circulant matrix with first row `m`. -/
def mixCol (m : Bytes) (c : Bytes) : Bytes :=
  (List.range 4).map (fun r =>
    gmul (byteAt m ((4 - r) % 4)) (byteAt c 0) ^^^ gmul (byteAt m ((5 - r) % 4)) (byteAt c 1) ^^^
    gmul (byteAt m ((6 - r) % 4)) (byteAt c 2) ^^^ gmul (byteAt m ((7 - r) % 4)) (byteAt c 3))
def mixColumns (s : Bytes) : Bytes := ((chunks 4 4 s).map (mixCol [2, 3, 1, 1])).flatten
def invMixColumns (s : Bytes) : Bytes := ((chunks 4 4 s).map (mixCol [14, 11, 13, 9])).flatten

/-- The rounds after the whitening. -/
def aesRounds : List Bytes → Bytes → Bytes
  | [], s => s
  | [k], s => xorBytes (shiftRows (s.map sbox)) k
  | k :: r, s => aesRounds r (xorBytes (mixColumns (shiftRows (s.map sbox))) k)

/-- AES encryption of one block. -/
def aesEnc (key block : Bytes) : Bytes :=
  match aesRoundKeys key with
  | [] => block
  | k :: r => aesRounds r (xorBytes block k)

/-- The inverse rounds after the whitening, round keys last first. -/
def aesInvRounds : List Bytes → Bytes → Bytes
  | [], s => s
  | [k], s => xorBytes ((invShiftRows s).map invSbox) k
  | k :: r, s => aesInvRounds r (invMixColumns (xorBytes ((invShiftRows s).map invSbox) k))

/-- AES decryption of one block. -/
def aesDec (key block : Bytes) : Bytes :=
  match (aesRoundKeys key).reverse with
  | [] => block
  | k :: r => aesInvRounds r (xorBytes block k)

/-! ### XTS (IEEE 1619) -/

/-- The next tweak: multiplication by x in GF(2^128), little-endian. -/
def xtsNext (t : BitVec 128) : BitVec 128 := if bit t 127 then (t <<< 1) ^^^ 0x87 else t <<< 1

/-- The blocks of one data unit, encrypted or decrypted with Key1 under the running tweak. -/
def xtsBlocks (dec : Bool) (k1 : Bytes) : Nat → BitVec 128 → Bytes → Bytes
  | 0, _, _ => []
  | n + 1, t, b =>
    let tb := natLe 16 t.toNat
    let x := xorBytes (slice b 0 16) tb
    xorBytes (if dec then aesDec k1 x else aesEnc k1 x) tb ++ xtsBlocks dec k1 n (xtsNext t) (b.drop 16)

/-- One 1,024-byte data unit under a slot of 32 or 64 bytes (R343). -/
def xtsUnit (dec : Bool) (key : Bytes) (tweak : BitVec 128) (b : Bytes) : Bytes :=
  let h := key.length / 2
  let t := aesEnc (key.drop h) (natLe 16 tweak.toNat)
  xtsBlocks dec (key.take h) (b.length / 16) (BitVec.ofNat 128 (leNat t)) b

/-- The tweak of a grain at rest (R346). -/
def xtsTweak (inst slab grain : Nat) : BitVec 128 :=
  BitVec.ofNat 128 (grain + slab * 1048576 + inst * 4503599627370496)

/-! ### GCM (SP 800-38D) -/

/-- A block as a big-endian number, and back. -/
def beNat (b : Bytes) : Nat := leNat b.reverse
def natBe (n v : Nat) : Bytes := (natLe n v).reverse

/-- Multiplication in GHASH's field: `x` is read bit 127 first. -/
def ghashMulN : Nat → BitVec 128 → BitVec 128 → BitVec 128 → BitVec 128
  | 0, _, _, z => z
  | n + 1, x, v, z =>
    ghashMulN n x (if bit v 0 then (v >>> 1) ^^^ (0xE1000000000000000000000000000000) else v >>> 1)
      (if bit x n then z ^^^ v else z)
def ghashMul (x h : BitVec 128) : BitVec 128 := ghashMulN 128 x h 0

/-- GHASH of whole and last partial blocks (zero padded), from accumulator `y`. -/
def ghash (h : BitVec 128) : Nat → BitVec 128 → Bytes → BitVec 128
  | 0, y, _ => y
  | _, y, [] => y
  | n + 1, y, b => ghash h n (ghashMul (y ^^^ BitVec.ofNat 128 (beNat (slice b 0 16))) h) (b.drop 16)

/-- The hash subkey. -/
def gcmH (key : Bytes) : BitVec 128 := BitVec.ofNat 128 (beNat (aesEnc key (List.replicate 16 0)))

/-- Increment the 32-bit counter of a counter block (big-endian number form). -/
def gcmInc (c : BitVec 128) : BitVec 128 :=
  (c.extractLsb' 32 96) ++ (c.extractLsb' 0 32 + 1#32)

/-- Counter-mode text from counter `c`, and the counter after it. -/
def gcmCtr (key : Bytes) : Nat → BitVec 128 → Bytes → Bytes × BitVec 128
  | 0, c, _ => ([], c)
  | _, c, [] => ([], c)
  | n + 1, c, b =>
    let x := xorBytes (b.take 16) (aesEnc key (natBe 16 c.toNat))
    let r := gcmCtr key n (gcmInc c) (b.drop 16)
    (x ++ r.1, r.2)

/-- J0 of a 96-bit IV (R358). -/
def gcmJ0 (iv : Bytes) : BitVec 128 := BitVec.ofNat 128 (beNat (slice iv 0 12) * 4294967296 + 1)

/-- The tag from the accumulator after additional data and ciphertext. -/
def gcmTag (key : Bytes) (j0 y : BitVec 128) (aadLen textLen : Nat) : Bytes :=
  let h := gcmH key
  let s := ghashMul (y ^^^ BitVec.ofNat 128 (aadLen * 8 * 18446744073709551616 + textLen * 8)) h
  xorBytes (natBe 16 s.toNat) (aesEnc key (natBe 16 j0.toNat))

/-- Blocks a byte string takes. -/
def blocks16 (b : Bytes) : Nat := (b.length + 15) / 16

/-- A whole GCM message: output text and tag. -/
def gcmWhole (enc : Bool) (key iv aad text : Bytes) : Bytes × Bytes :=
  let h := gcmH key
  let j0 := gcmJ0 iv
  let out := (gcmCtr key (blocks16 text) (gcmInc j0) text).1
  let y1 := ghash h (blocks16 aad) 0 aad
  let y2 := ghash h (blocks16 text) y1 (if enc then out else text)
  (out, gcmTag key j0 y2 aad.length text.length)

/-! ### SHA-256 and HMAC-SHA-256 (FIPS 180-4, RFC 2104) -/

/-- Words packed into one number, the first in its highest bits. -/
def unpackWords (k packed : Nat) : List Word := (List.range k).map (fun i => BitVec.ofNat 32 (packed / 2 ^ (32 * (k - 1 - i))))

/-- The round constants, packed: the first 32 fraction bits of the cube roots of the first 64 primes. -/
def shaRoundBits : Nat :=
  0x428a2f9871374491b5c0fbcfe9b5dba53956c25b59f111f1923f82a4ab1c5ed5d807aa9812835b01243185be550c7dc372be5d7480deb1fe9bdc06a7c19bf174e49b69c1efbe47860fc19dc6240ca1cc2de92c6f4a7484aa5cb0a9dc76f988da983e5152a831c66db00327c8bf597fc7c6e00bf3d5a7914706ca63511429296727b70a852e1b21384d2c6dfc53380d13650a7354766a0abb81c2c92e92722c85a2bfe8a1a81a664bc24b8b70c76c51a3d192e819d6990624f40e3585106aa07019a4c1161e376c082748774c34b0bcb5391c0cb34ed8aa4a5b9cca4f682e6ff3748f82ee78a5636f84c878148cc7020890befffaa4506cebbef9a3f7c67178f2

/-- The initial chaining value: the same of the square roots of the first 8 primes. -/
def shaInit : List Word :=
  unpackWords 8 0x6a09e667bb67ae853c6ef372a54ff53a510e527f9b05688c1f83d9ab5be0cd19

def rotr (x : Word) (n : Nat) : Word := (x >>> n) ||| (x <<< (32 - n))
def wAt (l : List Word) (i : Nat) : Word := l.getD i 0

/-- The message schedule from the window of the last 16 words. -/
def shaSched : Nat → List Word → List Word
  | 0, _ => []
  | n + 1, w =>
    let s0 := let x := wAt w 1; rotr x 7 ^^^ rotr x 18 ^^^ (x >>> 3)
    let s1 := let x := wAt w 14; rotr x 17 ^^^ rotr x 19 ^^^ (x >>> 10)
    wAt w 0 :: shaSched n (w.drop 1 ++ [wAt w 0 + s0 + wAt w 9 + s1])

/-- One round. -/
def shaRound (st : List Word) (k w : Word) : List Word :=
  let a := wAt st 0
  let e := wAt st 4
  let t1 := wAt st 7 + (rotr e 6 ^^^ rotr e 11 ^^^ rotr e 25) + ((e &&& wAt st 5) ^^^ (~~~e &&& wAt st 6)) + k + w
  let t2 := (rotr a 2 ^^^ rotr a 13 ^^^ rotr a 22) + ((a &&& wAt st 1) ^^^ (a &&& wAt st 2) ^^^ (wAt st 1 &&& wAt st 2))
  [t1 + t2, a, wAt st 1, wAt st 2, wAt st 3 + t1, e, wAt st 5, wAt st 6]

def shaRounds : List Word → List Word → List Word → List Word
  | k :: ks, w :: ws, st => shaRounds ks ws (shaRound st k w)
  | _, _, st => st

def addWords : List Word → List Word → List Word
  | a :: x, b :: y => (a + b) :: addWords x y
  | _, _ => []

/-- The compression of one 64-byte block. -/
def shaBlock (h : List Word) (b : Bytes) : List Word :=
  let w := (chunks 16 4 b).map (fun x => BitVec.ofNat 32 (beNat x))
  addWords h (shaRounds (unpackWords 64 shaRoundBits) (shaSched 64 w) h)

/-- The compression of the whole blocks of a byte string. -/
def shaBlocks : Nat → List Word → Bytes → List Word
  | 0, h, _ => h
  | n + 1, h, b => shaBlocks n (shaBlock h (slice b 0 64)) (b.drop 64)

/-- Padding of a message of `total` bytes whose last `rest` bytes (fewer than 64) are given, and the digest words. -/
def shaFinish (h : List Word) (rest : Bytes) (total : Nat) : List Word :=
  let z := (119 - rest.length) % 64
  let m := rest ++ [0x80] ++ List.replicate z 0 ++ natBe 8 (8 * total)
  shaBlocks (m.length / 64) h m

/-- A digest as bytes, H0 first, most significant byte first (R366). -/
def shaBytes (h : List Word) : Bytes := (h.map (fun w => natBe 4 w.toNat)).flatten

/-- SHA-256 from chaining value `h` after `before` bytes. -/
def shaFrom (h : List Word) (before : Nat) (b : Bytes) : List Word :=
  let n := b.length / 64
  shaFinish (shaBlocks n h b) (b.drop (64 * n)) (before + b.length)

def sha256 (b : Bytes) : Bytes := shaBytes (shaFrom shaInit 0 b)

/-- The inner and outer states of an HMAC key (R368). -/
def hmacStates (key : Bytes) : List Word × List Word :=
  let k := padTo64 key
  (shaBlock shaInit (k.map (· ^^^ 0x36)), shaBlock shaInit (k.map (· ^^^ 0x5C)))
where padTo64 (b : Bytes) : Bytes := b ++ List.replicate (64 - b.length) 0

/-- The outer hash of HMAC. -/
def hmacOuter (outer : List Word) (inner : List Word) : List Word := shaFrom outer 64 (shaBytes inner)

/-- HMAC-SHA-256 under the two cached states. -/
def hmacWith (inner outer : List Word) (b : Bytes) : Bytes := shaBytes (hmacOuter outer (shaFrom inner 64 b))

/-- HMAC-SHA-256 under a key of at most 64 bytes. -/
def hmac (key b : Bytes) : Bytes :=
  let st := hmacStates key
  hmacWith st.1 st.2 b

end Sys2Proof.Machine
end

