-- ==== Sys2Proof/Machine/HostQueues.lean ====
section
/-! DEFINITION. Doorbells, restarts, draining, arbitration and fetch, moderation and the PCIe power events (02). -/

namespace Sys2Proof.Machine

/-! ### Doorbells (R34, R36, R37, R41) -/

/-- Whether memory writes to the BARs reach the device: in D3hot they are discarded (R54). -/
def State.barOpen (s : State) : Bool := decide (s.hq.pcie ≠ .d3hot)

/-- A BAR write: it ends a low-power state (R486). -/
def State.barWrite (s : State) : State :=
  let s := { s with hq := { s.hq with pcie := if s.hq.pcie = PcieState.l1 then PcieState.d0 else s.hq.pcie } }
  s.busy.wakeUp

/-- Record a new submission tail: (new − old) mod 32 entries are added (R34). -/
def Queue.tailWrite (x : Queue) (v : BitVec 5) : Queue :=
  { x with sqTail := v, unfetched := x.unfetched + (v - x.sqTail).toNat }

/-- Advance the completion head by (new − old) mod 32 entries, or not at all if that passes CQ_TAIL (R36). -/
def Queue.headWrite (x : Queue) (v : BitVec 5) : Queue :=
  let n := (v - x.cqHead).toNat
  if x.cqTags.length < n then x
  else { x with
    cqHead := v
    cqTags := x.cqTags.drop n
    tags := (x.cqTags.take n).foldl (fun m t => setBit m t.toNat false) x.tags }

/-- Whether doorbells act on a queue: not in DISABLED or DRAINING (R37). -/
def Queue.listens (x : Queue) : Bool := decide (x.st = .active ∨ x.st = .frozen)

/-- A tail written to a queue (R34, R37). -/
def State.writeTail (s : State) (q : Nat) (v : Word) : State :=
  let x := s.queue q
  if x.listens then s.setQueue q (x.tailWrite (v.extractLsb' 0 5)) else s

/-- SQ_TAIL (R34, R37, R54). -/
def execSqTail (q : Nat) (v : Word) (s : State) : Answer :=
  if s.barOpen = false then .next s else .next (s.barWrite.writeTail q v)

/-- A completion head written to a queue (R36, R37). -/
def State.writeHead (s : State) (q : Nat) (v : Word) : State :=
  let x := s.queue q
  if x.listens then s.setQueue q (x.headWrite (v.extractLsb' 0 5)) else s

/-- CQ_HEAD (R36, R37, R54). -/
def execCqHead (q : Nat) (v : Word) (s : State) : Answer :=
  if s.barOpen = false then .next s else .next (s.barWrite.writeHead q v)

/-! ### Restart (R41) -/

/-- Write the completions held under CQ_WRITE_FAULT, in order. -/
def State.writeHeld (s : State) (q : Nat) : List HeldCpl → State
  | [] => s
  | h :: r => ((s.writeCpl q h).notePosted (s.queue q).vector.toNat).writeHeld q r

/-- Complete the entries between SQ_HEAD and SQ_TAIL as NOT_STARTED_FROZEN, `n` of them; marks are cleared (R41, R82). -/
def State.flushEntries (s : State) (q : Nat) (cqOk : Bool) : Nat → State
  | 0 => s
  | n + 1 =>
    let x := s.queue q
    let t := x.sqHead
    let s := s.setQueue q { x with
      sqHead := t + 1, unfetched := x.unfetched - 1
      tags := setBit x.tags t.toNat true, marks := setBit x.marks t.toNat false }
    (s.post cqOk q t.toNat .aborted 0x61 0 false false).flushEntries q cqOk n

/-- A freeze that posts no failing completion: the message goes out at once, outside moderation (R40). -/
def State.freezeQuiet (s : State) (q : Nat) (tag : BitVec 5) (opcode : Nat) (code : Code) (detail : DWord)
    (slab : Word) (sqe : BitVec 512) : State :=
  let was := decide ((s.queue q).st = .active)
  let s := s.freeze q tag opcode code detail slab sqe
  if was then (s.abortUnstarted q 0x61).message (s.queue q).vector.toNat else s

/-- The restart takes effect: held completions are written first, then with FLUSH_PENDING the unfetched entries are
completed, then `ELOG.VALID` is cleared and fetching resumes at SQ_HEAD. When a completion write faults again, the
queue stays FROZEN with what could not be written held (R38, R41). -/
def State.restartNow (s : State) (q : Nat) (cqOk : Bool) (flush : Bool) : State :=
  let x := s.queue q
  if x.held ≠ [] ∧ cqOk = false ∧ s.hq.pcie ≠ .d3hot then
    let s := s.setQueue q { x with restartPending := false, flushPending := false, st := .active }
    let h := x.held.headD { slot := 0, cpl := {} }
    (s.freezeWrite q h.cpl.tag h.slot h.sqe).message x.vector.toNat
  else
    let s := s.setQueue q { x with restartPending := false, flushPending := false, held := [] }
    let s := s.writeHeld q x.held
    let s := if flush then s.flushEntries q cqOk x.unfetched else s
    let y := s.queue q
    if y.held ≠ [] then s
    else s.setQueue q { y with st := .active, elog := { y.elog with valid := false } }

/-- A restart written to a queue; one to a queue that is not FROZEN is ignored (R41). -/
def State.writeRestart (s : State) (q : Nat) (cqOk flush : Bool) : State :=
  let x := s.queue q
  if x.st ≠ .frozen then s
  else if s.startedOps q ≠ [] then s.setQueue q { x with restartPending := true, flushPending := x.flushPending || flush }
  else s.restartNow q cqOk (x.flushPending || flush)

/-- RESTART (R41). -/
def execRestart (q : Nat) (cqOk : Bool) (s : State) : Answer :=
  if s.barOpen = false then .next s else .next (s.barWrite.writeRestart q cqOk false)

/-- FLUSH_PENDING: RESTART written with FLUSH_PENDING (R41). -/
def execFlushPending (q : Nat) (cqOk : Bool) (s : State) : Answer :=
  if s.barOpen = false then .next s else .next (s.barWrite.writeRestart q cqOk true)

/-- RESTART_TAKES_EFFECT: the last completion of a command started before the freeze has been posted (R41). -/
def execRestartTakesEffect (q : Nat) (cqOk : Bool) (s : State) : Answer :=
  let x := s.queue q
  if x.st = .frozen ∧ x.restartPending = true ∧ s.startedOps q = [] then .next (s.restartNow q cqOk x.flushPending)
  else .next s

/-! ### Enabling, draining (R27, R38, R41) -/

/-- Enter DRAINING from ACTIVE or FROZEN. `silent` (instance reset, instance delete, FLR) posts nothing for unstarted
commands and discards held completions unwritten (R24, R38, R41, R48, R82). -/
def State.enterDrain (s : State) (q : Nat) (cause : DrainCause) : State :=
  let x := s.queue q
  if x.listens then
    let silent := decide (cause ≠ .delete)
    let s1 := s.setQueue q { x with
      st := .draining, restartPending := false, flushPending := false, marks := 0, drain := cause
      held := if silent then [] else x.held }
    if silent then foldS (fun s t => s.dropOp q t) s1 (s.unstarted q)
    else s1.abortUnstarted q 0x63
  else s

/-- A queue as it stands on entering ACTIVE from DISABLED (R38). -/
def Queue.fresh (x : Queue) : Queue :=
  { st := .active, inst := x.inst, cls := x.cls, weight := x.weight, vector := x.vector, pasid := x.pasid,
    sqBase := x.sqBase, cqBase := x.cqBase, phase := true }

/-- ENABLE_SET: `CU_AQ_CTRL.ENABLE` 0 → 1 moves queue 0 from DISABLED to ACTIVE; ignored while `ID_READY.ADMIN` is 0 or
queue 0 is not DISABLED (R27, R38). Queue 0 is of class Urgent and carries no PASID. Its WEIGHT, which the spec does not give (no
QUEUE_CREATE makes queue 0), reads 0 (DESIGN CHOICE, assumption 69). -/
def State.enableSet (s : State) : State :=
  if bit s.hq.idReady 1 = true ∧ (s.queue 0).st = .disabled then
    let s := { s with hq := { s.hq with aqEnable := true } }
    s.setQueue 0 (Queue.fresh { vector := s.hq.aqVector, sqBase := s.hq.aqSqBase, cqBase := s.hq.aqCqBase })
  else s

def execEnableSet (s : State) : Answer :=
  if s.barOpen = false then .next s else .next s.barWrite.enableSet

/-- ENABLE_CLEAR: ENABLE 1 → 0 moves queue 0 to DRAINING (R26, R38). -/
def State.enableClear (s : State) : State :=
  if s.hq.aqEnable then ({ s with hq := { s.hq with aqEnable := false } }).enterDrain 0 .delete else s

def execEnableClear (s : State) : Answer :=
  if s.barOpen = false then .next s else .next s.barWrite.enableClear

/-- QUEUE_DRAIN_END: every started command of a DRAINING queue has ended. Held completions are written, or discarded
when the write faults (R41). A queue of an instance reset has its ring zeroed and returns to ACTIVE, unless the zeroing
faults; every other queue becomes DISABLED with its context cleared (R38, R47). -/
def State.drainEnd (s : State) (q : Nat) (writeOk : Bool) : State :=
  let x := s.queue q
  if x.st = .draining ∧ s.startedOps q = [] then
    match x.drain with
    | .instReset =>
      if writeOk then (s.emit (.ringZero q x.pasid)).setQueue q { x.fresh with elog := { x.elog with valid := false } }
      else s.setQueue q {}
    | .delete => (if writeOk then (s.setQueue q { x with held := [] }).writeHeld q x.held else s).setQueue q {}
    | _ => s.setQueue q {}
  else s

def execQueueDrainEnd (q : Nat) (writeOk : Bool) (s : State) : Answer := .next (s.drainEnd q writeOk)

/-- SHUTDOWN: fetching stops, and each fetched but unstarted command completes as NOT_STARTED_DRAINED; each queue keeps
its state (R28). -/
def State.writeShutdown (s : State) : State :=
  let s := { s with hq := { s.hq with shutdown := true, stopFetch := true } }
  foldS (fun (s : State) (e : Nat × Queue) => s.abortUnstarted e.1 0x63) s s.hq.queues

def execShutdown (s : State) : Answer :=
  if s.barOpen = false then .next s else .next s.barWrite.writeShutdown

/-! ### Arbitration (R42, R43) -/

/-- Operation-table entries that satisfy `p`. -/
def State.countOps (s : State) (p : Op → Bool) : Nat :=
  (s.hq.ops.filter (fun e => match e.2 with | some o => p o | none => false)).length

/-- The pool the next entry of a queue is drawn from, if its share has room (R43). -/
def State.opPool (s : State) (q : Nat) : Option OpPool :=
  let used := fun (k : OpPool) => s.countOps (fun o => decide (o.pool = k))
  let shared := if used .shared < Config.opEntries - Config.opQueue0 - Config.opUrgent then some OpPool.shared else none
  let urgent := if used .urgent < Config.opUrgent then some OpPool.urgent else shared
  if q = 0 then (if used .queue0 < Config.opQueue0 then some .queue0 else urgent)
  else if (s.queue q).cls = 0 then urgent else shared

/-- Whether an instance is below its operation quota (R43). -/
def State.underQuota (s : State) (i : Nat) : Bool :=
  decide (s.countOps (fun o => decide (o.inst = i)) < (s.inst i).quota)

/-- A region's share of the Stockpot is full (R295): it then behaves as in the compact configuration. -/
def State.stockFull (s : State) (p : Nat) : Bool := decide (s.ld.stock / 8 ≤ (s.region p).spilled.length)

/-- A region pushes back as in the compact configuration (R43, R294, R295). -/
def State.pushes (s : State) (p : Nat) : Bool := (s.region p).pushBack && (s.hq.compact || s.stockFull p)

/-- Some region stops the host queue fetch of every queue but queue 0 (R294). -/
def State.compactPush (s : State) : Bool := s.ld.regions.any (fun e => s.pushes e.1)

/-- Whether an instance's state lets it have commands accepted: ACTIVE or WRITE_CLOSED (R44). -/
def State.accepts (s : State) (i : Nat) : Bool :=
  decide ((s.inst i).st = .active) || decide ((s.inst i).st = .writeClosed)

/-- Whether the device may fetch from a queue now. -/
def State.eligible (s : State) (q : Nat) : Bool :=
  let x := s.queue q
  decide (x.st = .active ∧ 0 < x.unfetched) && s.accepts x.inst && s.underQuota x.inst && (s.opPool q).isSome &&
    (decide (q = 0) || !s.compactPush)

/-- The first of `l` at or after `k` in cyclic order. -/
def cyclicFrom (k : Nat) (l : List Nat) : Option Nat :=
  match l.find? (fun q => decide (k ≤ q)) with
  | some q => some q
  | none => l.head?

/-- Class weight of High, Medium, Low (dictionary 0x02_0010 to 0x02_0012). -/
def State.classWeight (s : State) (c : Nat) : Nat :=
  if c = 1 then s.param 0x020010 16 else if c = 2 then s.param 0x020011 4 else s.param 0x020012 1

def tripleGet (t : Nat × Nat × Nat) (c : Nat) : Nat := if c = 1 then t.1 else if c = 2 then t.2.1 else t.2.2
def tripleSet (t : Nat × Nat × Nat) (c v : Nat) : Nat × Nat × Nat :=
  if c = 1 then (v, t.2.1, t.2.2) else if c = 2 then (t.1, v, t.2.2) else (t.1, t.2.1, v)

/-- Grant one fetch within a class: up to WEIGHT grants per queue and round (R42 item 3). A round ends when no queue with an
unfetched entry has a grant left; the next one gives every queue of the class its grants anew. -/
def State.grantIn (s : State) (c : Nat) (l : List Nat) : Option (Nat × State) :=
  let fresh := l.filter (fun q => decide ((s.queue q).grants < (s.queue q).weight.toNat))
  let all := (s.hq.queues.filter (fun e => decide (e.2.cls.toNat = c))).map (·.1)
  let s1 := if fresh = [] then foldS (fun (s : State) (q : Nat) => s.setQueue q { s.queue q with grants := 0 }) s all else s
  match cyclicFrom (tripleGet s1.hq.classNext c) (if fresh = [] then l else fresh) with
  | none => none
  | some q =>
    let x := s1.queue q
    let s2 := s1.setQueue q { x with grants := x.grants + 1 }
    some (q, { s2 with hq := { s2.hq with classNext := tripleSet s2.hq.classNext c (if x.grants + 1 ≥ x.weight.toNat then q + 1 else q) } })

/-- Select the queue to fetch from (R42): Urgent first, round robin; then the classes by weighted round robin. -/
def State.arbitrate (s : State) : Option (Nat × State) :=
  let el := (s.hq.queues.map (fun e => e.1)).filter s.eligible
  let of := fun (c : Nat) => el.filter (fun q => decide ((s.queue q).cls.toNat = c))
  match cyclicFrom s.hq.urgentNext (of 0) with
  | some q => some (q, { s with hq := { s.hq with urgentNext := q + 1 } })
  | none =>
    let s1 := if [1, 2, 3].any (fun c => decide (of c ≠ [] ∧ 0 < tripleGet s.hq.classLeft c)) then s
      else { s with hq := { s.hq with classLeft := (s.classWeight 1, s.classWeight 2, s.classWeight 3) } }
    match [1, 2, 3].find? (fun c => decide (of c ≠ [] ∧ 0 < tripleGet s1.hq.classLeft c)) with
    | none => none
    | some c =>
      ({ s1 with hq := { s1.hq with classLeft := tripleSet s1.hq.classLeft c (tripleGet s1.hq.classLeft c - 1) } }).grantIn c (of c)

/-! ### Fetch (R35, R56, R57, R82) -/

/-- Opcodes of the opcode table (03). -/
def opcodeKnown (op : Nat) : Bool := decide ((1 ≤ op ∧ op ≤ 0x0D) ∨ (0x80 ≤ op ∧ op ≤ 0x8D))

/-- Sub-operations each command defines (R57): the greatest SUBOP. -/
def subopMax (op : Nat) : Nat :=
  if op = 0x08 ∨ op = 0x09 ∨ op = 0x87 ∨ op = 0x89 ∨ op = 0x8A ∨ op = 0x8D then 1
  else if op = 0x0B then 3 else if op = 0x0C then 5 else 0

/-- Commands that MAP need not precede (R453). -/
def beforeMapOk (op : Nat) : Bool := decide (op = 0x88 ∨ op = 0x89 ∨ op = 0x8A)

/-- Data commands, which SANITIZE refuses (R85): those of the section "Data commands" of 03, opcodes 0x01 to 0x0C
(assumption 17). -/
def isDataCommand (op : Nat) : Bool := decide (1 ≤ op ∧ op ≤ 0x0C)

/-- The causes 1 to 4 of R524, the same for every command. -/
def State.commonRefusal (s : State) (q : Nat) (e : Sqe) : Option Code :=
  let op := Sqe.opcode e
  if opcodeKnown op = false then some 0x10
  else if 0x80 ≤ op ∧ q ≠ 0 then some 0x12
  else if bit s.hq.idReady 3 = false ∧ beforeMapOk op = false then some 0x1D
  else if s.st.sanitizing = true ∧ isDataCommand op = true then some 0x2A
  else none

/-- Put a fetched entry into the operation table, or complete it at once: as ABORTED in a marked slot (R82), or refused
when no command answers to its opcode and SUBOP (R57). The range list of a RUN is read with it (R75): `rl`. -/
def State.takeEntry (s : State) (q : Nat) (pool : OpPool) (e : BitVec 512) (rl : HostRead) : State :=
  let x := s.queue q
  let t := x.sqHead.toNat
  let marked := bit x.marks t
  let s := s.setQueue q { x with
    sqHead := x.sqHead + 1, unfetched := x.unfetched - 1
    tags := setBit x.tags t true, marks := setBit x.marks t false }
  let s := s.setOp q t (some { sqe := e, inst := x.inst, pool := pool, order := s.hq.fetchSeq })
  let s := { s with hq := { s.hq with fetchSeq := s.hq.fetchSeq + 1 } }
  if marked then s.abortOp q t 0x60 0
  else if opcodeKnown (Sqe.opcode e) = true ∧ Sqe.subop e ≤ subopMax (Sqe.opcode e) then
    if Sqe.opcode e = 8 then
      (s.dmaRead q t).setOp q t (some { sqe := e, inst := x.inst, pool := pool, order := s.hq.fetchSeq - 1, rlist := rl })
    else s
  else match s.commonRefusal q e with
    | some c => s.refuse q t c
    | none => s.refuse q t 0x11

/-- Fetch the next entry of queue `q` (R35, R38, R88). -/
def State.fetchFrom (s : State) (q : Nat) (pool : OpPool) (r : SqeRead) (rl : HostRead) : State :=
  let x := s.queue q
  let d : DWord := x.sqHead.setWidth 64
  if bit x.tags x.sqHead.toNat then s.freezeQuiet q x.sqHead 0 0x4C d 0xFFFFFFFF 0
  else
    let s := s.dmaRead q x.sqHead.toNat
    match r with
    | .fault => s.freezeQuiet q x.sqHead 0 0x4D d 0xFFFFFFFF 0
    | .ok e => s.takeEntry q pool e rl

/-- Whether fetching runs at all: in D0 (R54), with no shutdown, power failure or fault (R28, R131, R437). -/
def State.fetching (s : State) : Bool := decide (s.hq.pcie ≠ .d3hot) && !s.hq.stopFetch

/-- SUBMISSION_FETCH (R35, R42). -/
def execSubmissionFetch (r : SqeRead) (rl : HostRead) (cqOk : Bool) (s : State) : Answer := answering cqOk s fun s =>
  if s.fetching then
    match s.arbitrate with
    | none => .next s
    | some (q, s1) => match s1.opPool q with
      | none => .next s
      | some pool => .next (s1.busy.fetchFrom q pool r rl)
  else .next s

/-! ### Moderation and the PCIe power events (R51 to R54) -/

/-- MODERATION_WINDOW_END: at instant t + T the window of vector `v` ends and its message goes out (R51). -/
def execModerationWindowEnd (v : Nat) (s : State) : Answer :=
  match (s.vec v).winEnd with
  | some e => .next ((s.reach e).windowMessage v)
  | none => .next s

/-- Clear a vector's mask: a pending message goes out on unmask (R52). -/
def State.unmask (s : State) (v : Nat) : State :=
  let x := s.vec v
  let s := s.setVec v { x with masked := false }
  if x.pending = true ∧ s.hq.funcMask = false then (s.setVec v { s.vec v with pending := false }).message v else s

/-- VECTOR_UNMASK (R52). -/
def execVectorUnmask (v : Nat) (s : State) : Answer :=
  if s.barOpen = false then .next s else .next (s.barWrite.unmask v)

/-- End every open moderation window early; the messages of unmasked vectors go out (R53). -/
def State.endWindows (s : State) : State :=
  foldS (fun (s : State) (e : Nat × Vec) => if (s.vec e.1).winEnd.isSome then s.windowMessage e.1 else s) s s.hq.vecs

/-- D3HOT_ENTRY (R53, R54): windows end, then the configuration write completes in D3hot. -/
def execD3hotEntry (s : State) : Answer :=
  if s.hq.pcie = .d3hot then .next s
  else
    let s := s.wakeUp.endWindows
    let s := (s.raise 0x90F).emit .cfgDone
    .next { s with hq := { s.hq with pcie := .d3hot } }

/-- Write a completion held in D3hot. One whose write faults is held again under CQ_WRITE_FAULT, which freezes an ACTIVE queue;
in DRAINING it is discarded, with every later one of its queue (R38, R40, R41). -/
def State.returnCpl (s : State) (q : Nat) (h : HeldCpl) : State :=
  let x := s.queue q
  if x.st = .draining ∧ x.discard = true then s
  else if s.hq.cqAnswer then s.writeCpl q h
  else match x.st with
    | .disabled => s
    | .draining => s.setQueue q { x with discard := true }
    | _ =>
      let s1 := s.freezeWrite q h.cpl.tag h.slot h.sqe
      let s2 := s1.setQueue q { s1.queue q with held := (s1.queue q).held ++ [h] }
      s.frozenNow (if x.st = .active then s2.message x.vector.toNat else s2) q

/-- D0_RETURN (R54): held completions are written in the order posted, then held messages go out under the masks. -/
def execD0Return (cqOk : Bool) (s : State) : Answer := answering cqOk s fun s =>
  if s.hq.pcie = .d3hot then
    let cs := s.hq.heldCpl
    let ms := s.hq.heldMsg
    let s := { s with hq := { s.hq with pcie := .d0, heldCpl := [], heldMsg := [] } }
    let s := foldS (fun (s : State) (h : Nat × HeldCpl) => s.returnCpl h.1 h.2) s cs
    let s := foldS (fun (s : State) (v : Nat) => s.message v) s ms
    .next ((s.raise 0x90F).wakeUp)
  else .next s

/-- ASPM_L1_ENTRY (R53): windows end first; no request is made while a message is pending. -/
def execAspmL1Entry (s : State) : Answer :=
  let s := s.endWindows
  if s.hq.vecs.any (fun e => e.2.pending) ∨ s.hq.pcie ≠ .d0 then .next s
  else .next { (s.raise 0x90F).emit .aspmL1 with hq := { ((s.raise 0x90F).emit .aspmL1).hq with pcie := .l1 } }

/-- PME_TURN_OFF (R53): windows end before PME_TO_Ack. -/
def execPmeTurnOff (s : State) : Answer := .next (s.endWindows.emit .pmeAck)

/-- ATS_INVALIDATE (R22): each request is answered with an invalidate completion. The translations
themselves are host answers in this model (assumption 2). -/
def execAtsInvalidate (s : State) : Answer :=
  .next (s.emit .atsDone)

end Sys2Proof.Machine
end

