-- ==== Sys2Proof/Machine/Krf.lean ====
section
/-! DEFINITION. The Kenip Reduction Format (13, R324 to R336): the reducer's coding and the expander's decoding. -/

namespace Sys2Proof.Machine

/-- The bitwise complement of the XOR of the seven 4-bit groups of bits [27:0] (R325, R331). -/
def krfChk (v : BitVec 28) : BitVec 4 :=
  let g := fun i => v.extractLsb' (4 * i) 4
  ~~~(g 0 ^^^ g 1 ^^^ g 2 ^^^ g 3 ^^^ g 4 ^^^ g 5 ^^^ g 6)

/-- A header or frame word: bits [27:0] with CHK on top. -/
def krfWord (v : BitVec 28) : Word := krfChk v ++ v

/-- The bytes of a bin, by its code (R66). -/
def binBytes (b : Nat) : Nat := 1024 * (b + 1)

/-- The smallest bin of at least `n` bytes (R326). -/
def binFor (n : Nat) : Nat := if n ≤ 1024 then 0 else if n ≤ 2048 then 1 else if n ≤ 3072 then 2 else 3

/-! ### Coding (R332) -/

/-- `hash(p)` of the four bytes at the head of the rest of the block. -/
def krfHash (rest : Bytes) : Nat := (leNat (rest.take 4) * 0x9E3779B1) % 4294967296 / 4194304

/-- `run(s, p)`: how many bytes agree, at most `lim`. -/
def krfRun : Nat → Bytes → Bytes → Nat
  | 0, _, _ => 0
  | lim + 1, a :: x, b :: y => if a = b then krfRun lim x y + 1 else 0
  | _ + 1, _, _ => 0

/-- Literal tokens, at most 128 bytes each (R327). `fuel` is at least the number of bytes. -/
def krfLiterals : Nat → Bytes → Bytes
  | _, [] => []
  | 0, _ => []
  | fuel + 1, l => BitVec.ofNat 8 ((l.take 128).length - 1) :: (l.take 128 ++ krfLiterals fuel (l.drop 128))

/-- A match token of length `m` and distance `d` (R327, R332). -/
def krfMatch (m d : Nat) : Bytes :=
  if m ≤ 10 ∧ d ≤ 2048 then
    [BitVec.ofNat 8 (0x80 + (m - 3) * 8 + (d - 1) / 256), BitVec.ofNat 8 ((d - 1) % 256)]
  else BitVec.ofNat 8 (0xC0 + (m - 3) % 32) :: natLe 2 ((m - 3) / 32 * 4096 + (d - 1))

/-- The state of the coding procedure: the hash table, the last distance, and the pending literals, newest first. -/
structure Coder where
  table : SMap Nat := []              -- position + 1 by hash; 0 is empty
  last : Nat := 0                     -- last distance; 0 is none
  lit : Bytes := []
deriving DecidableEq, Repr

/-- The coding loop at position `p`, `rest` being the block from `p` on. -/
def krfLoop (block : Bytes) : Nat → Nat → Bytes → Coder → Bytes
  | 0, _, _, c => krfLiterals 4096 c.lit.reverse
  | _ + 1, _, [], c => krfLiterals 4096 c.lit.reverse
  | fuel + 1, p, rest@(x :: tl), c =>
    let can := decide (4 ≤ rest.length)
    let h := krfHash rest
    let cand := if can then mget 0 c.table h else 0
    let table := if can then mset 0 c.table h (p + 1) else c.table
    let m1 := if can = true ∧ c.last ≠ 0 ∧ c.last ≤ p then krfRun 514 (block.drop (p - c.last)) rest else 0
    let two := if m1 < 4 ∧ cand ≠ 0 then (krfRun 514 (block.drop (cand - 1)) rest, p + 1 - cand) else (m1, c.last)
    if 4 ≤ two.1 then
      krfLiterals 4096 c.lit.reverse ++ krfMatch two.1 two.2 ++
        krfLoop block fuel (p + two.1) (rest.drop two.1) { table, last := two.2, lit := [] }
    else krfLoop block fuel (p + 1) tl { table, last := c.last, lit := x :: c.lit }

/-- The token stream of a block. -/
def krfTokens (block : Bytes) : Bytes := krfLoop block (block.length + 1) 0 block {}

/-- The coded unit of a block with its bin, or none when the block is stored raw (R325). -/
def krfCode (block : Bytes) : Option (Nat × Bytes) :=
  let t := krfTokens block
  if 4 + t.length ≤ 3072 then
    let bin := binFor (4 + t.length)
    let v := BitVec.ofNat 28 (block.length + t.length * 8192 + bin * 33554432)
    some (bin, natLe 4 (krfWord v).toNat ++ t)
  else none

/-- Zeros up to `n` bytes. -/
def padTo (n : Nat) (b : Bytes) : Bytes := b ++ List.replicate (n - b.length) 0

/-- The slab form of a block: its bin and its 1, 2, 3 or 4 KiB (R329). -/
def krfSlab (block : Bytes) : Nat × Bytes :=
  match krfCode block with
  | some (bin, u) => (bin, padTo (binBytes bin) u)
  | none => (3, padTo 4096 block)

/-- The host-stream form of a block: frame word, unit, padding (R331). -/
def krfHost (block : Bytes) : Bytes :=
  match krfCode block with
  | some (_, u) =>
    natLe 4 (krfWord (BitVec.ofNat 28 (block.length + u.length * 8192))).toNat ++ padTo ((u.length + 3) / 4 * 4) u
  | none =>
    natLe 4 (krfWord (BitVec.ofNat 28 (block.length + 33554432))).toNat ++ padTo ((block.length + 3) / 4 * 4) block

/-! ### Decoding (R327, R328, R330, R334) -/

/-- A failed check of R334: status code and offset in the unit. -/
structure ExpErr where
  code : Nat
  off : Nat
deriving DecidableEq, Repr

/-- Append `m` bytes that each stand `d` bytes before the end (R328); the output is held newest first. -/
def krfCopy : Nat → Nat → Bytes → Bytes
  | 0, _, out => out
  | m + 1, d, out => krfCopy m d (out.getD (d - 1) 0 :: out)

/-- Decode tokens. `pos` is the offset of the next token byte in the unit, `n` the bytes produced, held newest first.
The checks of R334 are made token by token (assumption 15). -/
def krfDecode : Nat → Bytes → Nat → Nat → Bytes → Nat → Except ExpErr Bytes
  | _, [], pos, n, out, srclen => if n = srclen then .ok out.reverse else .error ⟨0x46, pos⟩
  | 0, _, pos, _, _, _ => .error ⟨0x46, pos⟩
  | fuel + 1, t :: r, pos, n, out, srclen =>
    let v := t.toNat
    if v < 0x80 then
      let k := v + 1
      if r.length < k then .error ⟨0x44, pos⟩
      else if srclen < n + k then .error ⟨0x46, pos⟩
      else krfDecode fuel (r.drop k) (pos + 1 + k) (n + k) ((r.take k).reverse ++ out) srclen
    else if v < 0xC0 then
      match r with
      | [] => .error ⟨0x44, pos⟩
      | e :: r' =>
        let m := v / 8 % 8 + 3
        let d := (v % 8) * 256 + e.toNat + 1
        if n < d then .error ⟨0x45, pos⟩
        else if srclen < n + m then .error ⟨0x46, pos⟩
        else krfDecode fuel r' (pos + 2) (n + m) (krfCopy m d out) srclen
    else if v < 0xE0 then
      match r with
      | a :: b :: r' =>
        let w := a.toNat + 256 * b.toNat
        let m := w / 4096 * 32 + v % 32 + 3
        let d := w % 4096 + 1
        if n < d then .error ⟨0x45, pos⟩
        else if srclen < n + m then .error ⟨0x46, pos⟩
        else krfDecode fuel r' (pos + 3) (n + m) (krfCopy m d out) srclen
      | _ => .error ⟨0x44, pos⟩
    else .error ⟨0x44, pos⟩

/-- The offset of the first non-zero byte. -/
def firstNonZero : Bytes → Nat → Option Nat
  | [], _ => none
  | b :: r, k => if b = 0 then firstNonZero r (k + 1) else some k

/-- Header fields of a unit: SRCLEN, TOKLEN, BIN. -/
def hdrSrclen (h : Word) : Nat := bits h 0 13
def hdrToklen (h : Word) : Nat := bits h 13 12
def hdrBin (h : Word) : Nat := bits h 25 2

/-- Check 1 of R334 on a header word. -/
def headerOk (h : Word) : Bool :=
  decide (h.extractLsb' 28 4 = krfChk (h.extractLsb' 0 28)) && !bit h 27 &&
  decide (1 ≤ hdrSrclen h ∧ hdrSrclen h ≤ 4096 ∧ 1 ≤ hdrToklen h ∧ hdrBin h ≠ 3 ∧
    4 + hdrToklen h ≤ binBytes (hdrBin h))

/-- Check 1 of a unit in the slab form, with the bin of its first descriptor and how many further-grain descriptors
follow (R330). A raw unit passes. -/
def slabHeaderOk (bin further : Nat) (u : Bytes) : Bool :=
  if bin = 3 then true
  else
    let h := BitVec.ofNat 32 (leNat (u.take 4))
    headerOk h && decide (hdrBin h = bin) && decide (further = bin)

/-- The source length a unit in the slab form expands to. -/
def slabSrclen (bin : Nat) (u : Bytes) : Nat :=
  if bin = 3 then 4096 else hdrSrclen (BitVec.ofNat 32 (leNat (u.take 4)))

/-- Expand one unit in the slab form; `further` is the count of further-grain descriptors that follow. -/
def slabExpand (bin further : Nat) (u : Bytes) : Except ExpErr Bytes :=
  if bin = 3 then .ok (slice u 0 4096)
  else if slabHeaderOk bin further u = false then .error ⟨0x47, 0⟩
  else
    let h := BitVec.ofNat 32 (leNat (u.take 4))
    let t := hdrToklen h
    match krfDecode (t + 1) (slice u 4 t) 4 0 [] (hdrSrclen h) with
    | .error e => .error e
    | .ok out =>
      match firstNonZero (slice u (4 + t) (binBytes bin - (4 + t))) (4 + t) with
      | some k => .error ⟨0x48, k⟩
      | none => .ok out

/-- What reading one frame of the host-stream form gives: the source bytes and the stream after it, an incomplete
frame (R339), or an error. -/
inductive FrameRead where
  | ok (src : Bytes) (used : Nat)
  | short
  | bad (e : ExpErr)
deriving DecidableEq, Repr

/-- Expand one frame of the host-stream form (R331, R334, R339). -/
def hostExpand (b : Bytes) : FrameRead :=
  if b.length < 4 then .short
  else
    let f := BitVec.ofNat 32 (leNat (b.take 4))
    let srclen := bits f 0 13
    let ulen := bits f 13 12
    let frameOk := decide (f.extractLsb' 28 4 = krfChk (f.extractLsb' 0 28)) && decide (bits f 26 2 = 0)
    if frameOk = false then .bad ⟨0x47, 0⟩
    else if bit f 25 then
      if ulen ≠ 0 then .bad ⟨0x47, 0⟩
      else
        let padded := (srclen + 3) / 4 * 4
        if b.length < 4 + padded then .short
        else match firstNonZero (slice b (4 + srclen) (padded - srclen)) srclen with
          | some k => .bad ⟨0x48, k⟩
          | none => .ok (slice b 4 srclen) (4 + padded)
    else
      let padded := (ulen + 3) / 4 * 4
      if b.length < 4 + padded then .short
      else
        let h := BitVec.ofNat 32 (leNat (slice b 4 4))
        if (headerOk h && decide (ulen = 4 + hdrToklen h ∧ srclen = hdrSrclen h)) = false then .bad ⟨0x47, 0⟩
        else match krfDecode (hdrToklen h + 1) (slice b 8 (hdrToklen h)) 4 0 [] srclen with
          | .error e => .bad e
          | .ok out =>
            match firstNonZero (slice b (4 + ulen) (padded - ulen)) ulen with
            | some k => .bad ⟨0x48, k⟩
            | none => .ok out (4 + padded)

/-- Cut input into 4,096-byte source blocks; the last may be short. -/
def cutBlocks : Nat → Bytes → List Bytes
  | _, [] => []
  | 0, _ => []
  | fuel + 1, b => b.take 4096 :: cutBlocks fuel (b.drop 4096)

/-- The bin list of R66: two bits per block, from bit 0 of each byte. -/
def binListBytes : List (BitVec 2) → Bytes
  | [] => []
  | [a] => [a.setWidth 8]
  | [a, b] => [(b ++ a).setWidth 8]
  | [a, b, c] => [(c ++ b ++ a).setWidth 8]
  | a :: b :: c :: d :: r => (d ++ c ++ b ++ a) :: binListBytes r

/-- Entry `i` of a bin list. -/
def binAt (l : Bytes) (i : Nat) : Nat := (l.getD (i / 4) 0).toNat / 4 ^ (i % 4) % 4

end Sys2Proof.Machine
end

