-- ==== Sys2Proof/Machine/DramOps.lean ====
section
/-! DEFINITION. What the store asks of DRAM (17): the pages of its contents, and the read cache (R410, R412, R413). -/

namespace Sys2Proof.Machine

/-- A field of a table entry of the object dictionary (R464, R480): `n` bytes at `off`, or the listed default. -/
def State.tableField (s : State) (entry off n dflt : Nat) : Nat :=
  match s.dict.vals.find? (fun x => x.1 = entry) with
  | some (_, b) => fieldLe b off n
  | none => dflt

/-- Pages of 2 MiB that the windows of a size table take: s MiB of window take 2 s MiB (R231, R412). -/
def windowPages (b : Bytes) : Nat := (List.range 1024).foldl (fun n w => n + fieldLe b (2 * w) 2) 0

/-- Pages that the Stockpot, the journal staging copies and the CAM overflow directory take, both copies (R412). -/
def State.devicePages (s : State) : Nat := (s.ld.stock + 32767) / 32768 + 4 + 16

/-- A subchannel of a channel. -/
def Chan.sub (x : Chan) (n : Nat) : SubCh := if n = 0 then x.sub0 else x.sub1

/-- Whether both subchannels of a mirror pair are in service (R410). -/
def State.pairUp (s : State) (c n : Nat) : Bool := ((s.chan c).sub n).inService && ((s.chan (c + 2)).sub n).inService

/-- The mirror pairs in service, of the four or, with two channels populated, two (R396, R410). -/
def State.pairsUp (s : State) : Nat :=
  (List.range 4).countP (fun i => s.pairUp (i / 2) (i % 2))

/-- Pages of 2 MiB of one mirror pair, both copies (R396, R410). -/
def State.pairPages (s : State) : Nat := s.dram.gib * 512 / (if bit s.dram.chMask 1 then 4 else 2)

/-- Pages that kept contents can take: those of the pairs in service. -/
def State.dramPages (s : State) : Nat := s.pairsUp * s.pairPages

/-- Pages that kept contents take (R412). -/
def State.keptPages (s : State) : Nat :=
  s.devicePages + (match s.dict.vals.find? (fun e => decide (e.1 = 0x050020)) with | some (_, b) => windowPages b | none => 0)

/-! ### The read cache (R412, R413) -/

/-- Grains that fit the pages which kept contents leave free. -/
def State.cacheRoom (s : State) : Nat := if s.hq.dramPresent then 2048 * (s.dramPages - s.keptPages) else 0

/-- A cached grain. -/
def State.cached (s : State) (ti g : Nat) : Option Bytes :=
  (s.dram.cache.find? (fun e => decide (e.ti = ti ∧ e.grain = g))).map (·.data)

/-- Drop the cached grains that satisfy `p`. -/
def State.uncacheIf (s : State) (p : CacheLine → Bool) : State :=
  { s with dram := { s.dram with cache := s.dram.cache.filter (fun e => !p e) } }

/-- Grains of a slab change: no copy of them stays (R413). -/
def State.uncache (s : State) (ti lo n : Nat) : State :=
  s.uncacheIf (fun e => decide (e.ti = ti ∧ lo ≤ e.grain ∧ e.grain < lo + n))

/-- A slab is switched or emptied: no copy of its grains stays (R413). -/
def State.uncacheSlab (s : State) (ti : Nat) : State := s.uncacheIf (fun e => decide (e.ti = ti))

/-- Keep a grain as it was decoded, the newest in place of the oldest where the pages are full (assumption 44). -/
def State.cacheGrain (s : State) (ti g : Nat) (b : Bytes) : State :=
  if s.cacheRoom = 0 then s
  else
    let s := s.uncache ti g 1
    { s with dram := { s.dram with cache := ({ ti := ti, grain := g, data := b } :: s.dram.cache).take s.cacheRoom } }

/-- Kept contents take more pages, or pages are lost: the cache uses what remains (R412). -/
def State.trimCache (s : State) : State := { s with dram := { s.dram with cache := s.dram.cache.take s.cacheRoom } }

end Sys2Proof.Machine
end

