-- ==== Sys2Proof/Machine/LineCoding.lean ====
section
/-! DEFINITION. The line coding of the Rhaent links (06, R140 to R154): blocks, the scrambler, control blocks, frame headers, the
blocks of a frame, and how a receiver finds lock, frames and their ends on the line. -/

namespace Sys2Proof.Machine

/-- The reference-clock group of a link (R140). -/
def refGroup (l : Nat) : Nat := l / 16

/-- A 130-bit block: its sync header and its payload (R142). -/
structure Block where
  sh : BitVec 2
  payload : BitVec 128
deriving DecidableEq, Repr

/-- What a sync header marks (R143): true a data block, false a control block; none is invalid. -/
def shKind (sh : BitVec 2) : Option Bool := if sh = 0b10 then some true else if sh = 0b01 then some false else none

/-- The payload of 16 bytes, byte k at bits [8k+7:8k] (R142). -/
def payloadOf (b : Bytes) : BitVec 128 := BitVec.ofNat 128 (leNat (b.take 16))

/-! ### The scrambler (R144) -/

/-- The 58 line bits sent last, the newest at bit 0: which of them the next bit takes. -/
def tapOf (h : BitVec 58) : Bool := bit h 38 != bit h 57
/-- Shift a line bit in. -/
def tapNext (h : BitVec 58) (s : Bool) : BitVec 58 := (h <<< 1) ||| (if s then 1#58 else 0#58)
/-- Shift line bits in. -/
def tapAll (h : BitVec 58) (l : List Bool) : BitVec 58 := l.foldl tapNext h

/-- Scramble payload bits in transmission order. -/
def scramble : BitVec 58 → List Bool → List Bool
  | _, [] => []
  | h, d :: r => let s := d != tapOf h; s :: scramble (tapNext h s) r

/-- Recover payload bits from line bits. -/
def descramble : BitVec 58 → List Bool → List Bool
  | _, [] => []
  | h, s :: r => (s != tapOf h) :: descramble (tapNext h s) r

/-- A number from bits, the least significant first. -/
def bitsNat : List Bool → Nat
  | [] => 0
  | b :: r => (if b then 1 else 0) + 2 * bitsNat r

/-- The bits of a line block in transmission order: the sync header, then the payload (R142). -/
def lineBits (b : BitVec 130) : List Bool := (List.range 130).map (fun i => bit b i)

/-- Blocks as the transmitter puts them on the line: payloads scrambled, sync headers not (R142, R144). -/
def lineOf : BitVec 58 → List Block → List (BitVec 130)
  | _, [] => []
  | h, b :: r =>
    let s := scramble h ((List.range 128).map (fun i => bit b.payload i))
    (BitVec.ofNat 130 (b.sh.toNat + 4 * bitsNat s)) :: lineOf (tapAll h s) r

/-! ### Control blocks (R145, R146) -/

/-- SOF, which stands in slot 3 alone. -/
def sofWord : Word := ctlWord 0xF5 0
/-- IDLE, which fills an unused slot. -/
def idleWord : Word := ctlWord 0x00 0

/-- A control block of at most 4 words; unused slots carry IDLE. -/
def controlBlock (ws : List Word) : Block :=
  let w := fun (i : Nat) => (ws.getD i idleWord).toNat * 2 ^ (32 * i)
  { sh := 0b01, payload := BitVec.ofNat 128 (w 0 + w 1 + w 2 + w 3) }

/-- The word in a slot of a control block. -/
def Block.slot (b : Block) (i : Nat) : Word := b.payload.extractLsb' (32 * i) 32

/-- Whether a control word's CHK matches; the receiver discards one whose CHK does not (R145). -/
def ctlValid (w : Word) : Bool := decide (w.extractLsb' 0 8 = ctlChk (ctlCode w) (ctlArg w))

/-! ### Headers (R148, R149, R151) -/

/-- Fields of a header. -/
def hdrType (h : DWord) : Nat := bits h 0 4
def hdrLen (h : DWord) : Nat := bits h 4 13
def hdrSeq (h : DWord) : BitVec 12 := h.extractLsb' 17 12
def hdrCrVc (h : DWord) : Nat := bits h 32 2
def hdrCrTotal (h : DWord) : Nat := bits h 34 12

/-- Lay out a header with its HCRC, whose check takes bits [55:0] with bit 55 first (R148; DEDUCED, assumption 23). -/
def hdrOf (type len : Nat) (seq : BitVec 12) (crVc crTotal : Nat) : DWord :=
  let body : BitVec 56 := BitVec.ofNat 56
    (type % 16 + len % 8192 * 2 ^ 4 + seq.toNat * 2 ^ 17 + crVc % 4 * 2 ^ 32 + crTotal % 4096 * 2 ^ 34)
  hcrc body ++ body

/-- Whether a header received by the device passes its check (R151): RSP or RDATA, a length of its range. -/
def hdrOk (h : DWord) : Bool :=
  decide (hcrc (h.setWidth 56) = h.extractLsb' 56 8 ∧ hdrLen h % 16 = 0 ∧ 16 ≤ hdrLen h) &&
  (decide (hdrType h = 2 ∧ hdrLen h ≤ 512) || decide (hdrType h = 3 ∧ hdrLen h ≤ 4608))

/-! ### Frames (R147, R150) -/

/-- The bytes of a frame after its SOF: header, payload, CRC-32C and pad. -/
def frameBytes (hdr : DWord) (payload : Bytes) : Bytes :=
  let b := natLe 8 hdr.toNat ++ payload
  b ++ natLe 4 (crc32c b).toNat ++ List.replicate 4 0

/-- The blocks of a frame: a control block with SOF in slot 3, then its data blocks. -/
def frameBlocks (hdr : DWord) (payload : Bytes) : List Block :=
  let b := frameBytes hdr payload
  controlBlock [idleWord, idleWord, idleWord, sofWord] ::
    (List.range (b.length / 16)).map (fun i => { sh := 0b10, payload := payloadOf (b.drop (16 * i)) })

/-! ### Finding frames (R152 to R154) -/

/-- How many bits of a word are 1. -/
def onesOf (w : Word) : Nat := (List.range 32).countP (fun i => bit w i)
/-- What the receiver takes as an SOF: 32 bits that differ from the word in at most 2 (R152). -/
def isSof (w : Word) : Bool := decide (onesOf (w ^^^ sofWord) ≤ 2)

/-- The offset about slot 3 at which an SOF is found, in the 38 descrambled bits from 3 before slot 3 to 3 after it: the first in
the order received (R152). -/
def sofOffset (b : BitVec 38) : Option Int :=
  ((List.range 7).find? (fun i => isSof (b.extractLsb' i 32))).map (fun i => (i : Int) - 3)

/-- What a receiver finds in a stretch of line. -/
inductive RxOut where
  | nothing
  | badHeader
  | frame (hdr : DWord) (payload : Bytes) (crcOk : Bool)
deriving DecidableEq, Repr

/-- What the bytes gathered after an SOF amount to so far: none while more data blocks are due (R147, R150, R151). -/
def frameSoFar (b : Bytes) : Option RxOut :=
  if b.length < 16 then none
  else
    let hdr : DWord := BitVec.ofNat 64 (leNat (b.take 8))
    if hdrOk hdr = false then some .badHeader
    else if b.length < hdrLen hdr + 16 then none
    else
      let p := slice b 8 (hdrLen hdr)
      some (.frame hdr p (decide (leNat (slice b (8 + hdrLen hdr) 4) = (crc32c (b.take (8 + hdrLen hdr))).toNat)))

/-- Follow the line block by block from an alignment: a block with an invalid sync header is discarded (R143); a control block with
an SOF at an offset about slot 3 moves the alignment by it and begins a frame, giving up one in progress (R147, R152); data blocks
outside a frame are discarded (R154). `h` is the descrambler, `got` the bytes of the frame in progress. -/
def rxBlocks : Nat → BitVec 58 → Option Bytes → List Bool → RxOut
  | 0, _, _, _ => .nothing
  | n + 1, h, got, line =>
    let pay := (line.drop 2).take 128
    if pay.length < 128 then .nothing
    else match shKind (BitVec.ofNat 2 (bitsNat (line.take 2))) with
      | none => rxBlocks n (tapAll h pay) got (line.drop 130)
      | some true => match got with
        | none => rxBlocks n (tapAll h pay) none (line.drop 130)
        | some b =>
          let b := b ++ natLe 16 (bitsNat (descramble h pay))
          match frameSoFar b with
          | some r => r
          | none => rxBlocks n (tapAll h pay) (some b) (line.drop 130)
      | some false =>
        let about := (descramble h ((line.drop 2).take 131)).drop 93
        match sofOffset (BitVec.ofNat 38 (bitsNat about)) with
        | some o =>
          let k := (130 + o).toNat
          rxBlocks n (tapAll h ((line.drop 2).take (k - 2))) (some []) (line.drop k)
        | none => rxBlocks n (tapAll h pay) got (line.drop 130)

/-- What the receiver makes of a stretch of line from the control block of an SOF on. Its descrambler is right from payload bit 58
of that block on, whatever it held before (R144). -/
def rxLine (line : List (BitVec 130)) : RxOut := rxBlocks (line.length + 1) 0 none (line.flatMap lineBits)

/-! ### Block lock (R153) -/

/-- Whether the sync headers of 12 consecutive blocks are valid, the last of them at line bit `p`. -/
def headersOk (line : List Bool) (p : Nat) : Bool :=
  (List.range 12).all (fun i => (shKind (BitVec.ofNat 2 (bitsNat ((line.drop (p - 130 * i)).take 2)))).isSome)

/-- Where a hunting receiver locks: of all 130 alignments, the first to have shown 12 consecutive valid sync headers, by the line bit
of the twelfth (R153). -/
def lockAt (line : List (BitVec 130)) : Option Nat :=
  let l := line.flatMap lineBits
  ((List.range (l.length - 1431)).map (fun i => 1430 + i)).find? (headersOk l)

/-- Loss of lock: 4 invalid sync headers among 16 consecutive blocks (R153). -/
def lockLost (shs : List (BitVec 2)) : Bool := decide (4 ≤ (shs.take 16).countP (fun h => (shKind h).isNone))

end Sys2Proof.Machine
end

