-- ==== Sys2Proof/Machine/Codeword.lean ====
section
/-! DEFINITION. The 4,608-byte codeword (07): the randomiser of R180, the tag of R182, the code of R181 with its encoder and
its check, and the pattern of the pilot blocks (R189). -/

namespace Sys2Proof.Machine

/-! ### The randomiser (R180) -/

/-- One step of the x^23 + x^18 + 1 generator: its output, and the state with it shifted in (R180; the form is that of R144,
DEDUCED, assumption 25). -/
def genStep (g : BitVec 23) : Bool × BitVec 23 :=
  let o := bit g 22 != bit g 17
  (o, (g <<< 1) ||| (if o then 1#23 else 0#23))

/-- A byte of generator output, bit 0 first. -/
def genByte (g : BitVec 23) : Byte × BitVec 23 :=
  (List.range 8).foldl (fun (a : Byte × BitVec 23) i => let (o, g) := genStep a.2; (setBit a.1 i o, g)) (0, g)

/-- `n` bytes of generator output. -/
def genBytes : Nat → BitVec 23 → Bytes
  | 0, _ => []
  | n + 1, g => let (x, g) := genByte g; x :: genBytes n g

/-- XOR bytes with the generator's output. -/
def randomise : Bytes → BitVec 23 → Bytes
  | [], _ => []
  | b :: r, g => let (x, g) := genByte g; (b ^^^ x) :: randomise r g

/-- The seed of codeword `c` of a page (R180). -/
def cwSeed (die block plane page c : Nat) : BitVec 23 :=
  let a := BitVec.ofNat 23 (die * 524288 + block * 128 + plane * 32 + page % 32) ^^^ 0x555555#23
  let g := a + BitVec.ofNat 23 (c * 0x10001)
  if g = 0 then 1 else g

/-- The XOR of byte strings of `n` bytes. -/
def xorAll (n : Nat) (l : List Bytes) : Bytes :=
  l.foldl (fun a b => (List.range n).map (fun i => a.getD i 0 ^^^ b.getD i 0)) (List.replicate n 0)

/-! ### The tag (R182) -/

/-- The fields of a codeword tag (R182); SRCBAND, SRCREGION and EPOCH stand together, with RELOC. -/
structure Tag where
  wseq : Nat := 0
  slab : Nat := 0
  kind : Nat := 0
  tail : Bool := false
  rescue : Bool := false
  reloc : Option (Nat × Nat × Nat) := none -- source region, source band, GC epoch
  last : Bool := false
  poison : Bool := false
  grain : Nat := 0
  desc : BitVec 16 := 0
  cgid : Nat := 0
deriving DecidableEq, Repr

/-- Bits [239:0] of a tag (R182). -/
def Tag.body (t : Tag) : Nat :=
  let b := fun (x : Bool) (n : Nat) => if x then 2 ^ n else 0
  let (p, k, e) := t.reloc.getD (0, 0, 0)
  t.wseq % 2 ^ 64 + t.slab % 2 ^ 21 * 2 ^ 64 + t.kind % 8 * 2 ^ 85 + b t.tail 88 + b t.rescue 89 + b t.reloc.isSome 90 +
    b t.last 91 + b t.poison 92 + t.grain % 2 ^ 20 * 2 ^ 96 + t.desc.toNat * 2 ^ 116 + t.cgid % 2 ^ 32 * 2 ^ 132 +
    k % 2 ^ 19 * 2 ^ 164 + p % 8 * 2 ^ 183 + e % 2 ^ 32 * 2 ^ 186

/-- The 32 bytes of a tag, with its CRC-16 over bytes 0 to 29 (R182). -/
def Tag.bytes (t : Tag) : Bytes :=
  let b := natLe 30 t.body
  b ++ natLe 2 (crc16 b).toNat

/-- Whether a tag's CRC is right. -/
def tagOk (t : BitVec 256) : Bool := decide (crc16 (natLe 30 t.toNat) = t.extractLsb' 240 16)

/-- The fields of a tag as read. -/
def Tag.ofBits (t : BitVec 256) : Tag :=
  { wseq := bits t 0 64, slab := bits t 64 21, kind := bits t 85 3, tail := bit t 88, rescue := bit t 89
    reloc := if bit t 90 then some (bits t 183 3, bits t 164 19, bits t 186 32) else none
    last := bit t 91, poison := bit t 92, grain := bits t 96 20, desc := t.extractLsb' 116 16, cgid := bits t 132 32 }

/-- POISON and the grain descriptors of a tag (R182). -/
def tagPoison (t : BitVec 256) : Bool := bit t 92
def tagDescs (t : BitVec 256) : BitVec 16 := t.extractLsb' 116 16

/-- The descriptor of grain `i` in a tag's DESC field. -/
def tagDesc (d : BitVec 16) (i : Nat) : BitVec 4 := d.extractLsb' (4 * i) 4

/-! ### The code (R181) -/

/-- Block `j` of 128 bits of a codeword (R179: bit n is bit n mod 8 of byte ⌊n ÷ 8⌋). -/
def cwBlock (b : Bytes) (j : Nat) : BitVec 128 := BitVec.ofNat 128 (leNat (slice b (16 * j) 16))

/-- What information block column `j` adds to block row `r`: a circulant with shift s joins row i to column (i + s) mod 128, so
its product is the block rotated right by s (R181). -/
def ldpcTerm (r j : Nat) (x : BitVec 128) : BitVec 128 :=
  (List.range 4).foldl (fun a m => if (j + 7 * m) % 30 = r then a ^^^ x.rotateRight ((j * (2 * m + 1) + 11 * m) % 128) else a) 0

/-- The sum of the information columns in block row `r`. -/
def ldpcSum (info : Bytes) (r : Nat) : BitVec 128 :=
  (List.range 258).foldl (fun a j => a ^^^ ldpcTerm r j (cwBlock info j)) 0

/-- The 30 parity blocks of 4,128 information bytes, from block 0 by back-substitution (R181). -/
def ldpcParity (info : Bytes) : Bytes :=
  ((List.range 30).foldl (fun (a : Bytes × BitVec 128) r =>
    let p := ldpcSum info r ^^^ a.2
    (a.1 ++ natLe 16 p.toNat, p)) ([], 0#128)).1

/-- Whether every check of R181 holds for 4,608 bytes. -/
def ldpcOk (cw : Bytes) : Bool :=
  (List.range 30).all (fun r =>
    decide (ldpcSum cw r ^^^ cwBlock cw (258 + r) ^^^ (if r = 0 then 0 else cwBlock cw (257 + r)) = 0))

/-- The 4,608 bytes of a codeword: data and tag XORed with the generator, then their parity (R179 to R181). -/
def cwEncode (seed : BitVec 23) (data tag : Bytes) : Bytes :=
  let info := randomise (data ++ tag) seed
  info ++ ldpcParity info

/-- The data and the tag of a corrected codeword (R179, R180). -/
def cwOpen (seed : BitVec 23) (cw : Bytes) : Bytes × BitVec 256 :=
  let b := randomise (cw.take 4128) seed
  (b.take 4096, BitVec.ofNat 256 (leNat (b.drop 4096)))

/-! ### The pilot pattern (R189) -/

/-- The generator moved on by `n` bytes. -/
def genSkip : Nat → BitVec 23 → BitVec 23
  | 0, g => g
  | n + 1, g => genSkip n (genByte g).2

/-- The four codeword frames of a page of a pilot block: bits 147,456 · page on of the generator seeded with
die · 16 + plane + 1 (R189), without the step of R180. -/
def pilotFrames (die plane page : Nat) : List Bytes :=
  let b := genBytes 18432 (genSkip (18432 * page) (BitVec.ofNat 23 (die * 16 + plane + 1)))
  (List.range 4).map (fun c => slice b (4608 * c) 4608)

end Sys2Proof.Machine
end

