-- ==== Sys2Proof/Machine/Places.lean ====
section
/-! DEFINITION. Where a codeword lies (04, R94, R95, R107, R115), and with what read levels it is sensed (07, R185, R191). -/

namespace Sys2Proof.Machine

/-! ### Where grains lie (R94, R95, R115) -/

/-- DIES and BLOCKS of a region (R178); (0, 0) before any stack enumerated. -/
def State.geomOf (s : State) (p : Nat) : Nat × Nat := mget (0, 0) s.st.geom p
/-- Bands of a region: 8 · D · BLOCKS (R94). -/
def State.bandsOf (s : State) (p : Nat) : Nat := 8 * (s.geomOf p).1 * (s.geomOf p).2

/-- The dieblock that stands for band `b`'s dieblock on tile `t` (R115): a band index. -/
def State.dieblock (s : State) (t b : Nat) : Nat :=
  match s.st.remaps.find? (fun e => match e.2 with | some r => decide (r.tile = t ∧ r.retired = b) | none => false) with
  | some (_, some r) => r.replacing
  | _ => b

/-- A codeword's place: link, die, plane, block, page, codeword of the page. -/
structure Loc where
  link : Nat
  die : Nat
  plane : Nat
  block : Nat
  page : Nat
  cw : Nat
  slc : Bool := false
deriving DecidableEq, Repr

/-- The seed of a codeword's place (R180). -/
def Loc.seed (c : Loc) : BitVec 23 := cwSeed c.die c.block c.plane c.page c.cw

/-- The frames of a four-plane program at a place: the data and tag of its 16 codewords, encoded each for its own place (R175,
R179 to R181). -/
def Loc.frames (c : Loc) (cws : List (Bytes × Bytes)) : List Bytes :=
  (cws.zip (List.range 16)).map (fun e => cwEncode (cwSeed c.die c.block (e.2 / 4) c.page (e.2 % 4)) e.1.1 e.1.2)

/-- The frames of a program made for place `a` as they are for place `b`: the same data and tags, encoded for the new place (R180,
R181). The first frame is that of codeword 0 of the first selected plane. -/
def Loc.again (a b : Loc) (fs : List Bytes) : List Bytes :=
  (fs.zip (List.range fs.length)).map (fun e =>
    let x := cwOpen (cwSeed a.die a.block (a.plane + e.2 / 4) a.page (e.2 % 4)) e.1
    cwEncode (cwSeed b.die b.block (b.plane + e.2 / 4) b.page (e.2 % 4)) x.1 (natLe 32 x.2.toNat))

/-- Tile offset, plane, codeword and index of a grain of a band (R95). -/
def grainTile (g : Nat) : Nat := g % 512 / 64
def grainPlane (g : Nat) : Nat := g % 64 / 16
def grainCw (g : Nat) : Nat := g % 16 / 4
def grainIdx (g : Nat) : Nat := g % 4
def grainRow (g : Nat) : Nat := g / 512

/-- The place of a grain of a band on the band's own dieblocks, whatever stands for them (R94, R95). -/
def State.homeLoc (s : State) (p b g : Nat) : Loc :=
  let d := (s.geomOf p).1
  { link := 8 * (8 * p + grainTile g) + b % 8, die := b / 8 % d, plane := grainPlane g, block := b / (8 * d), page := grainRow g, cw := grainCw g }

/-- The codeword that holds grain `g` of band `b` of region `p`, by R94 and R95. -/
def State.locQlc (s : State) (p b g : Nat) : Loc :=
  let t := 8 * p + grainTile g
  let k := s.dieblock t b
  let d := (s.geomOf p).1
  { link := 8 * t + k % 8, die := k / 8 % d, plane := grainPlane g, block := k / (8 * d), page := grainRow g, cw := grainCw g }

/-- The same, following a row that is resident in the SLC buffer (R107). -/
def State.loc (s : State) (p b g : Nat) : Loc :=
  let res : Option (Nat × Nat × Nat) := match mget none s.st.slcs (bandKey p b) with
    | some r => match r.pages.find? (fun (e : Nat × Nat × Nat) => e.1 = 8 * grainRow g + grainTile g) with
      | some e => some e
      | none => r.rows.find? (fun (e : Nat × Nat × Nat) => e.1 = grainRow g)
    | none => none
  match res with
  | some (_, sb, sr) => { s.locQlc p sb (sr * 512 + g % 512) with slc := true }
  | none => s.locQlc p b g

/-- A link offset of a region whose 8 links are all up and not degraded (R98 step 4). -/
def State.offsetOk (s : State) (p l : Nat) : Bool :=
  (List.range 8).all (fun t =>
    let x := s.link (64 * p + 8 * t + l)
    (decide (x.st = .active ∨ x.st = .standby ∨ x.st = .sleeping ∨ x.st = .recovery)) && !x.degraded && x.retraining.isNone)

/-- Whether a read of a place can be issued at all: not on a DOWN, ABSENT or DISABLED link or a failed die. -/
def State.reachable (s : State) (c : Loc) : Bool :=
  let st := (s.link c.link).st
  !(decide (st = .down ∨ st = .absent ∨ st = .disabled)) && !(s.st.failedDies.contains (16 * c.link + c.die))

/-- The age clock (R186). -/
def State.ageNow (s : State) : Nat := s.stew.ageClock + (s.now - s.stew.ageBase) / 1000000000

/-! ### Read levels (R185 to R188) -/

/-- The band that a dieblock of a command's place stands for (R94, R115): its key. -/
def State.bandAtPlace (s : State) (l die block : Nat) : Nat :=
  let t := tileOfLink l
  let p := regionOfLink l
  let k := l % 8 + 8 * (die + (s.geomOf p).1 * block)
  match s.st.remaps.find? (fun e => match e.2 with | some r => decide (r.tile = t ∧ r.replacing = k) | none => false) with
  | some (_, some r) => bandKey p r.retired
  | _ => bandKey p k

/-- Age classes by age in seconds (R185). -/
def ageClass (age : Nat) : Nat :=
  if age < 600 then 0 else if age < 3600 then 1 else if age < 28800 then 2 else if age < 86400 then 3
  else if age < 604800 then 4 else if age < 2592000 then 5 else if age < 7776000 then 6 else 7

/-- The age class of a band. -/
def State.bandClass (s : State) (k : Nat) : Nat :=
  match (s.bandAt k).firstProg with
  | some t => ageClass (s.ageNow - t)
  | none => 0

/-- The key of a read-level entry; boundary 0 is the one boundary of SLC mode. -/
def levelKey (l die plane cls b : Nat) : Nat := (((l * 16 + die) * 4 + plane) * 8 + cls) * 16 + b

/-- A read-level entry: where none was set, the descriptor's initial offset, within the entry's range, RATIO 8, ACC 0 (R185). The one
boundary of SLC mode, for which the descriptor has none, starts at 0 (assumption 76). -/
def State.level (s : State) (l die plane cls b : Nat) : RLevel :=
  match mget none s.levels (levelKey l die plane cls b) with
  | some e => e
  | none => match (s.link l).desc with
    | some d => { offset := if b = 0 then 0 else max (-64) (min 63 (d.offsets.getD (b - 1) 0).toInt) }
    | none => {}

def State.setLevel (s : State) (l die plane cls b : Nat) (e : RLevel) : State :=
  { s with levels := mset none s.levels (levelKey l die plane cls b) (some e) }

/-- The boundaries whose LEVELMAP page type is that of a page (R177), or the one boundary of SLC mode. -/
def State.pageBoundaries (s : State) (l page : Nat) (slc : Bool) : List Nat :=
  if slc then [0]
  else match (s.link l).desc with
    | some d => (List.range 15).filterMap (fun k => if bits d.levelMap (2 * k) 2 = page % 4 then some (k + 1) else none)
    | none => []

/-- The plane of a one-codeword read. -/
def cwPlane (m : MCmd) : Nat := if bits m.planes 0 1 = 1 then 0 else if bits m.planes 1 1 = 1 then 1
  else if bits m.planes 2 1 = 1 then 2 else 3

/-- The age class a read's codeword belongs to. -/
def State.cmdClass (s : State) (l : Nat) (m : MCmd) : Nat := s.bandClass (s.bandAtPlace l m.die m.block)

/-- The offsets of a sense (R171, R191): tracked, those of the page type shifted by `shift`. The one boundary of SLC mode takes
byte 0 of OFFS (assumption 76). -/
def State.senseOffs (s : State) (l : Nat) (m : MCmd) (shift : Int) : List Int :=
  let cls := s.cmdClass l m
  let pl := cwPlane m
  let mine := s.pageBoundaries l m.page m.slc
  let at' := fun (b : Nat) => (s.level l m.die pl cls b).offset + (if mine.contains b then shift else 0)
  if m.slc then [at' 0] else (List.range 15).map (fun k => at' (k + 1))

/-- Δ of rung 1. -/
def State.rungDelta (s : State) : Int := (s.param 0x030012 3 : Nat)

/-- Whether the first shifted sense of rung 1 goes up: the direction of the class's last offset change, downward if
none (R191). -/
def State.lastUp (s : State) (l : Nat) (m : MCmd) : Bool :=
  match mget none s.levelDir (levelKey l m.die (cwPlane m) (s.cmdClass l m) (if m.slc then 0 else 1)) with
  | some b => b
  | none => false

/-- The shift of a sense on a rung. -/
def State.rungShift (s : State) (l : Nat) (m : MCmd) (rung sub : Nat) : Int :=
  if rung = 1 then
    (if s.lastUp l m = decide (sub = 0) then s.rungDelta else -s.rungDelta)
  else 0

end Sys2Proof.Machine
end

