-- ==== Sys2Proof/Machine/LinkOps.lean ====
section
/-! DEFINITION. Shared operations of the Rhaent links (06) and of media commands on them (07, R171 to R173): records, credits, the
replay buffer, command IDs, load. -/

namespace Sys2Proof.Machine

/-! ### Load (R98 step 5) -/

/-- Planes a command selects. -/
def MCmd.planeCount (m : MCmd) : Nat := ((List.range 4).filter (fun i => bit m.planes i)).length

/-- Bytes of the media operations queued or in flight on a link that have not yet crossed it. -/
def Link.bytesNow (x : Link) : Nat :=
  let one := fun (m : MCmd) => if m.op = .readPage then (if m.reads = 1 then 4608 else if m.reads = 3 then 9216 else 13824)
    else if m.op = .readPilot then 18432 else if m.op = .program then 4 * m.planeCount * 4608 else 0
  let inFlight := x.cmds.foldl (fun n e => match e.2 with
    | some m => match mget none x.climbs e.1 with
      | some c => n + (if c.responded then 4608 * c.framesLeft else one m)
      | none => if m.op = .program then n else n + one m
    | none => n) 0
  let waiting := x.waiting.foldl (fun n f => match f.body with | .wdata _ _ _ => n + 4608 | _ => n) 0
  inFlight + waiting + x.queue.foldl (fun n m => n + one m) 0

/-- The entries of a load history that still matter at `t`: those within the last 1 ms and one before. -/
def pruneLoad (t : Nat) : List (Nat × Nat) → List (Nat × Nat)
  | [] => []
  | (a, b) :: r => if a + 1000000 ≤ t then [(a, b)] else (a, b) :: pruneLoad t r

/-- Byte-nanoseconds of a load history over [lo, hi), newest entry first. -/
def loadSum (lo : Nat) : Nat → List (Nat × Nat) → Nat
  | _, [] => 0
  | hi, (a, b) :: r => (hi - Nat.max a lo) * b + (if a ≤ lo then 0 else loadSum lo a r)

/-- The time-weighted mean load of a link over the 1 ms before `t`, in byte-nanoseconds (R98). -/
def Link.loadAt (x : Link) (t : Nat) : Nat := loadSum (t - 1000000) t x.load

/-- Store a link, noting its load when it has changed. -/
def State.putLink (s : State) (l : Nat) (x : Link) : State :=
  let b := x.bytesNow
  let cur := match x.load with | [] => 0 | (_, b') :: _ => b'
  s.setLink l (if b = cur then x else { x with load := pruneLoad s.now ((s.now, b) :: x.load) })

/-! ### Records (R171 to R173) -/

/-- OP (R172). -/
def opCode : MOp → Nat
  | .readPage => 1
  | .program => 2
  | .erase => 3
  | .status => 4
  | .getFeature => 5
  | .setFeature => 6
  | .suspend => 7
  | .resume => 8
  | .readPilot => 9
  | .descriptor => 10

/-- The 32-byte command record of a command (R171). -/
def MCmd.record (m : MCmd) (cid : Nat) : Bytes :=
  natLe 16 (opCode m.op + (if m.slc then 2 ^ 8 else 0) + cid % 65536 * 2 ^ 16 + m.die % 16 * 2 ^ 32 + m.planes.toNat * 2 ^ 36 +
    m.block % 4096 * 2 ^ 40 + m.page % 4096 * 2 ^ 52 + m.cwmask.toNat * 2 ^ 64 +
    (if m.op = .readPage then m.reads % 256 else 0) * 2 ^ 80 + m.level % 256 * 2 ^ 88 + m.arg.toNat * 2 ^ 96) ++
  (List.range 15).map (fun k => BitVec.ofInt 8 (m.offs.getD k 0)) ++ [BitVec.ofNat 8 (m.sstep % 16)]

/-- Fields of a response record (R173). -/
def respCid (r : BitVec 128) : Nat := bits r 0 16
def respFrames (r : BitVec 128) : Nat := bits r 24 8
def respValue (r : BitVec 128) : Word := r.extractLsb' 32 32

/-- STATUS of a response record (R173). A value the table does not list counts as BAD_COMMAND (assumption 75). -/
def respStatus (r : BitVec 128) : MStatus :=
  match bits r 16 8 with
  | 0 => .pass
  | 1 => .programFail
  | 2 => .eraseFail
  | 3 => .badCommand
  | 4 => .notSuspended
  | 5 => .parked
  | 6 => .dieFault
  | _ => .badCommand

/-! ### Frames, credits, replay (R155 to R161) -/

/-- The payload of a frame. -/
def Frame.payload (f : Frame) : Bytes :=
  match f.body with
  | .cmd _ r => r
  | .wdata _ _ d => d

/-- The header a frame is sent with now: CMD or WDATA, and the credit total that advanced last (R148, R149, R156). -/
def Link.hdrFor (x : Link) (f : Frame) : DWord :=
  hdrOf (if f.vc = 0 then 1 else 4) f.len f.seq x.crVc (if x.crVc = 0 then x.granted.1 else if x.crVc = 1 then x.granted.2 else 0)

/-- Credits of a frame (R155). -/
def frameCredits (len : Nat) : Nat := (len + 63) / 64

/-- Credits available on a virtual channel: (total − charged) mod 4,096 (R156). -/
def Link.avail (x : Link) (vc : Nat) : Nat :=
  if vc = 0 then (x.total.1 + 4096 - x.charged.1) % 4096 else (x.total.2 + 4096 - x.charged.2) % 4096

/-- Charge a frame's credits. -/
def Link.charge (x : Link) (vc n : Nat) : Link :=
  if vc = 0 then { x with charged := ((x.charged.1 + n) % 4096, x.charged.2) }
  else { x with charged := (x.charged.1, (x.charged.2 + n) % 4096) }

/-- Send what credits and the 16-frame replay buffer allow. A frame that waits for credits on one virtual channel
holds up no frame of the other; each frame takes the next SEQ at its first transmission (R159). Answers the link, the
frames still waiting and the frames sent, oldest first. -/
def pumpFrames (t : Nat) : List Frame → Bool → Bool → Link → Link × List Frame × List Frame
  | [], _, _, x => (x, [], [])
  | f :: r, b0, b2, x =>
    let blocked := if f.vc = 0 then b0 else b2
    if blocked = false ∧ x.held.length < 16 ∧ frameCredits f.len ≤ x.avail f.vc then
      let f' := { f with seq := x.txSeq }
      let x' := { x.charge f.vc (frameCredits f.len) with
        txSeq := x.txSeq + 1, held := x.held ++ [f'], heldAt := if x.held = [] then t else x.heldAt }
      let out := pumpFrames t r b0 b2 x'
      (out.1, out.2.1, f' :: out.2.2)
    else
      let out := pumpFrames t r (b0 || decide (f.vc = 0)) (b2 || decide (f.vc ≠ 0)) x
      (out.1, f :: out.2.1, out.2.2)

/-- Put frames on the line. -/
def State.sendFrames (s : State) (l : Nat) (fs : List Frame) : State :=
  let x := s.link l
  foldS (fun (s : State) (f : Frame) => s.emit (.frame l (x.hdrFor f) f.payload)) s fs

/-- Send waiting frames of a link that carries frames. -/
def State.pumpLink (s : State) (l : Nat) : State :=
  let x := s.link l
  if x.st = .active ∨ x.st = .enumerate then
    let r := pumpFrames s.now x.waiting false false x
    (s.putLink l { r.1 with waiting := r.2.1 }).sendFrames l r.2.2
  else s

/-! ### Media commands (R171) -/

/-- The lowest free command ID below 256. -/
def freeCidFrom (x : Link) : Nat → Nat → Option Nat
  | 0, _ => none
  | n + 1, k => if mget none x.cmds k = none then some k else freeCidFrom x n (k + 1)
def Link.freeCid (x : Link) : Option Nat := freeCidFrom x 256 0

/-- The frames of a command: one CMD frame, and 4 WDATA frames per selected plane for a PROGRAM (R172). -/
def cmdFrames (cid : Nat) (m : MCmd) : List Frame :=
  let head : Frame := { vc := 0, len := 32, body := .cmd cid (m.record cid) }
  if m.op = .program then
    head :: (List.range (4 * m.planeCount)).map (fun k => { vc := 2, len := 4608, body := .wdata cid k (m.data.getD k []) })
  else [head]

/-- Give a command an ID and put its frames in line. -/
def Link.issue (x : Link) (now cid : Nat) (m : MCmd) : Link :=
  { x with
    cmds := mset none x.cmds cid (some { m with sentAt := now })
    climbs := if m.op = .readPage then mset none x.climbs cid (some (match mget none x.climbs cid with
      | some c => { c with framesLeft := 0, responded := false, frames := [], soft := false } | none => {})) else x.climbs
    waiting := x.waiting ++ cmdFrames cid m }

/-- What the steps of R131 themselves send: suspensions, rescue programs, the final journal pages, and the first-row reads of
the bands taken for them. -/
def MCmd.ofHold (m : MCmd) : Bool :=
  decide (m.op = .suspend) || (match m.why with | .rescue => true | .journal _ _ => true | .firstRow _ => true | _ => false)

/-- Send a media command on a link, or let it wait for the link or for a free ID. During the steps of R131 only what belongs to
them is sent. -/
def State.sendMedia (s : State) (l : Nat) (m : MCmd) : State :=
  if s.jr.holdStep ≠ 0 ∧ m.ofHold = false then s
  else
  let s := if s.jr.holdStep ≠ 0 ∨ (m.ofHold ∧ s.pw.entering.isSome) then s else s.busy.wakeUp
  let x := s.link l
  if x.st = .active then
    match x.freeCid with
    | some cid => (s.putLink l (x.issue s.now cid m)).pumpLink l
    | none => s.putLink l { x with queue := x.queue ++ [m] }
  else s.putLink l { x with queue := x.queue ++ [m] }

/-- A command as it is issued now: a READ_PAGE senses at the offsets of this instant (R188). -/
def State.senseNow (s : State) (l : Nat) (m : MCmd) : MCmd := if m.op = .readPage then { m with offs := s.senseOffs l m 0 } else m

/-- Issue waiting commands while IDs are free. -/
def State.fillLink (s : State) (l : Nat) : Nat → State
  | 0 => s
  | n + 1 =>
    let x := s.link l
    match x.st, x.queue, x.freeCid with
    | .active, m :: r, some cid => ((s.putLink l ({ x with queue := r }.issue s.now cid (s.senseNow l m))).pumpLink l).fillLink l n
    | _, _, _ => s

/-- Frames have left a link's ingress ring: those held back move in, and their VC1 credits are returned (R155, R157). -/
def State.ingressFree (s : State) (l n : Nat) : State :=
  if n = 0 then s
  else
    let x := s.link l
    let back := x.owed.take n
    let g := (x.granted.1, (x.granted.2 + back.foldl (· + ·) 0) % 4096)
    let s := s.putLink l { x with owed := x.owed.drop n, ring := x.ring - (n - back.length), granted := g, crVc := if back = [] then x.crVc else 1 }
    if back = [] then s else s.sendCtl l cCRD (g.2 + 4096)

/-- Take a codeword back from the soft decoders of its region (R193). -/
def State.softDrop (s : State) (l cid : Nat) : State :=
  let mine := fun (j : SoftJob) => decide (j.link = l ∧ j.cid = cid)
  foldS (fun (s : State) (i : Nat) =>
    let t := 8 * regionOfLink l + i
    let x := s.tile t
    if x.lanes.softQ.any mine ∨ (match x.lanes.softRun with | some j => mine j | none => false) = true then
      s.setTile t { x with lanes := { x.lanes with
        softQ := x.lanes.softQ.filter (fun j => !mine j)
        softRun := match x.lanes.softRun with | some j => if mine j then none else some j | none => none } }
    else s) s (List.range 8)

/-- What a sense has brought is given up: its frames leave the ring, and its codeword the soft decoders. -/
def State.senseOver (s : State) (l cid : Nat) : State :=
  match mget none (s.link l).climbs cid with
  | some c => (if c.soft then s.softDrop l cid else s).ingressFree l c.frames.length
  | none => s

/-- A command has ended: its ID is free again, and waiting commands go out. RDATA frames of it still to come are dropped as
they arrive. -/
def State.endCmd (s : State) (l cid : Nat) : State :=
  let s := s.busy.senseOver l cid
  let x := s.link l
  ((s.putLink l { x with
    cmds := mset none x.cmds cid none
    climbs := mset none x.climbs cid none
    rdFor := x.rdFor.map (fun e => if e.1 = cid then (1024, e.2) else e) }).fillLink l 256).pumpLink l

/-- How many commands queued or outstanding on any link satisfy `p`. -/
def State.countCmds (s : State) (p : MCmd → Bool) : Nat :=
  s.links.foldl (fun n e =>
    n + (e.2.queue.filter p).length +
      (e.2.cmds.filter (fun c => match c.2 with | some m => p m | none => false)).length) 0

end Sys2Proof.Machine
end

