-- ==== Sys2Proof/Machine/StoreOps.lean ====
section
/-! DEFINITION. Shared operations of the store (04): namespaces, placement and allocation, the spare pool and
retirement, the log index, protected staging, rows and their parity pages, and requests for relocation. -/

namespace Sys2Proof.Machine

/-! ### Namespaces (R91) -/

/-- Slabs of an instance's namespace. -/
def Inst.nslabs (x : Inst) : Nat := x.extents.foldl (fun n e => n + e.2) 0

/-- The table index of slab `n` of a list of extents. -/
def extIndex : List (Nat × Nat) → Nat → Option Nat
  | [], _ => none
  | (a, len) :: r, n => if n < len then some (a + n) else extIndex r (n - len)
def State.tableIndex (s : State) (inst n : Nat) : Option Nat := extIndex (s.inst inst).extents n

/-- The slab number of table index `ti` in a list of extents. -/
def extSlab : List (Nat × Nat) → Nat → Nat → Option Nat
  | [], _, _ => none
  | (a, len) :: r, base, ti => if a ≤ ti ∧ ti < a + len then some (base + ti - a) else extSlab r (base + len) ti
def State.slabNumber (s : State) (inst ti : Nat) : Option Nat := extSlab (s.inst inst).extents 0 ti

/-- The extents of every namespace. -/
def State.spaces (s : State) : List (Nat × Nat) := (s.hq.insts.map (fun e => e.2.extents)).flatten

/-- RETIRED slabs that no namespace holds any more: they stay RETIRED until FORMAT or SANITIZE (R93). -/
def State.orphans (s : State) : List Nat :=
  (s.st.slabs.filter (fun e => decide (e.2.st = .retired) &&
    !(s.spaces.any (fun x => decide (x.1 ≤ e.1 ∧ e.1 < x.1 + x.2))))).map (·.1)

/-- The table indices that no namespace may take: those of every namespace, and the RETIRED ones left behind. -/
def State.allExtents (s : State) : List (Nat × Nat) := s.spaces ++ s.orphans.map (fun ti => (ti, 1))

/-- The owner of a table index: the instance whose namespace holds it (R91), else what its entry says. -/
def State.slabOwner (s : State) (ti : Nat) : Nat :=
  match s.hq.insts.find? (fun e => e.2.extents.any (fun x => decide (x.1 ≤ ti ∧ ti < x.1 + x.2))) with
  | some e => e.1
  | none => (s.slab ti).inst

/-- The codes of the slab states (R91, R124). -/
def slabCode : SlabSt → Nat
  | .empty => 0 | .opened => 1 | .full => 2 | .retired => 3

/-- The 64 bits of a slab table entry (R90 to R92). -/
def State.slabWord (s : State) (ti : Nat) : DWord :=
  let x := s.slab ti
  let b := fun (v : Bool) (n : Nat) => if v then 2 ^ n else 0
  BitVec.ofNat 64 (slabCode x.st + b x.log 2 + b x.tail 3 + b x.moving 4 + b x.slc 5 + x.region * 2 ^ 8 + x.band * 2 ^ 11 +
    x.wp * 2 ^ 30 + s.slabOwner ti * 2 ^ 51)

/-- The first index at or after `k` that no extent holds, and how far the free run goes, at most `want`. -/
def freeAt (ex : List (Nat × Nat)) (lim k : Nat) : Nat → Option (Nat × Nat)
  | 0 => none
  | fuel + 1 =>
    if lim ≤ k then none
    else match ex.find? (fun e => decide (e.1 ≤ k ∧ k < e.1 + e.2)) with
      | some (a, n) => freeAt ex lim (a + n) fuel
      | none =>
        let stop := ex.foldl (fun m e => if k ≤ e.1 ∧ e.1 < m then e.1 else m) lim
        some (k, stop - k)

/-- The lowest free extents that cover up to `want` slabs, at most `n` extents (R91). -/
def lowestFree (ex : List (Nat × Nat)) (lim : Nat) : Nat → Nat → Nat → List (Nat × Nat)
  | 0, _, _ => []
  | n + 1, k, want =>
    if want = 0 then []
    else match freeAt ex lim k (ex.length + 1) with
      | none => []
      | some (a, len) => (a, Nat.min len want) :: lowestFree ex lim n (a + Nat.min len want) (want - Nat.min len want)

/-- Slabs a list of extents covers. -/
def covered (l : List (Nat × Nat)) : Nat := l.foldl (fun n e => n + e.2) 0

/-- Slabs of all namespaces that are not RETIRED (R83). -/
def State.slabSum (s : State) : Nat :=
  covered s.allExtents - (s.st.slabs.filter (fun e => decide (e.2.st = .retired))).length

/-- Non-retired EMPTY slabs of every namespace (R116); RETIRED ones that no namespace holds cancel. -/
def State.emptySlabs (s : State) : Nat :=
  covered s.allExtents - (s.st.slabs.filter (fun e => decide (e.2.st ≠ .empty))).length

/-- EMPTY slabs of one instance (R117). -/
def State.emptyOf (s : State) (i : Nat) : Nat :=
  (s.inst i).nslabs - (s.st.slabs.filter (fun e => decide (e.2.st ≠ .empty) &&
    (s.slabNumber i e.1).isSome)).length

/-! ### Bands and placement (R96 to R100) -/

def bandRegion (k : Nat) : Nat := k / 1048576
def bandIndex (k : Nat) : Nat := k % 1048576

/-- The listed bands of a region: those that are not in the state an unused band has. -/
def State.listedBands (s : State) (p : Nat) : SMap Band := s.st.bands.filter (fun e => decide (bandRegion e.1 = p))

/-- The codes of the band states (R95, R124). -/
def bandCode : BState → Nat
  | .free => 0 | .opened => 1 | .closed => 2 | .verified => 3 | .stale => 4 | .erasing => 5 | .retired => 6

/-- The bands of a region below its parity ring, which is the highest 160 (R102, assumption 16). -/
def State.placeable (s : State) (p : Nat) : Nat := s.bandsOf p - 160
/-- The bands of a region that may be placed: those below its spare bands (R115, assumption 21). -/
def State.allocable (s : State) (p : Nat) : Nat := s.placeable p - mget 0 s.st.spares p

/-- Whether a band has been taken for a role and waits for its first-row reads: it is FREE until they have passed (R96, R137). -/
def Band.taken (x : Band) : Bool := decide (x.st = .free ∧ x.checking ≠ [])

/-- ROLE of a band: the bands between those that may be placed and the ring are spare bands until one becomes a donor
(R95, R115, assumption 21). -/
def State.roleOf (s : State) (p b : Nat) : Nat :=
  let x := s.band p b
  if (x.role = 0 ∨ (x.st = .free ∧ x.taken = false)) ∧ s.allocable p ≤ b ∧ b < s.placeable p then 5 else x.role

/-- The 32 bits of a band table entry (R95). -/
def State.bandWord (s : State) (p b : Nat) : Word :=
  let x := s.band p b
  BitVec.ofNat 32 (bandCode x.st + (if x.remapped then 8 else 0) + s.roleOf p b * 16 + Nat.min x.erases 65535 * 256)

/-- Bands of a region in state FREE and not taken, its spare bands among them. -/
def State.freeBands (s : State) (p : Nat) : Nat :=
  s.placeable p - ((s.listedBands p).filter (fun e =>
    decide (bandIndex e.1 < s.placeable p) && (decide (e.2.st ≠ .free) || e.2.taken))).length

/-- OPEN bands of a region, with those taken to be OPEN: the bands of slabs and log slabs (R98 step 3, assumption 71). -/
def State.openBands (s : State) (p : Nat) : Nat :=
  ((s.listedBands p).filter (fun e => decide (e.2.role ≤ 1) && (decide (e.2.st = .opened) || e.2.taken))).length

/-- Parity pages the region's ring holds (R102). -/
def State.parityHeld (s : State) (p : Nat) : Nat :=
  s.st.parity.foldl (fun n e => if bandRegion e.1 = p then n + e.2 else n) 0

/-- Whether any tile of a region is quiesced (R15). -/
def State.anyQuiesced (s : State) (p : Nat) : Bool := (List.range 8).any (fun t => (s.tile (8 * p + t)).quiesced)

/-- `ID_READY.REGION` of a region. -/
def State.regionReady (s : State) (p : Nat) : Bool := bit s.hq.idReady (8 + p)

/-- Band indices among which the best FREE band lies: the first ones, of which at least one per link offset is
unused, and every listed one. -/
def State.bandChoices (s : State) (p : Nat) : List Nat :=
  let l := s.listedBands p
  let n := Nat.min (s.allocable p) (8 * (l.length + 1))
  ((List.range n) ++ (l.map (fun e => bandIndex e.1)).filter (fun b => decide (n ≤ b))).filter
    (fun b => decide ((s.band p b).st = .free ∧ (s.band p b).checking = [] ∧ b < s.allocable p))

/-- The summed load of a link offset's 8 links (R99). -/
def State.offsetLoad (s : State) (p l : Nat) : Nat :=
  (List.range 8).foldl (fun n t => n + (s.link (64 * p + 8 * t + l)).loadAt s.now) 0
/-- The load of a region (R98 step 5). -/
def State.regionLoad (s : State) (p : Nat) : Nat := (List.range 8).foldl (fun n l => n + s.offsetLoad p l) 0

/-- The FREE bands whose link offset may be used. -/
def State.usableBands (s : State) (p : Nat) : List Nat :=
  (s.bandChoices p).filter (fun b => s.offsetOk p (b % 8))

/-- Steps 1 and 2 of R98. -/
def State.passes12 (s : State) (p : Nat) : Bool := s.regionReady p && !s.anyQuiesced p
/-- Steps 1 to 4 of R98. -/
def State.passes14 (s : State) (p : Nat) : Bool :=
  s.passes12 p && decide (s.openBands p < s.openLimit) &&
  decide (10 * s.parityHeld p < 9 * Config.parityPages) && !(s.usableBands p).isEmpty

/-- The elements whose measure is within the allowance of the lowest. -/
def nearLowest (f : Nat → Nat) (slack : Nat → Nat) (l : List Nat) : List Nat :=
  match l.map f with
  | [] => []
  | a :: r => let m := r.foldl Nat.min a; l.filter (fun p => decide (f p ≤ slack m))

/-- The region of a new band, by R98. -/
def State.placeRegion (s : State) : Option Nat :=
  let a := (List.range 8).filter s.passes14
  let b := nearLowest s.regionLoad (fun m => m + m / 10) a
  let c := nearLowest (fun p => (s.region p).tempDeci) (fun m => m + 30) b
  let most := c.foldl (fun m p => Nat.max m (s.freeBands p)) 0
  (c.filter (fun p => decide (s.freeBands p = most))).head?

/-- The best of a list by a measure; the first wins a tie. -/
def bestBy {α : Type} (lt : α → α → Bool) : List α → Option α
  | [] => none
  | a :: r => match bestBy lt r with
    | none => some a
    | some b => if lt b a then some b else some a

/-- The FREE band of a region by R99: lowest offset load, lowest ERASES, lowest index. -/
def State.placeBand (s : State) (p : Nat) : Option Nat :=
  let key := fun b => (s.offsetLoad p (b % 8), (s.band p b).erases, b)
  bestBy (fun x y =>
    let a := key x
    let c := key y
    decide (a.1 < c.1 ∨ (a.1 = c.1 ∧ (a.2.1 < c.2.1 ∨ (a.2.1 = c.2.1 ∧ a.2.2 < c.2.2))))) (s.usableBands p)

/-- The FREE band with the highest ERASES, in a region that passes steps 1 to 4 of R98 (R114); of equal ones the one listed
first (assumption 71). -/
def State.placeWorn (s : State) (p : Nat) : Option Nat :=
  if s.passes14 p then bestBy (fun x y => decide ((s.band p y).erases < (s.band p x).erases)) (s.usableBands p) else none

/-- The journal entry of a band's state. -/
def State.journalBand (s : State) (k : Nat) : State :=
  let x := s.bandAt k
  s.journal (bandRegion k) false (.bandState (bandIndex k) x.st x.role x.erases)

/-- The journal entry of a slab's state. -/
def State.journalSlab (s : State) (ti : Nat) : State :=
  let x := s.slab ti
  s.journal x.region false (.slabState ti x.st x.region x.band x.inst)

/-- Place a band by R98 and R99: the region and the band. -/
def State.place? (s : State) : Option (Nat × Nat) :=
  match s.placeRegion with
  | none => none
  | some p => match s.placeBand p with
    | none => none
    | some b => some (p, b)

/-! ### Spare pool, retirement, exhaustion (R116 to R119) -/

/-- FREE bands of the device and spare bands (R116). -/
def State.freeAll (s : State) : Nat :=
  (List.range 8).foldl (fun n p => n + s.freeBands p) 0 +
    (s.st.bands.filter (fun e => decide (e.2.role = 5 ∧ e.2.st ≠ .free))).length

/-- The spare pool (R116), as the health report shows it: never below 0 there. -/
def State.sparePool (s : State) : Int := (s.freeAll : Int) - s.emptySlabs - Config.slcFloor

/-- The highest-numbered EMPTY slab of an instance, from slab number `n` − 1 down. -/
def State.highestEmpty (s : State) (i : Nat) : Nat → Nat → Option (Nat × Nat)
  | 0, _ => none
  | fuel + 1, n =>
    if n = 0 then none
    else match s.tableIndex i (n - 1) with
      | none => none
      | some ti => if (s.slab ti).st = .empty then some (n - 1, ti) else s.highestEmpty i fuel (n - 1)

/-- The instance with the most EMPTY slabs; the lowest number breaks a tie. -/
def State.mostEmpty (s : State) : Option Nat :=
  bestBy (fun a b => decide (s.emptyOf b < s.emptyOf a ∨ (s.emptyOf b = s.emptyOf a ∧ a < b)))
    ((s.hq.insts.map (fun e => e.1)).filter (fun i => decide (0 < s.emptyOf i)))

/-- Retire one EMPTY slab (R117). -/
def State.retireOne (s : State) : State :=
  match s.mostEmpty with
  | none => s
  | some i => match s.highestEmpty i (s.st.slabs.length + 1) (s.inst i).nslabs with
    | none => s
    | some (n, ti) =>
      let s := s.setSlab ti { s.slab ti with st := .retired, inst := i }
      let s := { s with st := { s.st with exported := s.st.exported - 1 } }
      let s := s.journalSlab ti
      let s := s.journal 0 false (.namespace_ i false true ti 1 s.st.exported)
      (s.health! 0x60 6 noRegion 0xFF noLink (BitVec.ofNat 64 i) (BitVec.ofNat 32 n)).cuSet 8

/-- While the spare pool is below the reserve, retire EMPTY slabs, one for each band of shortfall (R117); a retirement waits
for room in the journal buffer (R127). -/
def State.retireSlabs (s : State) : Nat → State
  | 0 => s
  | fuel + 1 =>
    if s.sparePool < (s.spareReserve : Int) ∧ 0 < s.emptySlabs ∧ s.journalRoom 2 then (s.retireOne).retireSlabs fuel else s
/-- Apply R117 whole. Each retirement raises the pool by one, so the shortfall bounds the count. -/
def State.applyRetirement (s : State) : State := s.retireSlabs ((s.spareReserve : Int) - s.sparePool).toNat

/-- Note since when the spare pool has been at or above the reserve, for each WRITE_CLOSED instance (R119). -/
def State.noteSpare (s : State) : State :=
  let ok := decide ((s.spareReserve : Int) ≤ s.sparePool)
  foldS (fun (s : State) (e : Nat × Inst) =>
    let x := s.inst e.1
    if x.st = .writeClosed then
      s.setInst e.1 { x with spareOkSince := if ok then (match x.spareOkSince with | some t => some t | none => some s.now) else none }
    else s) s s.hq.insts

/-- Re-apply the retirement rule and note the spare pool after a change (R117, R119). -/
def State.poolChanged (s : State) : State := (s.applyRetirement).noteSpare

/-- Take a FREE band for a role: each of its dieblocks is read on its first row before its first program, and the band stays
FREE until those reads have passed (R96, R137). The pool has one band less (R116, R117). -/
def State.takeBand (s : State) (p b role : Nat) : State :=
  let s := s.setBand p b { s.band p b with role := role, firstProg := none, closedAt := none, checking := List.range 8, torn := false }
  let s := foldS (fun (s : State) (t : Nat) =>
    let c := s.locQlc p b (64 * t)
    s.sendMedia c.link { op := .readPage, slc := decide (role = 2 ∨ role = 3 ∨ role = 4), die := c.die, planes := 15,
                         block := c.block, page := 0, cwmask := 0x1111, why := .firstRow (bandKey p b) }) s (List.range 8)
  s.poolChanged

/-- An instance becomes WRITE_CLOSED (R118). -/
def State.writeClose (s : State) (i slab : Nat) : State :=
  let x := s.inst i
  if x.st = .active then
    (((s.setInst i { x with st := .writeClosed, spareOkSince := none }).health! 0x61 6 noRegion 0xFF noLink
      (BitVec.ofNat 64 i) (BitVec.ofNat 32 slab)).cuSet 8)
  else s

/-! ### Fill and the SLC buffer (R105 to R108) -/

/-- OPEN and FULL slabs. -/
def State.usedSlabs (s : State) : Nat :=
  (s.st.slabs.filter (fun e => decide (e.2.st = .opened ∨ e.2.st = .full))).length

/-- SLC bands per region for the fill in force (R105). -/
def State.slcShare (s : State) : Nat :=
  let u := 100 * s.usedSlabs
  let e := s.st.exported
  if u < 10 * e then 2048 else if u < 25 * e then 1536 else if u < 50 * e then 1024 else if u < 65 * e then 512
  else if u < 80 * e then 256 else if u < 90 * e then 128 else if u < 95 * e then 64 else 32

/-- SLC bands a region holds. -/
def State.slcBands (s : State) (p : Nat) : Nat :=
  ((s.listedBands p).filter (fun e => decide (e.2.role = 2 ∧ (e.2.st = .opened ∨ e.2.taken = true)))).length

/-- Rows of an SLC band (256 MiB in rows of 512 KiB, R105). -/
def slcRows : Nat := 512

/-- Take a further band for the region's SLC buffer when it may grow (R105, R108), by R98 and R99 within the region; the floor
is the region's share at full fill. -/
def State.slcTake (s : State) (p : Nat) : State :=
  if s.slcBands p < s.slcShare ∧ s.passes12 p then
    match s.placeBand p with
    | none => { s with st := { s.st with slcCur := mset none s.st.slcCur p none } }
    | some b => { s.takeBand p b 2 with st := { (s.takeBand p b 2).st with slcCur := mset none (s.takeBand p b 2).st.slcCur p (some (b, 0)) } }
  else { s with st := { s.st with slcCur := mset none s.st.slcCur p none } }

/-- A place for one more row in the region's SLC buffer, taking a band when the buffer may grow (R106, R108). -/
def State.slcPlace (s : State) (p : Nat) : Option (Nat × Nat) × State :=
  match mget none s.st.slcCur p with
  | some (b, r) =>
    if r < slcRows ∧ (s.band p b).st = .opened then
      (some (b, r), { s with st := { s.st with slcCur := mset none s.st.slcCur p (some (b, r + 1)) } })
    else if r < slcRows then (none, s)
    else (none, s.slcTake p)
  | none => (none, s.slcTake p)

/-! ### The log index and where a grain lives (R109, R113) -/

/-- The newest of the extents that cover a grain. -/
def newestExt (slab g : Nat) : SMap (Option Extent) → Option (Nat × Extent)
  | [] => none
  | (k, some e) :: r =>
    match newestExt slab g r with
    | some (k', e') => if e.slab = slab ∧ e.first ≤ g ∧ g < e.first + e.count ∧ e'.age < e.age then some (k, e) else some (k', e')
    | none => if e.slab = slab ∧ e.first ≤ g ∧ g < e.first + e.count then some (k, e) else none
  | (_, none) :: r => newestExt slab g r

/-- The live extent of a grain. -/
def State.liveExt (s : State) (ti g : Nat) : Option (Nat × Extent) := newestExt ti g s.st.exts

/-- Whether an extent is live: the newest for some grain it covers. -/
def State.extLive (s : State) (e : Extent) : Bool :=
  (List.range e.count).any (fun i => match s.liveExt e.slab (e.first + i) with
    | some (_, e') => decide (e'.age = e.age)
    | none => false)

/-- Live grains of an extent. -/
def State.extLiveGrains (s : State) (e : Extent) : Nat :=
  ((List.range e.count).filter (fun i => match s.liveExt e.slab (e.first + i) with
    | some (_, e') => decide (e'.age = e.age)
    | none => false)).length

/-- Live grains of a log slab. -/
def State.logLive (s : State) (n : Nat) : Nat :=
  s.st.exts.foldl (fun a e => match e.2 with | some x => if x.logSlab = n then a + s.extLiveGrains x else a | none => a) 0

/-- The lowest free position of the log index. -/
def freeExtFrom (m : SMap (Option Extent)) : Nat → Nat → Option Nat
  | 0, _ => none
  | fuel + 1, k => if Config.logIndexSize ≤ k then none
      else if mget none m k = none then some k else freeExtFrom m fuel (k + 1)
def State.freeExt (s : State) : Option Nat := freeExtFrom s.st.exts (s.st.exts.length + 1) 0

/-- Where a grain of a slab lies now: region, band, grain of the band (R68, R109, R113). -/
def State.grainAt (s : State) (ti g : Nat) : Option (Nat × Nat × Nat) :=
  let fromBand :=
    let x := s.slab ti
    match mget none s.st.moves ti with
    | some m =>
      if m.w0 ≤ g then (m.dstRegion, m.dstBand, g)
      else match (m.mids.filter (fun e => decide (e.2.2 ≤ g))).getLast? with
        | some (p, b, _) => (p, b, g)
        | none => (m.srcRegion, m.srcBand, g)
    | none => (x.region, x.band, g)
  if (s.slab ti).log then
    match s.liveExt ti g with
    | some (_, e) => match mget none s.st.logs e.logSlab with
      | some l => some (l.region, l.band, e.logFirst + (g - e.first))
      | none => some fromBand
    | none => some fromBand
  else some fromBand

/-- The staged grain at a grain position of a band. -/
def State.stagedAt (s : State) (p b at' : Nat) : Option Staged :=
  s.staged.find? (fun e => decide (e.region = p ∧ e.band = b ∧ e.at_ = at'))

/-! ### Protected staging (R120, R121) -/

/-- Grains a stream tail takes of the share. -/
def tailGrains (b : Bytes) : Nat := (b.length + 1023) / 1024

/-- The region that holds a slab's stream tail: that of its write target (R113, R120). -/
def State.homeRegion (s : State) (ti : Nat) : Nat :=
  match mget none s.st.moves ti with
  | some m => if m.begun then m.dstRegion else m.srcRegion
  | none => (s.slab ti).region

/-- Grains staged in a region: those of arriving groups, which hold the room of their whole group, and tails included (R121,
R441, assumption 20). -/
def State.stagedIn (s : State) (p : Nat) : Nat :=
  (s.staged.filter (fun e => decide (e.region = p))).length +
    s.st.tails.foldl (fun n e => if s.homeRegion e.1 = p then n + tailGrains e.2 else n) 0 +
    s.hq.ops.foldl (fun n e => match e.2 with
      | some o => match o.share with | some (r, k) => if r = p then n + k else n | none => n
      | none => n) 0

/-- The key of a grain's descriptor. -/
def descKey (ti g : Nat) : Nat := 1048576 * ti + g
def State.desc (s : State) (ti g : Nat) : BitVec 4 := mget 0 s.st.descs (descKey ti g)
def State.setDesc (s : State) (ti g : Nat) (d : BitVec 4) : State :=
  { s with st := { s.st with descs := mset 0 s.st.descs (descKey ti g) d } }

/-- A grain ready for staging: its bytes and its descriptor (R183). -/
structure NewGrain where
  data : Bytes
  desc : BitVec 4
deriving DecidableEq, Repr

/-- Stage one commit group: `gs` are the grains of slab `ti` from `first`, to be held at band (p, b) from grain `at'`
on, in a slab (kind 0) or a log slab (kind 1). Each codeword takes the next write sequence number; the group takes the slab's
next commit group number. Each grain is kept with what its codeword's tag will say (R120, R182). -/
def State.stageGroup (s : State) (ti first p b at' kind : Nat) (gs : List NewGrain) : State :=
  let cg := (mget 0 s.st.cgid ti + 1) % 4294967296
  let n := gs.length
  let entries : List Staged := (gs.zip (List.range n)).map (fun (e : NewGrain × Nat) =>
    { slab := ti, grain := first + e.2, region := p, band := b, at_ := at' + e.2, data := e.1.data, desc := e.1.desc,
      wseq := s.st.wseq + 1 + ((at' + e.2) / 4 - at' / 4), cgid := cg, grp := first, wpAt := (s.slab ti).wp, kind := kind,
      last := decide ((at' + e.2) / 4 = (at' + n - 1) / 4) })
  let s := { s with
    staged := s.staged ++ entries
    st := { s.st with wseq := s.st.wseq + ((at' + n - 1) / 4 - at' / 4 + 1), cgid := mset 0 s.st.cgid ti cg } }
  foldS (fun (s : State) (e : Staged) => s.setDesc ti e.grain e.desc) s entries

/-- Staged grains of one row of a band. -/
def State.rowStaged (s : State) (p b r : Nat) : List Staged :=
  s.staged.filter (fun e => decide (e.region = p ∧ e.band = b ∧ e.at_ / 512 = r))

/-- A slab that is being moved to band (p, b), with its move. -/
def State.movingTo (s : State) (p b : Nat) : Option (Nat × Move) :=
  s.st.moves.findSome? (fun e => match e.2 with
    | some m => if m.dstRegion = p ∧ m.dstBand = b then some (e.1, m) else none
    | none => none)

/-- Whether a row is complete, or the last row of a band that was closed within it (its remaining grains are
unwritten, R183, assumption 19), and its program has not been issued. The row of a move's target in which the copy bound lies
waits for the grains below it (R112, R113). -/
def State.rowDue (s : State) (p b r : Nat) : Bool :=
  let l := s.rowStaged p b r
  let copying := match s.movingTo p b with | some (_, m) => decide (m.w0 / 512 = r ∧ m.w0 % 512 ≠ 0 ∧ m.copied ≤ r) | none => false
  decide (l.length = 512 ∨ (l ≠ [] ∧ (s.band p b).st = .closed ∧ copying = false)) && l.all (fun e => !e.issued)

/-! ### Rows as they are programmed (R95, R101, R179 to R183) -/

/-- The codeword at grain position `g0` of a band, made of the staged grains of its row: data and tag. It carries what is held
with its newest grain; grains that are not there are unwritten; a poisoned one makes the whole codeword poisoned, with data zero
(R182 to R184, assumption 72). -/
def stagedCw (l : List Staged) (g0 : Nat) : Bytes × Bytes :=
  let mine := l.filter (fun e => decide (e.at_ / 4 = g0 / 4))
  let at' := fun (i : Nat) => mine.find? (fun e => decide (e.at_ = g0 / 4 * 4 + i))
  let poison := mine.any (fun e => e.poison)
  let data := (List.range 4).flatMap (fun i => match at' i, poison with
    | some e, false => slice e.data 0 1024
    | _, _ => List.replicate 1024 0)
  let desc := (List.range 4).foldl (fun (d : BitVec 16) i => match at' i with
    | some e => d ||| (e.desc.setWidth 16 <<< (4 * i))
    | none => d) 0
  let new := match mine.getLast? with | some e => some e | none => l.getLast?
  let tag : Tag := match new with
    | some e => { wseq := e.wseq, slab := e.slab, kind := e.kind, reloc := e.reloc, last := mine.any (fun x => x.last), poison := poison
                  grain := e.grain + g0 / 4 * 4 - e.at_, desc := desc, cgid := e.cgid }
    | none => {}
  (data, tag.bytes)

/-- The 16 codewords of a row's page on tile offset `t`, from staging. -/
def stagedPage (l : List Staged) (r t : Nat) : List (Bytes × Bytes) :=
  (List.range 16).map (fun c => stagedCw l (512 * r + 64 * t + 4 * c))

/-- The parity page of a row: the XOR of its 8 multiplane pages, each as it is encoded for its QLC place in the band's own dieblocks,
whatever buffer or replacement holds it meanwhile (R101, R102, assumption 72). -/
def State.parityOf (s : State) (p b r : Nat) (page : Nat → List (Bytes × Bytes)) : List Bytes :=
  let pages := (List.range 8).map (fun t => (s.homeLoc p b (512 * r + 64 * t)).frames (page t))
  (List.range 16).map (fun k => xorAll 4608 (pages.map (fun f => f.getD k [])))

/-! ### The parity ring (R101, R102) -/

/-- A parity page's place in the region's ring: page n of the ring is row page n mod 512 of the dieblock on tile
⌊n ÷ 512⌋ mod 8 of ring band ⌊n ÷ 4,096⌋; the ring is the region's highest 160 bands (assumption 16). -/
def State.parityLoc (s : State) (p n : Nat) : Loc :=
  let b := s.bandsOf p - 160 + n / 4096
  { s.locQlc p b (n % 512 * 512 + 64 * (n / 512 % 8)) with slc := true }

/-- Ring band `j` of a region. -/
def State.ringBand (s : State) (p j : Nat) : Nat := s.bandsOf p - 160 + j

/-- The first page of ring band `j` not yet used since its erase whose die can be reached. -/
def State.ringFirst (s : State) (p j : Nat) : Option Nat :=
  let u := mget 0 s.st.ringUsed (bandKey p (s.ringBand p j))
  ((u :: (List.range 8).map (fun i => 512 * (u / 512 + 1 + i))).filter (fun n => decide (n < 4096))).find?
    (fun n => s.reachable (s.parityLoc p (4096 * j + n)))

/-- The ring page for the next parity page of band `b`: the first unused page, from the ring band being written on, of an OPEN
ring band on a link offset other than the band's, so that no link holds both a page and its parity (assumption 16). None while
the ring is full. -/
def State.ringPage (s : State) (p b : Nat) : Option Nat :=
  (List.range 160).findSome? (fun i =>
    let j := (mget 0 s.st.ringNext p + i) % 160
    if s.ringBand p j % 8 = b % 8 ∨ (s.band p (s.ringBand p j)).st ≠ .opened then none
    else (s.ringFirst p j).map (fun n => 4096 * j + n))

/-- Take the next FREE ring band that can hold parity of band `b`, unless one is being taken (R96, R137). -/
def State.ringTake (s : State) (p b : Nat) : State :=
  let js := ((List.range 160).map (fun i => (mget 0 s.st.ringNext p + i) % 160)).filter (fun j => decide (s.ringBand p j % 8 ≠ b % 8))
  if js.any (fun j => (s.band p (s.ringBand p j)).taken) then s
  else match js.find? (fun j => decide ((s.band p (s.ringBand p j)).st = .free) && s.offsetOk p (s.ringBand p j % 8)) with
    | some j => s.takeBand p (s.ringBand p j) 3
    | none => s

/-- Program the parity page of a row at ring page `n` (R101); region source 5 tells when the ring becomes 90 % full (R415). -/
def State.putParity (s : State) (p b r n : Nat) (data : List Bytes) : State :=
  let k := bandKey p b
  let c := s.parityLoc p n
  let used := n % 4096 + 1
  let before := s.parityHeld p
  let s := { s with st := { s.st with
    ringNext := mset 0 s.st.ringNext p (if used = 4096 then (n / 4096 + 1) % 160 else n / 4096)
    ringUsed := mset 0 s.st.ringUsed (bandKey p (s.ringBand p (n / 4096))) used
    paritySlot := mset none s.st.paritySlot (2048 * k + r) (some n)
    parity := mmod 0 s.st.parity k (· + 1) } }
  let s := if 10 * before < 9 * Config.parityPages ∧ 9 * Config.parityPages ≤ 10 * s.parityHeld p then s.raise (0x800 + 32 * p + 5) else s
  s.sendMedia c.link { op := .program, slc := true, die := c.die, planes := 15, block := c.block, page := c.page, data := data,
                       why := .parity k r, foreground := false }

/-- Program parity pages again whose program has failed, at the next free page of the ring (R198); they wait while it is full. -/
def State.parityRetry (s : State) : State :=
  foldS (fun (s : State) (e : Nat × List Bytes) =>
    let k := e.1 / 2048
    match s.ringPage (bandRegion k) (bandIndex k) with
    | some n => { s with st := { s.st with parityAgain := s.st.parityAgain.erase e } }.putParity (bandRegion k) (bandIndex k) (e.1 % 2048) n e.2
    | none => s.ringTake (bandRegion k) (bandIndex k)) s s.st.parityAgain

/-- Mark the staged grains of a row as issued. -/
def State.markIssued (s : State) (p b r : Nat) : State :=
  { s with staged := s.staged.map (fun e => if e.region = p ∧ e.band = b ∧ e.at_ / 512 = r then { e with issued := true } else e) }

/-- Note the age clock at a band's first program (R186). -/
def State.noteAge (s : State) (k : Nat) : State :=
  let x := s.bandAt k
  if x.firstProg.isNone then s.setBandAt k { x with firstProg := some s.ageNow } else s

/-- Issue the eight programs of a row at a band row, QLC or SLC, each with the 16 codewords of its page. -/
def State.issuePages (s : State) (p b r : Nat) (slc fg : Bool) (page : Nat → List (Bytes × Bytes)) (why : Why) : State :=
  foldS (fun (s : State) (t : Nat) =>
    let c := s.locQlc p b (512 * r + 64 * t)
    s.sendMedia c.link { op := .program, slc := slc, die := c.die, planes := 15, block := c.block, page := c.page,
                         data := c.frames (page t), why := why, foreground := fg }) (s.noteAge (bandKey p b)) (List.range 8)

/-- Program a row at its QLC place, with its parity page at ring page `n` (R101). -/
def State.programRow (s : State) (p b r n : Nat) (fg : Bool) (page : Nat → List (Bytes × Bytes)) : State :=
  (((s.issuePages p b r false fg page (.row (bandKey p b) r)).noteAge (bandKey p (s.ringBand p (n / 4096)))).putParity p b r n
    (s.parityOf p b r page)).markIssued p b r

/-- A complete row goes to its QLC row or to the SLC buffer (R106), with its parity page (R101). It waits until its band is
OPEN or CLOSED after its first-row reads (R137), while the dieblock copy of R197 runs, while the band is to be relocated for a
lost dieblock, link or die (R115, R435), and while the parity ring is full (R102). Once a band has a row in SLC every later row
of it goes there too, and waits while the buffer may take none (R106, R108). A row that would be the band's first in SLC goes to
its QLC row when the buffer can give no place (assumption 71). -/
def State.issueRow (s : State) (p b r : Nat) : State :=
  let k := bandKey p b
  let x := s.bandAt k
  let lost := (List.range 8).any (fun t => !s.reachable (s.locQlc p b (512 * r + 64 * t)))
  if (x.st ≠ .opened ∧ x.st ≠ .closed) ∨ x.checking ≠ [] ∨ x.lossy ∨ mget none s.st.repairs k ≠ none ∨ s.rowDue p b r = false ∨ lost then s
  else match s.ringPage p b with
  | none => s.ringTake p b
  | some n =>
    let page := stagedPage (s.rowStaged p b r) r
    let rec? := match mget none s.st.slcs k with | some y => (if y.f ≤ r then some y else none) | none => none
    let room := decide (s.slcBands p ≤ s.slcShare)
    let toSlc := match rec? with
      | some _ => true
      | none => (mget none s.st.slcs k).isNone && decide (2 * s.stagedIn p ≥ s.stageShare) && room
    if toSlc then
      if room = false then s
      else match s.slcPlace p with
      | (none, s) =>
        if rec? = none ∧ mget none s.st.slcCur p = none then s.programRow p b r n true page else s
      | (some (sb, sr), s) =>
        let y : SlcRec := match rec? with | some y => y | none => { f := r, w := r }
        let s := { s with st := { s.st with slcs := mset none s.st.slcs k (some { y with w := Nat.max y.w (r + 1), rows := y.rows ++ [(r, sb, sr)] }) } }
        let s := match (s.st.slabs.find? (fun e => decide (e.2.region = p ∧ e.2.band = b ∧ (e.2.st = .opened ∨ e.2.st = .full)))) with
          | some (ti, x) => s.setSlab ti { x with slc := true }
          | none => s
        (((s.issuePages p sb sr true true page (.slcRow k r)).noteAge (bandKey p (s.ringBand p (n / 4096)))).putParity p b r n
          (s.parityOf p b r page)).markIssued p b r
    else s.programRow p b r n true page

/-- The rows of a list, each once. -/
def rowsOf (l : List Staged) : List (Nat × Nat × Nat) :=
  l.foldl (fun acc e => if acc.contains (e.region, e.band, e.at_ / 512) then acc else acc ++ [(e.region, e.band, e.at_ / 512)]) []

/-- Issue every complete row that may go. -/
def State.issueRows (s : State) : State :=
  foldS (fun (s : State) (x : Nat × Nat × Nat) => s.issueRow x.1 x.2.1 x.2.2) s (rowsOf (s.staged.filter (fun e => !e.issued)))

/-- A row's grains leave staging once their pages and the row's parity page are programmed (R101, R120). -/
def State.releaseRow (s : State) (p b r : Nat) : State :=
  let k := bandKey p b
  let l := s.rowStaged p b r
  if l.all (fun e => e.programmed) ∧ s.countCmds (fun m => decide (m.why = .parity k r)) = 0 ∧
      s.st.parityAgain.all (fun e => decide (e.1 ≠ 2048 * k + r)) ∧ l ≠ [] then
    { s with staged := s.staged.filter (fun e => !decide (e.region = p ∧ e.band = b ∧ e.at_ / 512 = r)) }
  else s

/-! ### Ending a band's use (R96, R97, R102) -/

/-- The staged grains of a band are discarded. -/
def State.dropStaged (s : State) (p b : Nat) : State :=
  { s with staged := s.staged.filter (fun e => !decide (e.region = p ∧ e.band = b)) }

/-- Marks in `checking`, beside tile offsets: the first row was found written, and another band is to be taken; or the entry that
makes the band STALE for it waits to be persisted. -/
def wantsOther : Nat := 8
def wasWritten : Nat := 9

/-- Journal a band STALE that was taken from FREE and not used (R96, R137). -/
def State.unused (s : State) (k : Nat) : State :=
  let x := s.bandAt k
  let s := s.setBandAt k { x with checking := [wasWritten], closedAt := none }
  (s.journal (bandRegion k) false (.bandState (bandIndex k) .stale x.role x.erases)).whenPersisted (.bandStale k)

/-- A band stops backing anything: BAND_STATE STALE is journaled and the band becomes STALE when that is persisted
(R96, R97). A band that was only taken stays FREE. -/
def State.retireUse (s : State) (k : Nat) : State :=
  let x := s.bandAt k
  let s := s.dropStaged (bandRegion k) (bandIndex k)
  let s := { s with st := { s.st with slcs := mset none s.st.slcs k none, verifies := mset none s.st.verifies k none,
                                      repairs := mset none s.st.repairs k none } }
  if x.st = .free ∧ x.checking = [wantsOther] then s.unused k
  else if x.st = .free then (s.setBandAt k { x with checking := [], closedAt := none }).poolChanged
  else (s.journal (bandRegion k) false (.bandState (bandIndex k) .stale x.role x.erases)).whenPersisted (.bandStale k)

/-- Whether a band's STALE entry waits to be persisted. -/
def State.ending (s : State) (k : Nat) : Bool := s.jr.acts.any (fun a => decide (a.2 = JAct.bandStale k))

/-- End the use of each ring band that is used to its end and holds no parity page any more (R97, R102). -/
def State.ringFree (s : State) (p : Nat) : State :=
  foldS (fun (s : State) (e : Nat × Nat) =>
    let j := bandIndex e.1 - (s.bandsOf p - 160)
    if bandRegion e.1 = p ∧ e.2 = 4096 ∧ (s.bandAt e.1).st = .opened ∧ s.ending e.1 = false ∧
        !(s.st.paritySlot.any (fun y => decide (bandRegion (y.1 / 2048) = p) &&
          (match y.2 with | some n => decide (n / 4096 = j) | none => false))) then s.retireUse e.1
    else s) s s.st.ringUsed

/-- Release the parity pages of a band (R102). -/
def State.dropParity (s : State) (k : Nat) : State :=
  { s with st := { s.st with
    parity := mset 0 s.st.parity k 0
    parityAgain := s.st.parityAgain.filter (fun e => decide (e.1 / 2048 ≠ k))
    paritySlot := s.st.paritySlot.filter (fun e => decide (e.1 / 2048 ≠ k)) } }.ringFree (bandRegion k)

/-- Issue the erase of a STALE band: every dieblock whose link is up; a dieblock on a DOWN link waits, and the band
stays STALE until its erase is issued (R96, R199). A dieblock on a failed die counts as an ERASE_FAIL at its response,
which the caller makes. -/
def State.eraseBand (s : State) (k : Nat) : State :=
  let p := bandRegion k
  let b := bandIndex k
  let x := s.bandAt k
  let up := (List.range 8).filter (fun t => s.reachable (s.locQlc p b (64 * t)))
  let off := (List.range 8).filter (fun t => decide ((s.link (s.locQlc p b (64 * t)).link).st = .down))
  let s := s.setBandAt k { x with st := if off = [] then .erasing else .stale, erasePend := List.range 8, eraseWait := off }
  foldS (fun (s : State) (t : Nat) =>
    let c := s.locQlc p b (64 * t)
    s.sendMedia c.link { op := .erase, slc := decide (x.role = 2 ∨ x.role = 3 ∨ x.role = 4), die := c.die, planes := 15,
                         block := c.block, why := .bandErase k, foreground := false }) s up

/-! ### Slab states (R93) -/

/-- A band's slab goes FULL, or its log slab fills: CLOSED; a band that waits for its first-row reads closes after them
(R96, R137). -/
def State.closeBand (s : State) (p b : Nat) : State :=
  let x := s.band p b
  if x.taken then s.setBand p b { x with closedAt := some s.now }
  else (s.setBand p b { x with st := .closed, closedAt := some s.now }).journalBand (bandKey p b)

/-- The first-row reads of a band have passed: it is OPEN, and the entry that says so is journaled (R96, R137). -/
def State.bandOpened (s : State) (k : Nat) : State :=
  let x := s.bandAt k
  let s := (s.setBandAt k { x with st := .opened, checking := [] }).journalBand k
  if x.closedAt.isSome then s.closeBand (bandRegion k) (bandIndex k) else s

/-- Close a log slab's band: it is full (R96, R111). -/
def State.fillLog (s : State) (l : LogSlab) : State := (s.closeBand l.region l.band).issueRows

/-- Close a slab at a write pointer: FULL, its band CLOSED (R93, R96). -/
def State.fillSlab (s : State) (ti : Nat) : State :=
  let x := s.slab ti
  let (p, b) := match mget none s.st.moves ti with
    | some m => (m.dstRegion, m.dstBand)
    | none => (x.region, x.band)
  ((s.setSlab ti { x with st := .full }).journalSlab ti).closeBand p b

/-- Journal and set a slab's write pointer; at 1,048,576 the slab becomes FULL (R65, R93). -/
def State.advanceWp (s : State) (ti wp : Nat) : State :=
  let s := s.setSlab ti { s.slab ti with wp := wp }
  let s := s.journal (s.slab ti).region false (.wpAdvance ti wp s.st.wseq)
  if wp = Config.slabGrains then s.fillSlab ti else s

/-- The log extents of a slab end; their EXTENT_DEAD entries free the index positions (R125). -/
def State.dropExtents (s : State) (ti : Nat) : State :=
  let mine := s.st.exts.filter (fun e => match e.2 with | some x => decide (x.slab = ti) | none => false)
  let s := foldS (fun (s : State) (e : Nat × Option Extent) => s.journal 0 false (.extentDead e.1 ti 0)) s mine
  { s with st := { s.st with exts := s.st.exts.filter (fun e => match e.2 with | some x => decide (x.slab ≠ ti) | none => true) } }

/-- Free each log slab none of whose extents is live: its band becomes STALE. One that has been allocated and not yet written is
held (R110). -/
def State.freeLogs (s : State) : State :=
  foldS (fun (s : State) (e : Nat × Option LogSlab) =>
    match e.2 with
    | some l =>
      if s.st.exts.any (fun x => match x.2 with | some y => decide (y.logSlab = e.1) | none => false) ∨
         (l.fill = 0 ∧ (s.band l.region l.band).closedAt = none) then s
      else
        let s := { s with st := { s.st with logs := mset none s.st.logs e.1 none, mergeReq := s.st.mergeReq.filter (fun r => decide (r.1 ≠ e.1)) } }
        s.retireUse (bandKey l.region l.band)
    | none => s) s s.st.logs

/-- Drop extents that no longer have a live grain, with EXTENT_DEAD of epoch 0 (R125). -/
def State.dropDead (s : State) : State :=
  let dead := s.st.exts.filter (fun e => match e.2 with | some x => !s.extLive x | none => false)
  let s := foldS (fun (s : State) (e : Nat × Option Extent) =>
    match e.2 with | some x => s.journal 0 false (.extentDead e.1 x.slab 0) | none => s) s dead
  let s := { s with st := { s.st with exts := s.st.exts.filter (fun e => !(dead.any (fun d => decide (d.1 = e.1)))) } }
  s.freeLogs

/-- A relocation for wear or refresh runs no more in its region (R114, R196). -/
def State.moveOver (s : State) (m : Move) : State :=
  { s with st := { s.st with
    wear := if m.why = MoveWhy.wear then mset false s.st.wear m.srcRegion false else s.st.wear
    refresh := if m.why = MoveWhy.refresh then mmod 0 s.st.refresh m.srcRegion (fun n => n - 1) else s.st.refresh } }

/-- Reset a slab to EMPTY: extents invalidated, tail discarded, band STALE; a relocation under way is abandoned and
both bands become STALE (R71, R93, R113). -/
def State.emptySlab (s : State) (ti : Nat) : State :=
  let x := s.slab ti
  if x.st = .empty ∨ x.st = .retired then s
  else
    let s := (s.dropExtents ti).uncacheSlab ti
    let mv := mget none s.st.moves ti
    let s := match mv with | some m => s.moveOver m | none => s
    let s := { s with st := { s.st with
      tails := mset [] s.st.tails ti []
      tailSeqs := mset 0 s.st.tailSeqs ti 0
      moves := mset none s.st.moves ti none
      moveReq := mset none s.st.moveReq ti none
      descs := s.st.descs.filter (fun e => decide (e.1 / 1048576 ≠ ti)) } }
    let s := s.setSlab ti { st := .empty, inst := x.inst }
    let s := s.journalSlab ti
    let s := s.retireUse (bandKey x.region x.band)
    let s := match mv with
      | some m => foldS (fun (s : State) (e : Nat × Nat × Nat) => s.retireUse (bandKey e.1 e.2.1))
          (s.retireUse (bandKey m.dstRegion m.dstBand)) m.mids
      | none => s
    s.freeLogs

/-- The log extents of a slab. -/
def State.extsOf (s : State) (ti : Nat) : SMap (Option Extent) :=
  s.st.exts.filter (fun e => match e.2 with | some x => decide (x.slab = ti) | none => false)

/-- Journal entries that emptying a slab makes beside its EXTENT_DEAD entries, at most. -/
def State.emptyNeed (s : State) (ti : Nat) : Nat :=
  4 + s.st.logs.length + (match mget none s.st.moves ti with | some m => m.mids.length | none => 0)

/-- Whether the journal buffer has room for all that emptying a slab journals (R127). -/
def State.emptyRoom (s : State) (ti : Nat) : Bool := s.journalRoom (s.emptyNeed ti + (s.extsOf ti).length)

/-- Empty a slab as far as the journal buffer has room: its log extents end first (R125, R127). -/
def State.emptyStep (s : State) (ti : Nat) : State :=
  if s.emptyRoom ti then s.emptySlab ti
  else
    let go := (s.extsOf ti).take (Config.journalBuf - s.jr.buf.length - s.emptyNeed ti)
    let s := foldS (fun (s : State) (e : Nat × Option Extent) => s.journal 0 false (.extentDead e.1 ti 0)) s go
    { s with st := { s.st with exts := s.st.exts.filter (fun e => !(go.any (fun d => decide (d.1 = e.1)))) } }

/-! ### Requests for relocation (R112) -/

/-- The slab that a band backs. -/
def State.slabOf (s : State) (p b : Nat) : Option Nat :=
  (s.st.slabs.find? (fun e => decide (e.2.region = p ∧ e.2.band = b ∧ (e.2.st = .opened ∨ e.2.st = .full)))).map (·.1)

/-- The log slab that a band backs. -/
def State.logOf (s : State) (p b : Nat) : Option Nat :=
  (s.st.logs.find? (fun e => match e.2 with | some l => decide (l.region = p ∧ l.band = b) | none => false)).map (·.1)

/-- Ask for a slab's relocation, in the foreground class if a command waits for it (R110, R112, R220). A request for a slab
already MOVING is dropped (R196), but a merge is still to come (R111). -/
def State.askMove (s : State) (ti : Nat) (why : MoveWhy) (fg : Bool) : State :=
  if (s.slab ti).moving ∧ why ≠ .merge then s
  else
    let fg := fg || (match mget none s.st.moveReq ti with | some (_, f) => f | none => false)
    { s with st := { s.st with moveReq := mset none s.st.moveReq ti (some (why, fg)) } }

/-- Ask for a log slab's merge (R110, R111): every slab with live extents in it. A log slab that is still being written takes
nothing more. -/
def State.askMerge (s : State) (n : Nat) (fg : Bool) : State :=
  let s : State := match mget none s.st.logs n with
    | some l => if (s.band l.region l.band).st = .opened ∨ (s.band l.region l.band).taken then s.fillLog l else s
    | none => s
  let r := if s.st.mergeReq.any (fun e => decide (e.1 = n)) then
      s.st.mergeReq.map (fun e => if e.1 = n then (n, e.2 || fg) else e)
    else s.st.mergeReq ++ [(n, fg)]
  let s := { s with st := { s.st with mergeReq := r } }
  foldS (fun (s : State) (e : Nat × Option Extent) =>
    match e.2 with
    | some x => if x.logSlab = n ∧ s.extLive x then s.askMove x.slab .merge fg else s
    | none => s) s s.st.exts

/-- Live grains a slab has in a log slab. -/
def State.liveIn (s : State) (n ti : Nat) : Nat :=
  s.st.exts.foldl (fun a e => match e.2 with
    | some x => if x.logSlab = n ∧ x.slab = ti then a + s.extLiveGrains x else a
    | none => a) 0

/-- Whether a slab's merge is next: it has the most live grains of a log slab to be merged among those that are not being moved,
the lowest table index of equals; or it is merged for the whole index (R111, assumption 71). -/
def State.mergeNext (s : State) (ti : Nat) : Bool :=
  let mine := s.st.mergeReq.filter (fun r => decide (0 < s.liveIn r.1 ti))
  mine = [] || mine.any (fun r =>
    (s.st.moveReq.filter (fun e => decide (e.1 ≠ ti ∧ (s.slab e.1).moving = false))).all (fun e =>
      decide (s.liveIn r.1 e.1 < s.liveIn r.1 ti ∨ (s.liveIn r.1 e.1 = s.liveIn r.1 ti ∧ ti < e.1))))

/-- Ask for the relocation of whatever a band holds: its slab, or a merge of its log slab (R111, R112). -/
def State.askBand (s : State) (p b : Nat) (why : MoveWhy) : State :=
  match s.logOf p b with
  | some n => s.askMerge n false
  | none => match s.slabOf p b with
    | some ti => s.askMove ti why false
    | none => s

end Sys2Proof.Machine
end

