-- ==== Sys2Proof/Machine/Commands.lean ====
section
/-! DEFINITION. What every host command shares (03): the encoding checks of R524 step 5, the order of R75, key
references (R352), and how a row starts the command it names. -/

namespace Sys2Proof.Machine

/-! ### Encoding checks (R56, R57, R59) -/

/-- Commands that use DPTR as a data address (R56). -/
def usesDptr (op : Nat) : Bool :=
  decide (op = 1 ∨ op = 2 ∨ op = 3 ∨ op = 8 ∨ op = 9 ∨ op = 0x0B ∨ op = 0x0C ∨ op = 0x89 ∨ op = 0x8A)

/-- No flag is set that is not valid with the command (R56, R57). R524 lists reserved bits among the causes of INVALID_FIELD, while R56
and R3 say that they are ignored: the model ignores them, in FLAGS and in every other reserved bit and byte of an entry
(DESIGN CHOICE, assumption 70). -/
def flagsOk (e : Sqe) : Bool :=
  let op := Sqe.opcode e
  (!Sqe.fInline e || usesDptr op) &&
  (!Sqe.fReduce e || decide (op = 1 ∨ op = 2)) &&
  (!Sqe.fStream e || (decide (op = 1) && Sqe.fReduce e)) &&
  (!Sqe.fXts e || decide (op = 1 ∨ op = 2 ∨ op = 3)) &&
  (!Sqe.fResume e || decide (op = 8))

/-- Without INLINE, DPTR must be 16-byte aligned (R59). -/
def dptrOk (e : Sqe) : Bool := Sqe.fInline e || decide (bits (Sqe.dptr e) 0 4 = 0)

/-- The grains a data length takes. -/
def grainsOf (n : Nat) : Nat := (n + 1023) / 1024

/-- The largest LENGTH of a data command. -/
def maxLength : Nat := 16777216

/-- A length that must be a whole number of grains (R65, R68, R70). -/
def wholeGrains (n : Nat) : Bool := decide (1024 ≤ n ∧ n ≤ maxLength ∧ n % 1024 = 0)

/-- Field ranges of the data commands (R55, R65, R68, R69, R70). -/
def dataFieldsOk (e : Sqe) : Bool :=
  let n := Sqe.length e
  match Sqe.opcode e with
  | 1 => decide (1 ≤ n ∧ n ≤ maxLength) &&
      (if Sqe.fReduce e then (Sqe.fStream e || decide (n % 4096 = 0)) else decide (n % 1024 = 0))
  | 2 => if Sqe.fReduce e then
        decide (1 ≤ n ∧ n ≤ maxLength ∧ 1 ≤ Sqe.field e 36 4 ∧ Sqe.field e 36 4 ≤ 16384)
      else wholeGrains n && decide (Sqe.grain e + n / 1024 ≤ Config.slabGrains)
  | 3 => wholeGrains n && decide (Sqe.grain e + n / 1024 ≤ Config.slabGrains)
  | _ => true

/-- Step 5 of R524 for a data command. -/
def dataEncodingOk (e : Sqe) : Bool := flagsOk e && dptrOk e && dataFieldsOk e

/-! ### Keys (R58, R345, R351, R352, R369) -/

/-- A cipher slot lies in an instance's range (R58, R83). -/
def Inst.hasCipher (x : Inst) (k : Nat) : Bool := decide (x.keyBase ≤ k ∧ k < x.keyBase + x.keyCount)
/-- An HMAC slot lies in an instance's range. -/
def Inst.hasHmac (x : Inst) (k : Nat) : Bool := decide (x.hmacBase ≤ k ∧ k < x.hmacBase + x.hmacCount)
/-- A CAM context lies in an instance's range. -/
def Inst.hasCam (x : Inst) (k : Nat) : Bool := decide (x.camBase ≤ k ∧ k < x.camBase + x.camCount)

/-- The current generation of a slot, with a key length among `lens`. -/
def Slot.usable (x : Slot) (lens : List Nat) : Bool :=
  match x.cur with
  | some g => lens.contains g.key.length
  | none => false

/-- The generation with a number. -/
def Slot.gen? (x : Slot) (n : Nat) : Option Gen :=
  match x.cur with
  | some g => if g.num = n then some g else (match x.old with | some o => if o.num = n then some o else none | none => none)
  | none => match x.old with | some o => if o.num = n then some o else none | none => none

/-- Add `d` references to (or, negative, drop them from) a generation; a retained generation without references is
erased. A load that waits for it goes on at KEY_SCHEDULE_DONE (R351). -/
def Slot.ref (x : Slot) (n : Nat) (up : Bool) : Slot :=
  let f := fun (g : Gen) => if g.num = n then { g with refs := if up then g.refs + 1 else g.refs - 1 } else g
  let old := x.old.map f
  { x with cur := x.cur.map f, old := match old with | some g => if g.refs = 0 then none else some g | none => none }

/-- Take a reference to a slot's current generation (R352): the generation number. -/
def State.takeKey (s : State) (hmac : Bool) (k : Nat) : Option Nat × State :=
  let x := if hmac then s.hslot k else s.cslot k
  match x.cur with
  | none => (none, s)
  | some g => (some g.num, if hmac then s.setHslot k (x.ref g.num true) else s.setCslot k (x.ref g.num true))

/-- Release a reference. -/
def State.dropKey (s : State) (hmac : Bool) (k n : Nat) : State :=
  if hmac then s.setHslot k ((s.hslot k).ref n false) else s.setCslot k ((s.cslot k).ref n false)

/-- The key bytes of a reference. -/
def State.keyBytes (s : State) (k n : Nat) : Bytes :=
  match (s.cslot k).gen? n with | some g => g.key | none => []

/-! ### Order (R75) -/

/-- Whether an entry occupies a slab of its instance: the commands that name SLAB. -/
def namesSlab (e : Sqe) : Bool := decide (1 ≤ Sqe.opcode e ∧ Sqe.opcode e ≤ 7) ||
  (decide (Sqe.opcode e = 8) && decide (Sqe.subop e = 1))

/-- The grain range an entry names (R69, R75). -/
def grainRange (e : Sqe) : Option (Nat × Nat) :=
  let g := Sqe.grain e
  match Sqe.opcode e with
  | 2 => if Sqe.fReduce e then some (g, Nat.min (g + 4 * Sqe.field e 36 4) Config.slabGrains)
         else some (g, g + Sqe.length e / 1024)
  | 3 => some (g, g + Sqe.length e / 1024)
  | _ => none

/-- An APPEND or FLUSH, or a RUN that appends (R75 item 2). -/
def isAppend (e : Sqe) : Bool :=
  decide (Sqe.opcode e = 1 ∨ Sqe.opcode e = 7 ∨ (Sqe.opcode e = 8 ∧ Sqe.subop e = 1))

/-- Whether the ranges of a RUN meet a grain range of a slab. -/
def rangesMeet (rs : List (Nat × Nat × Nat)) (slab : Nat) (r : Nat × Nat) : Bool :=
  rs.any (fun x => decide (x.1 = slab ∧ x.2.1 < r.2 ∧ r.1 < x.2.1 + x.2.2))

/-- Whether the later entry `b` must wait for the earlier entry `a` of its queue, FENCE apart; `ra` and `rb` are the
ranges of RUNs (R75). -/
def conflicts (a b : Sqe) (ra rb : List (Nat × Nat × Nat)) : Bool :=
  let sameSlab := namesSlab a && namesSlab b && decide (Sqe.slabNo a = Sqe.slabNo b)
  let touches := fun (r : List (Nat × Nat × Nat)) (e : Sqe) => namesSlab e && r.any (fun x => decide (x.1 = Sqe.slabNo e))
  let meets := fun (r : List (Nat × Nat × Nat)) (e : Sqe) => match grainRange e with
    | some g => rangesMeet r (Sqe.slabNo e) g
    | none => false
  (sameSlab && (isAppend a || isAppend b)) ||
  ((isAppend b && touches ra b) || meets ra b) ||
  ((isAppend a && touches rb a) || meets rb a) ||
  ra.any (fun r => rangesMeet rb r.1 (r.2.1, r.2.1 + r.2.2)) ||
  (match sameSlab, grainRange a, grainRange b with
    | true, some x, some y => decide (x.1 < y.2 ∧ y.1 < x.2)
    | _, _, _ => false)

/-- What a host read gave; nothing where it failed. -/
def hostBytes : HostRead → Bytes
  | .ok b => b
  | .fault _ => []

/-- The count of a RUN's ranges (R63). -/
def runCount (e : Sqe) : Nat := Sqe.field e 38 2

/-- The entries of a range list (R72). -/
def rangeEntries : Nat → Bytes → List (Nat × Nat × Nat)
  | 0, _ => []
  | n + 1, b => (fieldLe b 0 4, fieldLe b 4 4, fieldLe b 8 4) :: rangeEntries n (b.drop 16)

/-- The ranges of a RUN, as read with its entry (R75); none of another command, or where that read failed. -/
def Op.ranges (o : Op) : List (Nat × Nat × Nat) :=
  match decide (Sqe.opcode o.sqe = 8), o.rlist with
  | true, .ok b => rangeEntries (runCount o.sqe) b
  | _, _ => []

/-- Whether a command may start: the device is in P0 (R486), its instance is ACTIVE or WRITE_CLOSED (R44), no FORMAT is emptying the
slabs, and nothing earlier in its queue holds it back (R75). -/
def State.orderOk (s : State) (q tag : Nat) (o : Op) : Bool :=
  decide (s.pw.st = .p0) && s.accepts o.inst && !(s.st.formatting && isDataCommand (Sqe.opcode o.sqe)) && (List.range 32).all (fun t => match s.op q t with
    | some a => if decide (a.order < o.order) then
        !(Sqe.fFence o.sqe || conflicts a.sqe o.sqe a.ranges o.ranges)
      else true
    | none => true) && decide (tag < 32)

/-- A started command of another queue that a slab command must let end: appends to one slab run one at a time, and a
slab changes state only between them; a RESET also lets the READs of its slab end (assumption 18). -/
def State.slabFree (s : State) (ti : Nat) (inst : Nat) (reads : Bool) : Bool :=
  s.hq.ops.all (fun e => match e.2 with
    | some a => if a.started = true ∧ a.inst = inst ∧ namesSlab a.sqe = true ∧
        s.tableIndex inst (Sqe.slabNo a.sqe) = some ti then
        !(isAppend a.sqe || decide (Sqe.opcode a.sqe = 3) || (reads && decide (Sqe.opcode a.sqe = 2)))
      else true
    | none => true)

/-! ### Starting a command -/

/-- Run the row of a command: `sel` says which entries the row answers to, `own` gives the causes of R524 from step 5
on, `useList` says that the row needs the data its descriptor list describes, and `run` has the effect. A row whose
entry is not there, not the row's, held back by R75 or already running changes nothing (assumption 9). -/
def State.startCmd (s : State) (q tag : Nat) (sel : Sqe → Bool) (own : Sqe → Op → Option Code) (useList : Bool)
    (run : Sqe → Op → State) : State :=
  match s.op q tag with
  | none => s
  | some o =>
    let e := o.sqe
    if sel e = false then s
    else if o.started then (if useList = true ∧ o.listOk = true then run e o else s)
    else if s.orderOk q tag o = false then s
    else match s.commonRefusal q e with
      | some c => s.refuse q tag c
      | none => match own e o with
        | some c => s.refuse q tag c
        | none =>
          if useList = true ∧ Sqe.fInline e = false then s.setOp q tag (some { o with started := true })
          else run e { o with started := true, listOk := true }

/-- The table index of the slab an entry names. -/
def State.slabIdx (s : State) (o : Op) : Option Nat := s.tableIndex o.inst (Sqe.slabNo o.sqe)

/-- First cause of a list that holds. -/
def firstCause : List (Bool × Code) → Option Code
  | [] => none
  | (b, c) :: r => if b then some c else firstCause r

/-- Regions that must be ready before a command may touch a slab: the band's, and after an unclean stop every region
with an OPEN log slab of the instance (R68, R455). -/
def State.slabReady (s : State) (ti inst : Nat) : Bool :=
  let x := s.slab ti
  s.regionReady x.region &&
    (s.jr.clean || s.st.logs.all (fun e => match e.2 with
      | some l => !(decide (l.inst = inst) && decide ((s.band l.region l.band).st = .opened)) || s.regionReady l.region
      | none => true))

end Sys2Proof.Machine
end

