-- ==== Sys2Proof/Machine/TileMem.lean ====
section
/-! DEFINITION. Tile memory (12): the SEC-DED code, word and byte accesses with their merge buffer, ownership and its
handover, retention, and the rows that act on them. -/

namespace Sys2Proof.Machine

/-! ### The SEC-DED code (R315, R316) -/

/-- The columns of the check matrix: bit k of entry i is set when row c_k holds data bit i. -/
def eccRows : List (List Nat) := [
  [0, 1, 2, 3, 4, 5, 6, 7, 8, 9, 10, 11, 12],
  [0, 1, 2, 13, 14, 15, 16, 17, 18, 19, 20, 21, 22],
  [3, 4, 5, 6, 13, 14, 15, 16, 23, 24, 25, 26, 27, 28],
  [0, 3, 7, 8, 9, 13, 17, 18, 19, 23, 24, 25, 29, 30],
  [1, 4, 7, 10, 11, 14, 17, 20, 21, 23, 26, 27, 29, 31],
  [2, 5, 8, 10, 12, 15, 18, 20, 22, 24, 26, 28, 30, 31],
  [6, 9, 11, 12, 16, 19, 21, 22, 25, 27, 28, 29, 30, 31]]

/-- The check bits of a data word. -/
def eccCheck (d : Word) : BitVec 7 :=
  ((eccRows.zip (List.range 7)).foldl (fun (c : BitVec 7) (r : List Nat × Nat) =>
    setBit c r.2 (r.1.foldl (fun b i => Bool.xor b (bit d i)) false)) 0)

/-- The column of data bit i. -/
def eccColumn (i : Nat) : BitVec 7 :=
  (eccRows.zip (List.range 7)).foldl (fun (c : BitVec 7) (r : List Nat × Nat) => setBit c r.2 (r.1.contains i)) 0

/-- What a syndrome says. -/
inductive EccVerdict where
  | clean
  | check
  | data (i : Nat)
  | bad
deriving DecidableEq, Repr

/-- Decode a syndrome (R316). -/
def eccDecode (s : BitVec 7) : EccVerdict :=
  if s = 0 then .clean
  else if (List.range 7).any (fun k => decide (s = BitVec.ofNat 7 (2 ^ k))) then .check
  else match (List.range 32).find? (fun i => decide (eccColumn i = s)) with
    | some i => .data i
    | none => .bad

/-! ### The stored array -/

/-- Bytes of a bank. -/
def bankBytes : Nat := 131072
/-- The key of word `w` of bank `b`. -/
def wordKey (b w : Nat) : Nat := 32768 * b + w

/-- The four bytes of a stored word. -/
def memWord (m : List Host.Cell) (a : Nat) : Word :=
  mget 0 m (a + 3) ++ mget 0 m (a + 2) ++ mget 0 m (a + 1) ++ mget 0 m a

/-- Store a word as four bytes. -/
def setMemWord (m : List Host.Cell) (a : Nat) (v : Word) : List Host.Cell :=
  mset 0 (mset 0 (mset 0 (mset 0 m a (v.extractLsb' 0 8)) (a + 1) (v.extractLsb' 8 8)) (a + 2) (v.extractLsb' 16 8))
    (a + 3) (v.extractLsb' 24 8)

/-- The remap entry in use for a word. -/
def Bank.remapOf (x : Bank) (w : Nat) : Option Nat :=
  (List.range 4).find? (fun n => let e := mget (0, false) x.remap n; e.2 && decide (e.1.toNat = w))

/-- A stored word with its syndrome, from the array or the spare cells (R320). -/
def State.rawWord (s : State) (t b w : Nat) : Word × BitVec 7 :=
  let x := s.tile t
  match (s.bank t b).remapOf w with
  | some n =>
    let v := mget 0 x.spare (4 * b + n)
    (v.extractLsb' 0 32, v.extractLsb' 32 7 ^^^ eccCheck (v.extractLsb' 0 32))
  | none => (memWord x.mem (b * bankBytes + 4 * w), mget 0 x.synd (wordKey b w))

/-- Store a word with the syndrome it is to read with. -/
def State.storeRaw (s : State) (t b w : Nat) (v : Word) (synd : BitVec 7) : State :=
  let x := s.tile t
  match (s.bank t b).remapOf w with
  | some n => s.setTile t { x with spare := mset 0 x.spare (4 * b + n) ((eccCheck v ^^^ synd) ++ v) }
  | none => s.setTile t { x with mem := setMemWord x.mem (b * bankBytes + 4 * w) v,
                                 synd := mset 0 x.synd (wordKey b w) synd }

/-! ### Reads (R316 to R319) -/

/-- A correction: counted, the bucket filled, the word recorded and to be read again (R317, R319, R320). -/
def State.noteCorrection (s : State) (t b w : Nat) (synd : BitVec 7) (master : Nat) : State :=
  let x := s.bank t b
  let bucket := Nat.min 255 (x.bucket + 1)
  let past := decide ((s.tile t).thresh.toNat ≤ bucket) && !x.ovf
  let s := s.setBank t b { x with
    bucket, cecnt := satAdd 65535 x.cecnt 1, ovf := x.ovf || past
    errAddr := BitVec.ofNat 15 w, errSynd := synd, errUnc := false, errMaster := BitVec.ofNat 4 master
    checkWord := some (w, synd) }
  let s := { s with health := { s.health with corrSram := s.health.corrSram + 1 } }
  if past then s.raise (32 * t + b) else s

/-- An uncorrectable word (R318). -/
def State.noteBad (s : State) (t b w : Nat) (synd : BitVec 7) (master : Nat) : State :=
  let x := s.bank t b
  let s := s.setBank t b { x with
    ue := true, errAddr := BitVec.ofNat 15 w, errSynd := synd, errUnc := true, errMaster := BitVec.ofNat 4 master }
  ({ s with health := { s.health with ueSram := s.health.ueSram + 1 } }).raise (32 * t + 16)

/-- Read a word for a master: from the merge buffer if held there (R313), else from the array, corrected and written
back; none when uncorrectable. -/
def State.readWord (s : State) (t b w master : Nat) : Option Word × State :=
  match (s.bank t b).merge.find? (fun e => decide (e.word = w)) with
  | some e => (some e.data, s)
  | none =>
    let (v, synd) := s.rawWord t b w
    match eccDecode synd with
    | .clean => (some v, s)
    | .check => (some v, (s.storeRaw t b w v 0).noteCorrection t b w synd master)
    | .data i => let v' := v ^^^ BitVec.ofNat 32 (2 ^ i)
                 (some v', (s.storeRaw t b w v' 0).noteCorrection t b w synd master)
    | .bad => (none, s.noteBad t b w synd master)

/-! ### Writes (R312, R313, R321) -/

/-- An array write by a master or the merge buffer: an armed flip is applied once (R321). -/
def State.arrayWrite (s : State) (t b w : Nat) (v : Word) : State :=
  let x := s.bank t b
  if x.flipArm then
    let s := s.setBank t b { x with flipArm := false }
    s.storeRaw t b w (v ^^^ x.flipD) (eccCheck (v ^^^ x.flipD) ^^^ eccCheck v ^^^ x.flipC)
  else s.storeRaw t b w v 0

/-- Write the oldest merge entry to the array (R313). -/
def State.drainMerge (s : State) (t b : Nat) : State :=
  let x := s.bank t b
  match x.merge with
  | [] => s
  | e :: r => (s.setBank t b { x with merge := r }).arrayWrite t b e.word e.data

/-- Put bytes [lo, lo + n) of a value into a word. -/
def mergeBytes (old new : Word) (lo n : Nat) : Word :=
  let mask : Word := BitVec.ofNat 32 ((2 ^ (8 * n) - 1) * 2 ^ (8 * lo))
  (old &&& ~~~mask) ||| (new &&& mask)

/-- Write bytes [lo, lo + n) of word `w`: a whole word straight or into its entry, a part through the merge buffer
(R312, R313). Answers false when the fill read finds an uncorrectable word and refuses the write. -/
def State.writeWord (s : State) (t b w lo n : Nat) (v : Word) (master : Nat) : Bool × State :=
  let x := s.bank t b
  if x.merge.any (fun e => decide (e.word = w)) then
    (true, s.setBank t b { x with merge := x.merge.map (fun (e : MergeE) => if e.word = w then { e with data := mergeBytes e.data v lo n } else e) })
  else if n = 4 then (true, s.arrayWrite t b w v)
  else
    let s := if 8 ≤ x.merge.length then s.drainMerge t b else s
    match s.readWord t b w master with
    | (some old, s) =>
      let y := s.bank t b
      (true, s.setBank t b { y with merge := y.merge ++ [{ word := w, data := mergeBytes old v lo n }] })
    | (none, s) => (false, s)

/-- Read `n` bytes at a scratchpad address: each touched word is read, lowest first (R311). -/
def State.readSpan (s : State) (t a n master : Nat) : Option Bytes × State :=
  let w0 := a / 4
  let r := foldS (fun (acc : Option Bytes × State) (i : Nat) =>
    match acc with
    | (none, s) => (none, s)
    | (some bs, s) => match s.readWord t ((w0 + i) / 32768) ((w0 + i) % 32768) master with
      | (some v, s) => (some (bs ++ natLe 4 v.toNat), s)
      | (none, s) => (none, s)) (some [], s) (List.range ((a + n - 1) / 4 - w0 + 1))
  match r with
  | (some bs, s) => (some (slice bs (a % 4) n), s)
  | (none, s) => (none, s)

/-- Write bytes at a scratchpad address, word by word (R311); false when a fill read refuses one. -/
def State.writeSpan (s : State) (t a : Nat) (d : Bytes) (master : Nat) : Bool × State :=
  let n := d.length
  let w0 := a / 4
  if n = 0 then (true, s)
  else foldS (fun (acc : Bool × State) (i : Nat) =>
    match acc with
    | (false, s) => (false, s)
    | (true, s) =>
      let base := 4 * (w0 + i)
      let lo := Nat.max a base
      let hi := Nat.min (a + n) (base + 4)
      let v := BitVec.ofNat 32 (leNat (slice d (lo - a) (hi - lo)) * 2 ^ (8 * (lo - base)))
      s.writeWord t ((w0 + i) / 32768) ((w0 + i) % 32768) (lo - base) (hi - lo) v master) (true, s)
    (List.range ((a + n - 1) / 4 - w0 + 1))

/-- Zero every word of a bank: data, check bits and merge entries (R308). -/
def State.zeroBank (s : State) (t b : Nat) : State :=
  let x := s.tile t
  let s := s.setTile t { x with
    mem := x.mem.filter (fun e => decide (e.1 / bankBytes ≠ b))
    synd := x.synd.filter (fun e => decide (e.1 / 32768 ≠ b))
    spare := x.spare.filter (fun e => decide (e.1 / 4 ≠ b)) }
  s.setBank t b { s.bank t b with merge := [], checkWord := none }

/-! ### Ownership (R305 to R308) -/

/-- The instance whose item a core runs. -/
def Core.instOf (k : Core) : Option Nat := k.item.map (·.inst)

/-- Whether an owner register admits the core (R305, R228). -/
def Bank.admitsCore (x : Bank) (k : Core) : Bool :=
  (decide (x.kind = 1) || decide (x.kind = 4)) && decide (k.instOf = some x.inst.toNat)

/-- Whether an owner register admits lanes of a class working for an instance (R305). -/
def Bank.admitsLane (x : Bank) (cls inst : Nat) : Bool :=
  decide (x.inst.toNat = inst) && (decide (x.kind = 4) || (decide (x.kind = 3) && decide (x.unit.toNat = cls)))

/-- Fields of an owner value. -/
def ownKind (v : Word) : BitVec 3 := v.extractLsb' 0 3
def ownUnit (v : Word) : BitVec 5 := v.extractLsb' 3 5
def ownInst (v : Word) : BitVec 8 := v.extractLsb' 8 8

/-- Set event bits of a core that runs an item (R241, R242). -/
def State.event (s : State) (t : Nat) (m : Word) : State :=
  let k := s.core t
  if k.item.isSome then s.setCore t { k with evp := k.evp ||| m, evSeen := s.ld.fences } else s

/-- A handover takes effect: the owner changes, and a bank handed to the core sets `TL_EVP.BANK` (R306). -/
def State.setOwner (s : State) (t b : Nat) (v : Word) : State :=
  let x := s.bank t b
  let y := { x with kind := ownKind v, unit := ownUnit v, inst := ownInst v, next := none, zeroing := none }
  let s := s.setBank t b y
  if y.kind = 1 ∨ (y.kind = 4 ∧ (s.core t).instOf = some y.inst.toNat) then s.event t 8 else s

/-- Whether a handover zeroes the bank first (R308). -/
def Bank.needsZero (x : Bank) (v : Word) : Bool :=
  decide (x.inst ≠ ownInst v) || decide (x.kind = 6) || decide (ownKind v = 6)

/-- The owner write of a bank comes to its effect: at once, or zeroing begins. -/
def State.handOver (s : State) (t b : Nat) : State :=
  let x := s.bank t b
  match x.next with
  | none => s
  | some (v, _, _) =>
    if x.needsZero v then s.setBank t b { x with next := none, zeroing := some v } else s.setOwner t b v

/-- Record an owner write of a bank: it takes effect later (R306). Bank 15 and a retired bank ignore it (R305, R428). -/
def State.writeOwner (s : State) (t b : Nat) (v : Word) (byCore : Bool) : State :=
  let x := s.bank t b
  if b = 15 then s
  else if x.retired = true ∧ ownKind v ≠ 0 then s
  else s.setBank t b { x with next := some (v, (s.core t).issued, byCore) }

/-- Owner writes of the core take effect once it has issued 4 further instructions, or when it stops issuing (R306). -/
def State.coreHandovers (s : State) (t : Nat) (stops : Bool) : State :=
  foldS (fun (s : State) (b : Nat) =>
    match (s.bank t b).next with
    | some (_, n, true) => if stops ∨ n + 4 ≤ (s.core t).issued then s.handOver t b else s
    | _ => s) s (List.range 15)

/-- BANK_OWNER_WRITE: a write of a bank's owner register (R306). -/
def execBankOwnerWrite (t b : Nat) (v : Word) (w : OwnerWriter) (s : State) : Answer :=
  .next (s.writeOwner t b v (decide (w = .core)))

/-- BANK_HANDOVER: the owner write takes effect (R306), at least 4 tile cycles after it. -/
def execBankHandover (t b : Nat) (s : State) : Answer := .next (s.handOver t b)

/-- BANK_ZEROING_DONE (R308). -/
def execBankZeroingDone (t b : Nat) (s : State) : Answer :=
  match (s.bank t b).zeroing with
  | some v => .next ((s.zeroBank t b).setOwner t b v)
  | none => .next s

/-! ### Retention (R314) -/

/-- Whether a bank's retention group accepts accesses. -/
def State.groupAwake (s : State) (t b : Nat) : Bool := bit (s.tile t).retain (b / 4) == false && bit (s.tile t).awake (b / 4)

/-- TL_RET_WRITE: RETAIN bits asked for; a cleared bit begins the group's wake. -/
def State.writeRet (s : State) (t : Nat) (v : Word) : State :=
  let x := s.tile t
  let waking := decide ((~~~ x.retain &&& ~~~ x.awake) ≠ 0)
  s.setTile t { x with retain := v.extractLsb' 0 4, wakeFrom := if waking then x.wakeFrom else s.now }
def execTlRetWrite (t : Nat) (v : Word) (s : State) : Answer := .next (s.writeRet t v)

/-- RETENTION_ENTRY: the group enters retention once its merge buffers are empty and no access is in flight. -/
def execRetentionEntry (t g : Nat) (s : State) : Answer :=
  let x := s.tile t
  if bit x.retain g = true ∧ bit x.awake g = true ∧ (List.range 4).all (fun i => decide ((s.bank t (4 * g + i)).merge = [])) then
    .next (s.setTile t { x with awake := setBit x.awake g false })
  else .next s

/-- RETENTION_WAKE_DONE: the group's wake, of 12 µs, has ended; groups of one tile wake one after another in group order. -/
def execRetentionWakeDone (t g : Nat) (s : State) : Answer :=
  let x := s.tile t
  if bit x.retain g = false ∧ bit x.awake g = false ∧
      (List.range g).all (fun i => bit x.awake i || bit x.retain i) then
    let s := s.reach (x.wakeFrom + 12000)
    .next (s.setTile t { x with awake := setBit x.awake g true, wakeFrom := s.now })
  else .next s

/-! ### Counters, merging, scrubbing, hard faults -/

/-- CONFLICT_COUNTER_CLEAR: bit i clears counter i (R304, `TL_CONF_CLR`). -/
def State.clearConf (s : State) (t : Nat) (v : Word) : State :=
  let x := s.tile t
  let keep := fun (e : Nat) => !bit v e
  s.setTile t { x with confLost := x.confLost.filter (fun e => keep e.1), confWin := x.confWin.filter (fun e => keep e.1) }
def execConflictCounterClear (t : Nat) (v : Word) (s : State) : Answer := .next (s.clearConf t v)

/-- COLLIDE_CLEAR: writing 1 to VALID clears it and COUNT (R310, `TL_BANK_COLLIDE`). -/
def State.clearCollide (s : State) (t b : Nat) (v : Word) : State :=
  if bit v 15 then s.setBank t b { s.bank t b with colValid := false, colCount := 0 } else s
def execCollideClear (t b : Nat) (v : Word) (s : State) : Answer := .next (s.clearCollide t b v)

/-- MERGE_ENTRY_WRITE: the oldest entry of a bank's merge buffer is written to the array (R313). -/
def execMergeEntryWrite (t b : Nat) (s : State) : Answer := .next (s.drainMerge t b)

/-- The number of a bank's remap-full or remap-used event (kind 0x02): ARG holds the bank in [31:0] and the word in
[63:32] (assumption 22). -/
def remapArg (b w : Nat) : DWord := BitVec.ofNat 64 (b + 4294967296 * w)

/-- A hard fault at a word (R320, R428): the first free remap entry takes it; with none free REMAPFULL is set, and with
REMAPFULL set already the bank is retired. -/
def State.hardWord (s : State) (t b w : Nat) : State :=
  let x := s.bank t b
  let p := t / 8
  match (List.range 4).find? (fun n => !(mget (0, false) x.remap n).2) with
  | some n =>
    let v := (s.rawWord t b w).1
    let s := s.setBank t b { x with remap := mset (0, false) x.remap n (BitVec.ofNat 15 w, true) }
    let s := s.setTile t { s.tile t with spare := mset 0 (s.tile t).spare (4 * b + n) (eccCheck v ++ v) }
    s.health! 0x02 0 p t noLink (remapArg b w) 0
  | none =>
    if x.remapFull then
      if x.retired then s
      else
        let s := s.setBank t b { x with retired := true }
        s.health! 0x01 0 p t noLink (BitVec.ofNat 64 (1 + 256 * (16 * t + b))) 0
    else
      let s := s.setBank t b { x with remapFull := true }
      (s.health! 0x02 0 p t noLink (remapArg b w) 1).raise (32 * t + 28)

/-- A grain in protected staging has an uncorrectable word: its codeword will be written with POISON set, and health names the
slab and grain (R428, R438). -/
def State.poisonStaged (s : State) (t slab grain : Nat) : State :=
  let hit := fun (e : Staged) => decide (e.slab = slab ∧ e.grain = grain ∧ e.programmed = false)
  if s.staged.any hit = false then s
  else
    ({ s with staged := s.staged.map (fun e => if hit e then { e with poison := true } else e) }).health! 0x03 0 (regionOfTile t) t
      noLink (BitVec.ofNat 32 grain ++ BitVec.ofNat 32 slab) (BitVec.ofNat 32 (s.slab slab).inst)

/-- SCRUB_READ: the scrubber reads its next word of a bank; `upset` is what has changed in the stored bits since they
were written: check bits in [38:32], data in [31:0] (R316, R317, R322). It skips words held in the merge buffer. `staged` is
the grain, by slab table index and number, whose bytes in protected staging the word holds, if any (R428). -/
def execScrubRead (t b : Nat) (upset : BitVec 39) (staged : Option (Nat × Nat)) (s : State) : Answer :=
  let x := s.bank t b
  if (s.tile t).scrubEn = false ∨ s.groupAwake t b = false then .next s
  else
    let w := x.scrubAt
    let s := s.setBank t b { x with scrubAt := (w + 1) % 32768 }
    if x.merge.any (fun e => decide (e.word = w)) then .next s
    else
      let (v, synd) := s.rawWord t b w
      let d : Word := upset.extractLsb' 0 32
      let s := if upset = 0 then s else s.storeRaw t b w (v ^^^ d) (synd ^^^ eccCheck d ^^^ upset.extractLsb' 32 7)
      .next (match s.readWord t b w 8, staged with
        | (none, s), some (slab, g) => s.poisonStaged t slab g
        | (_, s), _ => s)

/-- BUCKET_LEAK: a whole millisecond takes 1 from every bucket: of the banks (R319) and of the DRAM ranks (R401). -/
def execBucketLeak (s : State) : Answer :=
  let tiles := s.tiles.map (fun e => (e.1, { e.2 with banks := e.2.banks.filterMap (fun b =>
    let x : Bank := { b.2 with bucket := b.2.bucket - 1 }
    if x = {} then none else some (b.1, x)) }))
  let leak := fun (x : SubCh) => { x with buckets := (x.buckets.1 - 1, x.buckets.2 - 1) }
  let chans := s.dram.chans.map (fun e => (e.1, { e.2 with sub0 := leak e.2.sub0, sub1 := leak e.2.sub1 }))
  .next { s with tiles := tiles.filter (fun e => !decide (e.2 = {})), dram := { s.dram with chans := chans.filter (fun e => !decide (e.2 = {})) } }

/-- REMAP_ENTRY_WRITE: VALID = 1 copies the current corrected word into the spare cells (R320). -/
def State.writeRemap (s : State) (t b n : Nat) (v : Word) : State :=
  let w := v.extractLsb' 0 15
  let valid := bit v 31
  let (cur, s) := s.readWord t b w.toNat 8
  let s := s.setBank t b { s.bank t b with remap := mset (0, false) (s.bank t b).remap n (w, valid) }
  match valid, cur with
  | true, some d => s.setTile t { s.tile t with spare := mset 0 (s.tile t).spare (4 * b + n) (eccCheck d ++ d) }
  | _, _ => s
def execRemapEntryWrite (t b n : Nat) (v : Word) (s : State) : Answer := .next (s.writeRemap t b n v)

end Sys2Proof.Machine
end

