-- ==== Sys2Proof/Machine/TileRegs.lean ====
section
/-! DEFINITION. What a tile register reads (09, 06, 12, 13, 14, 15, 18): the range 0x0100_0000 to 0x0100_0FFF. -/

namespace Sys2Proof.Machine

/-- The sleep mode of controller `c` (R424, entry 0x05_0070). -/
def State.sleepMode (s : State) (c : Nat) : Nat := s.tableField 0x050070 c 1 1

/-- The sizes of an instance's four DRAM windows, MiB (R231, entry 0x05_0020). -/
def State.windowSizes (s : State) (inst : Nat) : List Nat :=
  (List.range 4).map (fun w => s.tableField 0x050020 (8 * inst + 2 * w) 2 0)

/-- `DC_PASR.KEEP`: the eighths that hold kept pages, from the lowest up (R407, R412). -/
def State.keepMask (s : State) : Nat :=
  let eighth := s.pairPages * (if bit s.dram.chMask 1 then 4 else 2) / 8
  if eighth = 0 ∨ s.hq.dramPresent = false then 0 else 2 ^ (Nat.min 8 ((s.keptPages + eighth - 1) / eighth)) - 1

/-- The enabled source targets: priority of a source (R416). -/
def State.srcPrio (s : State) (n : Nat) : Nat := (mget {} s.intTgt n).prio.toNat

/-- The DELIVERED source on top (R422): lowest PRIO, then lowest number. -/
def State.intTop (s : State) (c : Nat) : Option Nat :=
  let l := ((s.intc c).src.filter (fun e => decide (e.2 = .delivered))).map (·.1)
  l.foldl (fun best n => match best with
    | none => some n
    | some m => if s.srcPrio n < s.srcPrio m ∨ (s.srcPrio n = s.srcPrio m ∧ n < m) then some n else some m) none

/-- `INT_TOP` of a controller. -/
def State.intTopWord (s : State) (c : Nat) : Word :=
  match s.intTop c with
  | some n => BitVec.ofNat 32 (n + 4096 * s.srcPrio n + 32768)
  | none => 0

/-- How many sources of a controller are in a state. -/
def IntC.count (x : IntC) (st : SrcState) : Nat := (x.src.filter (fun e => decide (e.2 = st))).length

/-- `INT_STAT` of a controller. -/
def State.intStat (s : State) (c : Nat) : Word :=
  let x := s.intc c
  BitVec.ofNat 32 ((if x.override then 1 else 0) + (if x.lost then 2 else 0) + 4 * x.count .raised +
    32768 * x.count .delivered + 268435456 * s.sleepMode c)

/-- The state code of a source. -/
def srcCode : SrcState → Nat
  | .idle => 0
  | .raised => 1
  | .delivered => 2

/-- A controller register at an offset of its block. -/
def State.readInt (s : State) (c off : Nat) : Word :=
  let x := s.intc c
  match off with
  | 0x04 => x.cmask.setWidth 32
  | 0x08 => s.intTopWord c
  | 0x10 => s.intStat c
  | 0x14 => BitVec.ofNat 32 x.merged
  | 0x18 => x.qsel.setWidth 32
  | 0x1C => BitVec.ofNat 32 (srcCode (mget .idle x.src x.qsel.toNat))
  | _ => 0

/-- Link state codes (R162). -/
def lstateCode : LState → Nat
  | .disabled => 0
  | .detect => 1
  | .train => 2
  | .enumerate => 3
  | .active => 4
  | .recovery => 5
  | .standby => 6
  | .sleeping => 7
  | .parked => 8
  | .absent => 9
  | .down => 10

/-- `LK_STATUS` of a link (R169). -/
def Link.status (x : Link) : Word :=
  BitVec.ofNat 32 (lstateCode x.st + (if x.degraded then 16 else 0) + 32 * x.presetTx.toNat + 256 * x.presetRx.toNat +
    65536 * x.dies)
/-- `LK_COUNT` of a link (R169). -/
def Link.count (x : Link) : Word := BitVec.ofNat 32 (x.resends + 65536 * x.hunts + 16777216 * x.recoveries)

/-- The owner register of a bank (R305): bank 15 reads KIND 1 with the current item's instance. -/
def State.ownerWord (s : State) (t b : Nat) : Word :=
  if b = 15 then BitVec.ofNat 32 (1 + 256 * ((s.core t).instOf).getD 0)
  else let x := s.bank t b
       BitVec.ofNat 32 (x.kind.toNat + 8 * x.unit.toNat + 256 * x.inst.toNat)

/-- A register of a bank's block (12). -/
def State.readBankReg (s : State) (t b off : Nat) : Word :=
  let x := s.bank t b
  let one := fun (v : Bool) (k : Nat) => if v then k else 0
  match off with
  | 0x00 => s.ownerWord t b
  | 0x04 => BitVec.ofNat 32 (x.colAddr.toNat + one x.colValid 32768 + 65536 * x.colLoser.toNat + 1048576 * x.colCount)
  | 0x08 => BitVec.ofNat 32 (x.bucket + one x.ovf 256 + one x.ue 512 + one x.remapFull 1024 + 65536 * x.cecnt)
  | 0x0C => BitVec.ofNat 32 (x.errAddr.toNat + 32768 * x.errSynd.toNat + one x.errUnc 4194304 + 8388608 * x.errMaster.toNat)
  | 0x10 => x.flipD
  | 0x14 => BitVec.ofNat 32 (x.flipC.toNat + one x.flipArm 2147483648)
  | _ =>
    if 0x20 ≤ off ∧ off < 0x30 ∧ off % 4 = 0 then
      let e := mget (0, false) x.remap ((off - 0x20) / 4)
      BitVec.ofNat 32 (e.1.toNat + one e.2 2147483648)
    else 0

/-- Bits of a sparse table of lanes that hold something. -/
def laneBits {α : Type} (m : SMap (Option α)) (p : α → Bool) (n : Nat) : Nat :=
  (List.range n).foldl (fun a i => match mget none m i with | some x => if p x then a + 2 ^ i else a | none => a) 0

/-- A reducer register (13). -/
def Lanes.readRx (x : Lanes) (off : Nat) : Nat :=
  let one := fun (v : Bool) (k : Nat) => if v then k else 0
  match off with
  | 0x00 => one x.rxEn 1 + one x.rxSteal 2
  | 0x04 => one x.rxRun.isSome 1 + 2 * x.rxQ.length + one (match x.rxRun with | some j => j.stolen | none => false) 64
  | 0x08 => x.rxIn / 1024
  | 0x0C => x.rxOut / 1024
  | 0x10 => x.rxDone + 16777216 * x.rxErr
  | 0x14 => x.rxBins.1
  | 0x18 => x.rxBins.2.1
  | 0x1C => x.rxBins.2.2.1
  | 0x20 => x.rxBins.2.2.2
  | _ => 0

/-- An expander register (13). -/
def Lanes.readEx (x : Lanes) (off : Nat) : Nat :=
  let one := fun (v : Bool) (k : Nat) => if v then k else 0
  match off with
  | 0x00 => one x.exEn 1 + one x.exSteal 2
  | 0x04 => one x.exRun.isSome 1 + 2 * x.exQ.length + one (match x.exRun with | some j => j.stolen | none => false) 64
  | 0x08 => x.exIn / 1024
  | 0x0C => x.exOut / 1024
  | 0x10 => x.exDone + 16777216 * x.exErr
  | 0x14 => x.exLastCode.toNat + 256 * x.exLastOff.toNat
  | _ => 0

/-- A cipher register (14). -/
def Crypt.readCx (x : Crypt) (off : Nat) : Nat :=
  let one := fun (v : Bool) (k : Nat) => if v then k else 0
  match off with
  | 0x00 => x.cxEn.toNat + one x.cxSteal 16
  | 0x04 => laneBits x.cxRun (fun _ => true) 4 + 16 * x.cxQ.length + 1024 * laneBits x.cxRun (fun j => j.stolen) 4 +
      16384 * x.cxFailed.toNat
  | 0x08 => x.cxText / 1024
  | 0x0C => x.cxDone + 16777216 * x.cxErr
  | 0x10 => x.cxSwitch
  | 0x14 => x.cxMis + 65536 * x.cxMisLane.toNat
  | _ => 0

/-- The digest lanes of a tile that hash a segment by snoop (R377). -/
def State.snooping (s : State) (t : Nat) : Nat :=
  let on := fun (l : Nat) => s.ld.runs.any (fun e => match e.2 with
    | some r => r.segs.any (fun g => decide (g.tile = t ∧ g.ph = 1 ∧ g.snoop = l + 1))
    | none => false)
  (if on 0 then 1 else 0) + (if on 1 then 2 else 0)

/-- A digest register (15). -/
def Crypt.readDg (x : Crypt) (snooping : Nat) (off : Nat) : Nat :=
  let one := fun (v : Bool) (k : Nat) => if v then k else 0
  match off with
  | 0x00 => x.dgEn.toNat + one x.dgSteal 4 + one x.dgSnoop 8
  | 0x04 => laneBits x.dgRun (fun _ => true) 2 + 4 * x.dgQ.length + 128 * laneBits x.dgRun (fun j => j.stolen) 2 +
      512 * snooping
  | 0x08 => x.dgText / 1024
  | 0x0C => x.dgDone + 16777216 * x.dgErr
  | 0x10 => x.dgMatch + 65536 * x.dgFault
  | 0x14 => x.dgSegs + 16777216 * x.dgFallback
  | _ => 0

/-- A core register of the tile block (09, R229). -/
def State.readCoreReg (s : State) (t off : Nat) : Nat :=
  let k := s.core t
  let one := fun (v : Bool) (n : Nat) => if v then n else 0
  match off with
  | 0x00 => t + 64 * (t / 8)
  | 0x04 => match k.item with
    | some i => i.inst + 256 * i.prio + one i.pin 2048 + 65536 * i.handle
    | none => 0
  | 0x08 => match k.item with
    | some i => if i.ordered then i.flow + 16384 + 65536 * (i.fseq % 65536) else 0
    | none => 0
  | 0x10 => k.ev.toNat
  | 0x14 => k.evp.toNat
  | 0x30 => match k.item with
    | some _ => Nat.min 0xFFFFFFFF ((k.dispatched + s.watchdogNs - s.now) / 1000)
    | none => 0
  | _ =>
    if 0x20 ≤ off ∧ off < 0x30 ∧ off % 4 = 0 then (mget [] s.ld.winDispatched t).getD ((off - 0x20) / 4) 0 else 0

/-- What the tile register at `off` of the range reads. An address that holds no register reads 0 (R230). -/
def State.readTile (s : State) (t off : Nat) : Word :=
  let x := s.tile t
  if off < 0x400 then BitVec.ofNat 32 (s.readCoreReg t off)
  else if off < 0x420 then (s.link (8 * t + (off - 0x400) / 4)).status
  else if off < 0x440 then (s.link (8 * t + (off - 0x420) / 4)).count
  else if off < 0x800 then 0
  else if off < 0xC00 then s.readBankReg t ((off - 0x800) / 64) ((off - 0x800) % 64)
  else if off < 0xC10 then
    BitVec.ofNat 32 (mget 0 x.confLost ((off - 0xC00) / 4) + 268435456 * (mget 0 x.confWin ((off - 0xC00) / 4)).toNat)
  else if off = 0xC20 then BitVec.ofNat 32 (x.thresh.toNat + (if x.scrubEn then 256 else 0))
  else if off = 0xC24 then BitVec.ofNat 32 (x.retain.toNat + 16 * x.awake.toNat)
  else if off < 0xD00 then 0
  else if off < 0xD40 then BitVec.ofNat 32 (x.lanes.readRx (off - 0xD00))
  else if off < 0xD80 then BitVec.ofNat 32 (x.lanes.readEx (off - 0xD40))
  else if off < 0xDC0 then BitVec.ofNat 32 (x.crypt.readCx (off - 0xD80))
  else if off < 0xE00 then BitVec.ofNat 32 (x.crypt.readDg (s.snooping t) (off - 0xDC0))
  else if off < 0xE20 then s.readInt t (off - 0xE00)
  else 0

/-- A read of `w` bits in the tile register range: one of another width than 32 bits returns 0 (R4); by a core it is a window
violation before that (R229). -/
def State.readTileWide (s : State) (w t off : Nat) : Word := if w = 32 then s.readTile t off else 0

end Sys2Proof.Machine
end

