-- ==== Sys2Proof/Machine/LadleOps.lean ====
section
/-! DEFINITION. Ladle (11): ready queues, spilling and push-back, scan banks, the choice of the next item, what a dispatch
sets on a core (R244), and the engine work of an item that ends. -/

namespace Sys2Proof.Machine

/-! ### Scan banks (R212) -/

/-- Scan banks of a tile: min(E, 15 − ⌈L ÷ 8⌉), less the retired ones (R212, R428). -/
def State.scanBanks (s : State) (t : Nat) : Nat :=
  Nat.min (s.param 0x050010 7) (15 - (s.dirtyLimit + 8191) / 8192) -
    ((List.range 15).filter (fun b => (s.bank t b).retired)).length
def State.scanFree (s : State) (t : Nat) : Nat := s.scanBanks t - (s.tile t).scanUsed
def State.useBanks (s : State) (t n : Nat) : State := s.setTile t { s.tile t with scanUsed := (s.tile t).scanUsed + n }
def State.freeBanks (s : State) (t n : Nat) : State := s.setTile t { s.tile t with scanUsed := (s.tile t).scanUsed - n }

/-! ### Ready queues (R282, R293 to R295) -/

/-- The region an item waits in: that of its AFFINITY (R282). -/
def Item.region (x : Item) : Nat := regionOfTile x.affinity

/-- The level an item is served at (R281, R286). -/
def Item.level (x : Item) : Nat := if x.raised then 1 else x.prio

/-- Whether a core is idle (R283). -/
def State.coreIdle (s : State) (t : Nat) : Bool := (s.core t).item.isNone

/-- Push-back follows the length of the ready queue (R294). -/
def State.notePush (s : State) (p : Nat) : State :=
  let r := s.region p
  if r.pushBack = false ∧ Config.pushBackOn ≤ r.ready.length then
    (s.setRegion p { r with pushBack := true }).raise (0x800 + 32 * p + 3)
  else if r.pushBack = true ∧ r.ready.length ≤ Config.pushBackOff then s.setRegion p { r with pushBack := false }
  else s

/-- Whether an item entering the ready queue of region `p` is spilled instead (R294, R295). -/
def State.spills (s : State) (p : Nat) (x : Item) : Bool :=
  let r := s.region p
  decide (x.prio ≠ 0) && !s.hq.compact && !s.stockFull p &&
    (r.pushBack || r.spilled.any (fun y => decide (y.prio = x.prio)))

/-- Whether region `p`'s ready queue has a place for an item: 64 are kept for level 0 (R282). -/
def State.hasPlace (s : State) (p : Nat) (x : Item) : Bool :=
  let n := (s.region p).ready.length
  if x.prio = 0 then decide (n < Config.readySize)
  else decide ((((s.region p).ready.filter (fun y => decide (y.prio ≠ 0))).length) < Config.readySize - Config.level0Places) &&
    decide (n < Config.readySize)

/-- Put an item in its region's ready queue, or spill it. -/
def State.enterReady (s : State) (x : Item) : State :=
  let p := x.region
  let r := s.region p
  let x := { x with enq := s.now }
  if s.spills p x then
    let s := s.setRegion p { r with spilled := r.spilled ++ [x] }
    if s.stockFull p then s.raise (0x800 + 32 * p + 4) else s
  else
    let s := (s.setRegion p { r with ready := r.ready ++ [x] }).notePush p
    if x.prio ≤ 6 then s.busy.wakeUp else s

/-- The tick a due time belongs to (R292). -/
def State.tickOf (s : State) (due : Nat) : Nat := due / s.tickNs

/-- Insert a timed item by tick, behind those of its own tick. -/
def insertTimer (tick : Nat) (x : Item) : List Item → List Item
  | [] => [x]
  | y :: r => if x.due / tick < y.due / tick then x :: y :: r else y :: insertTimer tick x r

/-- Whether an item is to wait in the timer list: TIMED, and its tick has not ended (R292). -/
def State.toTimer (s : State) (x : Item) : Bool := x.timed && decide (s.now < (s.tickOf x.due + 1) * s.tickNs)

/-- Whether Ladle can take an item now (R264, R293, R294): a POST is held while the timer list is full or its region
pushes back as in the compact configuration. -/
def State.canAccept (s : State) (x : Item) : Bool :=
  if s.toTimer x then decide ((s.region x.region).timers.length < Config.timerSize)
  else decide (x.prio = 0) && s.hasPlace x.region x ||
    (decide (x.prio ≠ 0) && !s.pushes x.region && (s.hasPlace x.region x || s.spills x.region x))

/-- Accept an item: it takes the next acceptance number and goes to its timer list or ready queue. -/
def State.accept (s : State) (x : Item) : State :=
  let x := { x with seq := s.ld.seq + 1, fseen := s.ld.fences }
  let s := { s with ld := { s.ld with seq := s.ld.seq + 1 } }
  if s.toTimer x then
    let r := s.region x.region
    let s := s.setRegion x.region { r with timers := insertTimer s.tickNs x r.timers }
    if (s.region x.region).timers.length = Config.timerSize then s.raise (0x800 + 32 * x.region + 6) else s
  else s.enterReady x

/-! ### The choice of the next item (R283 to R287, R431) -/

/-- Host work pending in a region (R284). -/
def State.hostWork (s : State) (p : Nat) : Bool :=
  (s.region p).ready.any (fun x => decide (x.prio ≤ 6)) ||
  (List.range 8).any (fun t => match (s.core (8 * p + t)).item with | some x => decide (x.prio ≤ 6) | none => false) ||
  s.links.any (fun e => decide (regionOfLink e.1 = p) &&
    (e.2.cmds.any (fun c => match c.2 with
      | some m => (match m.why with | .hostRead _ _ _ => true | .row _ _ => true | .slcRow _ _ => true | _ => false)
      | none => false)))

/-- Ring distance of two positions out of 8 (R287). -/
def ringDist (a b : Nat) : Nat :=
  let d := if a ≤ b then b - a else a - b
  Nat.min d (8 - d)

/-- Whether an item may leave its home tile for core `t` (R287, R431). -/
def State.stealable (s : State) (t : Nat) (x : Item) : Bool :=
  let home := x.affinity
  let same := decide (regionOfTile t = regionOfTile home)
  if (s.tile home).quiesced then same
  else decide (x.enq + s.stealDelay ≤ s.now) && !s.coreIdle home &&
    (same || (!x.pin && decide (s.param 0x050031 0 = 1)))

/-- The flow head's number, if the flow is in use. -/
def State.flowNr (s : State) (f : Nat) : Nat := match s.flow f with | some y => y.nr | none => 0

/-- R284, R288 and R289 for core `t`: banks. The input bank of a segment is taken on its home tile. -/
def State.banksOk (s : State) (t : Nat) (x : Item) : Bool :=
  if x.banks = 0 then true
  else
    let held := if x.holds then 1 else 0
    let own := if t = x.affinity then s.scanFree t + held ≥ x.banks else s.scanFree t + 1 ≥ x.banks ∧ 1 ≤ s.scanFree x.affinity + held
    let left := if t = x.affinity then s.scanFree t + held - x.banks else s.scanFree t + 1 - x.banks
    decide own && (!x.ordered || decide (x.fseq = s.flowNr x.flow ∨ 3 ≤ left))

/-- Whether an item is eligible for core `t` (R284, R285). -/
def State.eligibleItem (s : State) (t : Nat) (x : Item) : Bool :=
  !(s.tile t).quiesced && s.banksOk t x && decide (x.fseq < s.flowNr x.flow + 64 ∨ x.ordered = false) &&
  (if x.kind = .selfTest then !s.hostWork x.region else true)

/-- The items core `t` may take now, with their rank: own tile first, then region peers by distance, then other regions
(R283, R287). -/
def State.candidates (s : State) (t : Nat) : List (Nat × Item) :=
  let p := regionOfTile t
  (List.range 8).flatMap (fun q =>
    ((s.region q).ready.filter (fun x => s.eligibleItem t x && (decide (x.affinity = t) || s.stealable t x))).map (fun x =>
      (if x.affinity = t then 0
       else if q = p then 1 + 64 * ringDist (t % 8) (x.affinity % 8) + x.affinity % 8
       else 1024 + 64 * ringDist p q + q, x)))

/-- The next item of core `t` (R283): highest level, then nearest home, then oldest. Level 7 items wait while a level
above has an eligible item in the region (R285). -/
def State.chooseItem (s : State) (t : Nat) : Option Item :=
  let p := regionOfTile t
  let above := (s.region p).ready.any (fun x => decide (x.level < 7) && (List.range 8).any (fun u => s.eligibleItem (8 * p + u) x))
  let l := (s.candidates t).filter (fun e => decide (e.2.level < 7) || !above)
  let key := fun (e : Nat × Item) => (e.2.level, e.1, e.2.seq)
  (bestBy (fun a b =>
    let x := key a
    let y := key b
    decide (x.1 < y.1 ∨ (x.1 = y.1 ∧ (x.2.1 < y.2.1 ∨ (x.2.1 = y.2.1 ∧ x.2.2 < y.2.2))))) l).map (·.2)

/-- The item core `t` starts next: the one its slice holds, while that is still there and eligible (R283). -/
def State.nextItem (s : State) (t : Nat) : Option Item :=
  match (s.tile t).ahead with
  | some n => match (s.candidates t).find? (fun e => decide (e.2.seq = n)) with
    | some e => some e.2
    | none => s.chooseItem t
  | none => s.chooseItem t

/-- Take an item out of its region's ready queue. -/
def State.takeItem (s : State) (x : Item) : State :=
  let r := s.region x.region
  (s.setRegion x.region { r with ready := r.ready.filter (fun y => decide (y.seq ≠ x.seq)) }).notePush x.region

/-! ### What a dispatch sets on a core (R244) -/

/-- Zero the core data area, the upper half of bank 15. -/
def State.zeroDataArea (s : State) (t : Nat) : State :=
  let x := s.tile t
  let b := s.bank t 15
  let gone := fun (n : Nat) => let e := mget (0, false) b.remap n; e.2 && decide (16384 ≤ e.1.toNat)
  let s := s.setTile t { x with
    mem := x.mem.filter (fun e => !decide (0x1F0000 ≤ e.1 ∧ e.1 < 0x200000))
    synd := x.synd.filter (fun e => !decide (wordKey 15 16384 ≤ e.1 ∧ e.1 < wordKey 16 0))
    spare := x.spare.filter (fun e => !(decide (e.1 / 4 = 15) && gone (e.1 % 4))) }
  s.setBank t 15 { s.bank t 15 with merge := (s.bank t 15).merge.filter (fun e => decide (e.word < 16384)) }

/-- The image bytes of the program a handle names. -/
def State.imageOf (s : State) (inst handle : Nat) : Option (Bytes × List Nat × List Nat) :=
  match s.prog inst handle with
  | some (.program b l d) => some (b, l, d)
  | _ => none

/-- Base of the code area (R243). -/
def codeBase : Nat := 0x1E0000

/-- Whether an entry PC is word aligned, inside the image and one of its labels (R245, R256). -/
def State.entryOk (s : State) (inst handle pc : Nat) : Bool :=
  match s.imageOf inst handle with
  | some (b, l, _) => decide (pc % 4 = 0 ∧ codeBase ≤ pc ∧ pc < codeBase + b.length) && l.contains (pc - codeBase)
  | none => false

/-- Whether the code area of tile `t` holds an image. -/
def State.holdsImage (s : State) (t : Nat) (b : Bytes) : Bool := decide ((s.readSpan t codeBase b.length 15).1 = some b)

/-- Load an item's image into the code area, through port A of bank 15, if it is not there (R244, R300, R302). -/
def State.loadImage (s : State) (t : Nat) (x : Item) : State :=
  match s.imageOf x.inst x.handle with
  | some (b, _, _) => if s.holdsImage t b then s else (s.writeSpan t codeBase b 15).2
  | none => s

/-- Set a core up for the first instruction of an item (R244); the watchdog starts. -/
def State.setUpCore (s : State) (t : Nat) (x : Item) (entry arg : Word) : State :=
  let s := s.loadImage t x
  let k := s.core t
  let s := if k.prevInst = x.inst then s else s.zeroDataArea t
  let k := s.core t
  let s := { s with ld := { s.ld with winDispatched := mset [] s.ld.winDispatched t (s.windowSizes x.inst) } }
  s.setCore t { k with
    a := mset 0 (mset 0 [] 0 arg) 7 0x00200000
    lk := 0, rc := 0, z := false, n := false, c := false, v := false
    pc := entry, ev := 0x7F, evp := 0, shadow := 0
    mode := .running, item := some x, dispatched := s.now, delay := none, indirect := false, skip := false, rpt := none
    pastA := [], pastLk := [], pastRc := [], pastE := [], pastM := []
    prevInst := x.inst, image := some (x.inst, x.handle), seen := x.fseen, evSeen := x.fseen
    topRead := none, clockOff := false }

/-- A core without an item, its other registers as the item left them. -/
def State.freeCore (s : State) (t : Nat) : State :=
  let k := s.core t
  s.setCore t { k with
    mode := .idle, item := none, delay := none, indirect := false, skip := false, rpt := none
    engOut := 0, camsOut := 0, heldPost := none, topRead := none, clockOff := false }

/-! ### Engine work of an item that ends (R248, R342, R356) -/

/-- Remove engine jobs from every queue and lane of every tile. -/
def State.dropJobs (s : State) (p : Job → Bool) : State :=
  let gone := fun (j : Option Job) => match j with | some x => if p x then none else some x | none => none
  foldS (fun (s : State) (e : Nat × Tile) =>
    let x := s.tile e.1
    let l := x.lanes
    let c := x.crypt
    s.setTile e.1 { x with
      lanes := { l with
        rxQ := l.rxQ.filter (fun j => !p j), rxRun := gone l.rxRun
        exQ := l.exQ.filter (fun j => !p j), exRun := gone l.exRun }
      crypt := { c with
        cxQ := c.cxQ.filter (fun j => !p j)
        cxRun := c.cxRun.filter (fun j => (gone j.2).isSome)
        dgQ := c.dgQ.filter (fun j => !p j)
        dgRun := c.dgRun.filter (fun j => (gone j.2).isSome) } }) s s.tiles

/-- Close the context records an item opened: references released, records zeroed (R356, R370). -/
def State.closeRecords (s : State) (t n : Nat) : State :=
  let s := foldS (fun (s : State) (e : Nat × CtxRec) =>
    if e.2.owner = some (t, n) then
      let s := s.dropKey false e.2.kslot.toNat e.2.gen
      { s with keys := { s.keys with ctx := mset {} s.keys.ctx e.1 {} } }
    else s) s s.keys.ctx
  foldS (fun (s : State) (e : Nat × DigRec) =>
    if e.2.owner = some (t, n) then
      let s := if e.2.hmac then s.dropKey true e.2.kslot e.2.gen else s
      { s with keys := { s.keys with dig := mset {} s.keys.dig e.1 {} } }
    else s) s s.keys.dig

/-- Cancel the posted engine work of an item (R248): its jobs are stopped, its records closed, its CAM searches and what
they would answer dropped. -/
def State.cancelWork (s : State) (t n : Nat) : State :=
  let s := s.dropJobs (fun j => decide (j.item = n))
  let s := s.closeRecords t n
  let mine := fun (x : Search) => match x.core with | some (u, m, _) => decide (u = t ∧ m = n) | none => false
  { s with cam := { s.cam with
      waiting := s.cam.waiting.filterMap (fun e => match e.2.filter (fun x => !mine x) with | [] => none | l => some (e.1, l))
      flying := s.cam.flying.filter (fun x => !mine x) } }

/-! ### Sending events (R241, R242, R262, R293) -/

/-- A Ladle event with a wake tag: every held item of the sender's instance and region that it matches becomes ready
(R293). -/
def State.wakeTag (s : State) (p inst tag : Nat) : State :=
  let r := s.region p
  let hit := fun (x : Item) => x.wake && decide (x.wtag = tag ∧ x.inst = inst)
  let go := r.timers.filter hit
  let s := s.setRegion p { r with timers := r.timers.filter (fun x => !hit x) }
  foldS (fun (s : State) (x : Item) => s.enterReady { x with fseen := s.ld.fences }) s go

end Sys2Proof.Machine
end

