-- ==== Sys2Proof/Machine/Reads.lean ====
section
/-! DEFINITION. Reading codewords (07): one READ_PAGE per codeword
(assumption 11), the rungs of the retry ladder and the rung-5 rebuild (R194). -/

namespace Sys2Proof.Machine

/-! ### Issuing reads -/

/-- The READ_PAGE of one codeword on rung 0. -/
def readOf (c : Loc) (fg : Bool) (why : Why) : MCmd :=
  { op := .readPage, slc := c.slc, die := c.die, planes := BitVec.ofNat 4 (2 ^ c.plane), block := c.block, page := c.page,
    cwmask := BitVec.ofNat 16 (2 ^ (4 * c.plane + c.cw)), why := why, foreground := fg }

/-- The same, with the tracked offsets of the instant it is issued. -/
def State.newRead (s : State) (c : Loc) (fg : Bool) (why : Why) : MCmd :=
  { readOf c fg why with offs := s.senseOffs c.link (readOf c fg why) 0 }

/-- The command ID of a codeword already on the ladder (R192). -/
def Link.onLadder (x : Link) (c : Loc) : Option Nat :=
  (x.climbs.find? (fun e => match e.2, mget none x.cmds e.1 with
    | some k, some m => decide (1 ≤ k.rung ∧ m.op = .readPage ∧ m.slc = c.slc ∧ m.die = c.die ∧ m.block = c.block ∧
        m.page = c.page ∧ m.planes = BitVec.ofNat 4 (2 ^ c.plane) ∧ m.cwmask = BitVec.ofNat 16 (2 ^ (4 * c.plane + c.cw)))
    | _, _ => false)).map (·.1)

/-- Whether the parity page of a band's row is held and programmed (R102, R194). -/
def State.parityReady (s : State) (k r : Nat) : Bool :=
  decide (0 < mget 0 s.st.parity k) && (mget none s.st.paritySlot (2048 * k + r)).isSome &&
  decide (s.countCmds (fun m => decide (m.why = .parity k r)) = 0)

/-- The band row that the codeword of a READ_PAGE belongs to: for a row resident in SLC, the row it is a copy of. -/
def State.rowOfRead (s : State) (l : Nat) (m : MCmd) : Nat × Nat :=
  let k := s.bandAtPlace l m.die m.block
  if m.slc then
    let hit := fun (r : Nat × Nat × Nat) => decide (r.2.1 = bandIndex k ∧ r.2.2 = m.page)
    match s.st.slcs.find? (fun e => match e.2 with
      | some x => decide (bandRegion e.1 = bandRegion k) && (x.pages.any hit || x.rows.any hit)
      | none => false) with
    | some (b, some x) => match x.pages.find? hit with
      | some r => (b, r.1 / 8)
      | none => match x.rows.find? hit with
        | some r => (b, r.1)
        | none => (k, m.page)
    | _ => (k, m.page)
  else (k, m.page)

/-- The codeword index of a one-codeword read. -/
def cwIndex (m : MCmd) : Nat := (List.range 16).foldl (fun a i => if bit m.cwmask i then i % 4 else a) 0

/-- The seven matching codewords of a row's other dieblocks, and the one of its parity page (R194). -/
def State.rebuildLocs (s : State) (l : Nat) (m : MCmd) : List Loc :=
  let (k, r) := s.rowOfRead l m
  let t := tileOfLink l % 8
  let pl := cwPlane m
  let c := cwIndex m
  let p := bandRegion k
  let others := ((List.range 8).filter (fun u => decide (u ≠ t))).map (fun u => s.loc p (bandIndex k) (512 * r + 64 * u + 16 * pl + 4 * c))
  match mget none s.st.paritySlot (2048 * k + r) with
  | some n => others ++ [{ s.parityLoc p n with plane := pl, cw := c }]
  | none => others

/-- Begin rung 5 for the read `cid` of link `l`: 8 reads, each to climb alone (R194); answers whether it could begin. -/
def State.startRebuild (s : State) (l cid : Nat) (m : MCmd) : Bool × State :=
  let (k, r) := s.rowOfRead l m
  let locs := s.rebuildLocs l m
  if s.parityReady k r = false ∨ locs.length ≠ 8 ∨ locs.any (fun c => !s.reachable c) then (false, s)
  else
    let s := s.senseOver l cid
    let x := s.link l
    let cl : Climb := match mget none x.climbs cid with | some c => c | none => {}
    let s := s.putLink l { x with climbs := mset none x.climbs cid (some { cl with rung := 5, sub := 0, framesLeft := 0, responded := true, frames := [], soft := false, rebuild := 8, parts := [] }) }
    (true, foldS (fun (s : State) (c : Loc) => s.sendMedia c.link (s.newRead c m.foreground (.rebuild l cid))) s locs)

/-- The lowest number from 256 on that no rebuild without a command uses. -/
def Link.freePseudo (x : Link) : Nat → Nat → Nat
  | 0, k => k
  | n + 1, k => if mget none x.cmds k = none then k else x.freePseudo n (k + 1)

/-- Read one codeword: it joins a climb under way (R192); on a link or die that cannot answer, or a link in full retrain
whose band holds parity, it goes to rung 5 (R435). Answers false when it can be read by no means. -/
def State.readCw (s : State) (c : Loc) (fg : Bool) (why : Why) : Bool × State :=
  let x := s.link c.link
  match x.onLadder c with
  | some cid =>
    let cl : Climb := match mget none x.climbs cid with | some k => k | none => {}
    (true, s.putLink c.link { x with climbs := mset none x.climbs cid (some { cl with joined := cl.joined ++ [why] }) })
  | none =>
    let m := readOf c fg why
    let wait := if x.retraining.isSome then
        (s.putLink c.link { x with cmds := mset none x.cmds (x.freePseudo (x.cmds.length + 1) 256) (some m) }).startRebuild c.link
          (x.freePseudo (x.cmds.length + 1) 256) m
      else (false, s)
    if wait.1 then (true, wait.2)
    else if s.reachable c then (true, s.sendMedia c.link (s.newRead c fg why))
    else
      let cid := x.freePseudo (x.cmds.length + 1) 256
      let s1 := s.putLink c.link { x with cmds := mset none x.cmds cid (some m) }
      match s1.startRebuild c.link cid m with
      | (true, s2) => (true, s2)
      | (false, _) => (false, s)

/-- Sense a codeword again on a rung, with the command ID its response has freed (R171, R191). -/
def State.senseAgain (s : State) (l cid : Nat) (m : MCmd) (rung sub : Nat) : State :=
  let s := s.senseOver l cid
  let x := s.link l
  let cl : Climb := match mget none x.climbs cid with | some c => c | none => {}
  let m' := { m with reads := if rung = 2 then 3 else if rung = 3 then 5 else if rung = 4 then 7 else 1,
                     sstep := if rung < 2 then 0 else 2, offs := s.senseOffs l m (s.rungShift l m rung sub) }
  (s.putLink l ({ x with climbs := mset none x.climbs cid (some { cl with rung := rung, sub := sub }) }.issue s.now cid m')).pumpLink l

/-- Turn every read made for reasons `p` into one that serves nothing: what it returns is dropped. -/
def State.forget (s : State) (p : Why → Bool) : State :=
  let f := fun (m : MCmd) => if p m.why then { m with why := Why.firmware } else m
  { s with links := s.links.map (fun e => (e.1, { e.2 with
      queue := e.2.queue.map f
      cmds := e.2.cmds.map (fun c => (c.1, c.2.map f))
      climbs := e.2.climbs.map (fun c => (c.1, c.2.map (fun (k : Climb) => { k with joined := k.joined.filter (fun w => !p w) }))) })) }

end Sys2Proof.Machine
end

