-- ==== Sys2Proof/Machine/Data.lean ====
section
/-! DEFINITION. The data commands (03): APPEND, READ, OVERWRITE, the slab state commands, and the data movement that
carries them out. -/

namespace Sys2Proof.Machine

def State.modOp (s : State) (q tag : Nat) (f : Op → Op) : State :=
  match s.op q tag with | some o => s.setOp q tag (some (f o)) | none => s

/-- Release the key reference of a command (R352). -/
def State.releaseKey (s : State) (q tag : Nat) : State :=
  match s.op q tag with
  | some o => match o.keyGen with
    | some (k, n) => (s.dropKey false k n).modOp q tag (fun o => { o with keyGen := none })
    | none => s
  | none => s

/-- Drop what a command still has under way in the store: the codewords it waits for. -/
def State.forgetOp (s : State) (q tag : Nat) : State :=
  s.forget (fun w => match w with | .hostRead a b _ => decide (a = q ∧ b = tag) | _ => false)

/-! ### Results (R64) -/

/-- RESULT of APPEND, OVERWRITE and FLUSH from what was kept. -/
def writeResult (first grains blocks tail : Nat) : DWord :=
  BitVec.ofNat 64 (first % 1048576 + grains * 1048576 + blocks * 34359738368 + tail * 281474976710656)

/-- RESULT of a write command as it stands. -/
def State.opResult (s : State) (o : Op) : DWord :=
  if Sqe.opcode o.sqe = 2 then BitVec.ofNat 64 (o.bytesOut + o.units * 4294967296)
  else if o.grains = 0 ∧ Sqe.opcode o.sqe = 7 then 0
  else
    let tail := match s.slabIdx o with
      | some ti => if Sqe.fStream o.sqe then (mget [] s.st.tails ti).length else 0
      | none => 0
    writeResult o.first o.grains o.blocks tail

/-- End a command that moves data, with a class and code; what it kept is counted (R64, R81). -/
def State.endData (s : State) (cqOk : Bool) (q tag : Nat) (cls : CplClass) (code : Code) : State :=
  match s.op q tag with
  | none => s
  | some o => ((s.releaseKey q tag).forgetOp q tag).post cqOk q tag cls code (s.opResult o) o.slack false

/-- Fail a command that moves data: the queue freezes (R88). -/
def State.failData (s : State) (cqOk : Bool) (q tag : Nat) (code : Code) (detail : DWord) : State :=
  match s.op q tag with
  | none => s
  | some o => ((s.releaseKey q tag).forgetOp q tag).fail cqOk q tag code detail (s.opResult o)

/-! ### Write targets (R113, R109, R110) -/

/-- Where appends to a slab go: the move's target once MOVE_BEGIN is persisted and its first-row reads have passed, nowhere until
then (R113, R137, R139), nor while the band holds a torn page or has lost a dieblock that cannot be replaced, until it is
relocated (R115, R137). -/
def State.appendPlace (s : State) (ti : Nat) : Option (Nat × Nat) :=
  match mget none s.st.moves ti with
  | some m => if m.begun ∧ (s.band m.dstRegion m.dstBand).taken = false ∧ (s.band m.dstRegion m.dstBand).lossy = false then
      some (m.dstRegion, m.dstBand) else none
  | none =>
    let x := s.slab ti
    let b := s.band x.region x.band
    if b.torn ∨ b.lossy then none else some (x.region, x.band)

/-- A write needs a band that nothing can give (R118). -/
def State.noBand (s : State) : Bool := decide (s.emptySlabs = 0 ∧ s.sparePool ≤ 0)

/-- An append waits for the replacement of its band, and nothing can give one (R118). -/
def State.appendStuck (s : State) (ti : Nat) : Bool :=
  let x := s.slab ti
  (mget none s.st.moves ti).isNone && (s.band x.region x.band).lossy && s.noBand

/-- Whether `n` grains and a tail of `tail` bytes in place of `old` may enter staging for band (p, b), beside the room `held` that
the command has already (R15, R102, R121, R127, R131, R197). A commit group enters staging whole (assumption 20). -/
def State.canStage (s : State) (p b n tail old held : Nat) : Bool :=
  let grains := fun (k : Nat) => (k + 1023) / 1024
  s.regionReady p && decide (s.stagedIn p + n + grains tail ≤ s.stageShare + grains old + held) &&
  decide (s.parityHeld p < Config.parityPages) && decide (mget none s.st.repairs (bandKey p b) = none) &&
  s.journalRoom 8 && decide (s.jr.holdStep = 0)

/-- Whether a log slab takes more grains: its band is OPEN, or taken to be. -/
def State.logOpen (s : State) (l : LogSlab) : Bool :=
  let x := s.band l.region l.band
  decide (x.closedAt = none) && (decide (x.st = .opened) || x.taken)

/-- The log slab of an instance that is still being written. -/
def State.openLog (s : State) (i : Nat) : Option (Nat × LogSlab) :=
  match s.st.logs.find? (fun e => match e.2 with
    | some l => decide (l.inst = i) && s.logOpen l | none => false) with
  | some (n, some l) => some (n, l)
  | _ => none

/-- The lowest free log slab number. -/
def State.freeLog (s : State) : Nat :=
  ((List.range (s.st.logs.length + 1)).find? (fun n => decide (mget none s.st.logs n = none))).getD 0

/-- The full log slab with the fewest live grains among those that satisfy `p` (R110). -/
def State.leanLog (s : State) (p : LogSlab → Bool) : Option Nat :=
  let l := s.st.logs.filterMap (fun e => match e.2 with
    | some x => if p x && !s.logOpen x then some (s.logLive e.1, e.1) else none
    | none => none)
  (bestBy (fun (a b : Nat × Nat) => decide (a.1 < b.1 ∨ (a.1 = b.1 ∧ a.2 < b.2))) l).map (·.2)

/-- The slab with the most extents (R111). -/
def State.mostExtents (s : State) : Option Nat :=
  let slabs := s.st.exts.filterMap (fun e => e.2.map (·.slab))
  bestBy (fun a b => decide (slabs.count b < slabs.count a ∨ (slabs.count a = slabs.count b ∧ a < b))) slabs

/-- What an OVERWRITE of `n` grains finds. -/
inductive LogTarget where
  | at (n : Nat) (l : LogSlab)
  | wait
  | exhausted
deriving DecidableEq, Repr

/-- Whether a merge that consumes extents of log slab `n` is under way. -/
def State.merging (s : State) (n : Nat) : Bool :=
  s.st.moves.any (fun e => match e.2 with
    | some m => decide (m.why = .merge) && s.st.exts.any (fun y => match y.2 with
        | some z => decide (z.slab = e.1 ∧ z.logSlab = n) | none => false)
    | none => false)

/-- Wait for the merge of a log slab, asking for it in the foreground; where nothing can give its target the write is refused
(R110, R118). -/
def State.awaitMerge (s : State) : Option Nat → LogTarget × State
  | some n => if s.noBand && !s.merging n then (.exhausted, s) else (.wait, s.askMerge n true)
  | none => (.wait, s)

/-- Take a new log slab for an instance, or ask for the merge that frees one (R109, R110, R118). -/
def State.newLog (s : State) (i : Nat) : LogTarget × State :=
  let mine := (s.st.logs.filter (fun e => match e.2 with | some l => decide (l.inst = i) | none => false)).length
  let all := (s.st.logs.filter (fun e => e.2.isSome)).length
  if Config.logSlabsPerInst ≤ mine then
    s.awaitMerge (s.leanLog (fun l => decide (l.inst = i)))
  else if Config.logSlabsDevice ≤ all then
    s.awaitMerge (s.leanLog (fun _ => true))
  else if s.noBand then (.exhausted, s)
  else match s.place? with
    | none => (.wait, s)
    | some (p, b) =>
      let n := s.freeLog
      let l : LogSlab := { inst := i, region := p, band := b, fill := 0 }
      let s := s.takeBand p b 1
      (.at n l, ({ s with st := { s.st with logs := mset none s.st.logs n (some l) } }))

/-- The log slab an OVERWRITE's group of `n` grains goes to. An open log slab without room for the group is full. A full
log index starts the merge of the slab with the most extents, and the group waits (R110, R111). -/
def State.logTarget (s : State) (i n : Nat) : LogTarget × State :=
  if s.freeExt = none then
    match s.mostExtents with
    | some ti => if s.noBand && (mget none s.st.moves ti).isNone then (.exhausted, s) else (.wait, s.askMove ti .merge true)
    | none => (.wait, s)
  else match s.openLog i with
    | some (k, l) => if l.fill + n ≤ Config.slabGrains then (.at k l, s) else (s.fillLog l).newLog i
    | none => s.newLog i

/-! ### Commit groups (R66, R67, R77) -/

/-- A commit group ready for staging: grains, bin codes of its blocks, the received bytes after it, the stream tail it
leaves, and whether it is the command's last. -/
structure Group where
  grains : List NewGrain
  bins : List (BitVec 2)
  rest : Bytes
  tail : Bytes
  last : Bool
deriving DecidableEq, Repr

/-- Cut bytes into grains of 1,024. -/
def cutGrains : Nat → Bytes → List Bytes
  | 0, _ => []
  | n + 1, b => slice b 0 1024 :: cutGrains n (b.drop 1024)

/-- The grain descriptor of a plain grain, and of the grains of a coded unit (R183). -/
def descPlain : BitVec 4 := 4
def descFirst (bin : Nat) : BitVec 4 := BitVec.ofNat 4 (8 + bin)
def descFurther : BitVec 4 := 12
def descKind (d : BitVec 4) : Nat := d.toNat / 4
def descBin (d : BitVec 4) : Nat := d.toNat % 4

/-- The grains of one coded unit. -/
def unitGrains (u : Nat × Bytes) : List NewGrain :=
  ((cutGrains (u.1 + 1) u.2).zip (List.range (u.1 + 1))).map (fun (e : Bytes × Nat) =>
    { data := e.1, desc := if e.2 = 0 then descFirst u.1 else descFurther })

/-- Code whole blocks until the next unit would take the group past 1,024 grains: the grains, the bin codes, the bytes
left, and whether the group was cut by its size. -/
def codeGroup : Nat → Nat → Bytes → List NewGrain × List (BitVec 2) × Bytes × Bool
  | 0, _, b => ([], [], b, false)
  | fuel + 1, n, b =>
    if b.length < 4096 then ([], [], b, false)
    else
      let u := krfSlab (b.take 4096)
      if 1024 < n + u.1 + 1 then ([], [], b, true)
      else
        let r := codeGroup fuel (n + u.1 + 1) (b.drop 4096)
        (unitGrains u ++ r.1, BitVec.ofNat 2 u.1 :: r.2.1, r.2.2.1, r.2.2.2)

/-- The next commit group of a write command, if what has arrived holds it. -/
def State.nextGroup (s : State) (o : Op) (ti : Nat) : Option Group :=
  let e := o.sqe
  let len := Sqe.length e
  if Sqe.opcode e = 7 then
    let t := mget [] s.st.tails ti
    let u := krfSlab t
    some { grains := unitGrains u, bins := [], rest := [], tail := [], last := true }
  else if Sqe.fReduce e then
    let r := codeGroup (o.pend.length / 4096 + 1) 0 o.pend
    let ended := decide (o.bytesIn = len)
    if r.2.2.2 then some { grains := r.1, bins := r.2.1, rest := r.2.2.1, tail := [], last := false }
    else if ended then some { grains := r.1, bins := r.2.1, rest := [], tail := r.2.2.1, last := true }
    else none
  else
    let n := Nat.min 1024 (len / 1024 - o.grains)
    if 1024 * n ≤ o.pend.length then
      some { grains := (cutGrains n o.pend).map (fun b => { data := b, desc := descPlain }), bins := [],
             rest := o.pend.drop (1024 * n), tail := [], last := decide (o.grains + n = len / 1024) }
    else none

/-- Encrypt the grains of a group under the command's key (R346). -/
def State.sealGrains (s : State) (o : Op) (first : Nat) (gs : List NewGrain) : List NewGrain :=
  match Sqe.fXts o.sqe, o.keyGen with
  | true, some (k, n) =>
    let key := s.keyBytes k n
    (gs.zip (List.range gs.length)).map (fun (e : NewGrain × Nat) =>
      { e.1 with data := xtsUnit false key (xtsTweak o.inst (Sqe.slabNo o.sqe) (first + e.2)) e.1.data })
  | _, _ => gs

/-- Write the bin codes of a group to APTR (R66): the bytes that hold them. -/
def State.putBins (s : State) (q tag : Nat) (o : Op) (bins : List (BitVec 2)) : State :=
  if bins = [] then s
  else
    let off := o.bins.length / 4
    s.auxWrite q tag (Sqe.aptr o.sqe + BitVec.ofNat 64 off) ((binListBytes (o.bins ++ bins)).drop off)

/-- Set a slab's stream tail; one that is held takes the write sequence number of its tag (R67, R91, R120). -/
def State.setTail (s : State) (ti : Nat) (t : Bytes) : State :=
  let n := if t = [] then 0 else s.st.wseq + 1
  ({ s with st := { s.st with
      tails := mset [] s.st.tails ti t, tailSeqs := mset 0 s.st.tailSeqs ti n, wseq := Nat.max s.st.wseq n } }).setSlab ti
    { s.slab ti with tail := decide (t ≠ []) }

/-- Stage one group of an APPEND or FLUSH at the write pointer. -/
def State.putAppend (s : State) (q tag : Nat) (o : Op) (ti p b : Nat) (g : Group) : State :=
  let wp := (s.slab ti).wp
  let n := g.grains.length
  let s := s.putBins q tag o g.bins
  let s := if n = 0 then s else s.stageGroup ti wp p b wp 0 (s.sealGrains o wp g.grains)
  let s := if Sqe.fStream o.sqe = true ∨ Sqe.opcode o.sqe = 7 then s.setTail ti g.tail else s
  let s := if n = 0 then s else s.advanceWp ti (wp + n)
  let s := s.setOp q tag (some { o with
    grains := o.grains + n, blocks := o.blocks + g.bins.length, bins := o.bins ++ g.bins, pend := g.rest,
    first := if o.grains = 0 then wp else o.first, groupsDone := g.last, share := none })
  s.issueRows

/-- Stage one group of an OVERWRITE in a log slab: a new log extent, newest for its grains (R109). -/
def State.putOverwrite (s : State) (q tag : Nat) (o : Op) (ti k : Nat) (l : LogSlab) (g : Group) : State :=
  let first := Sqe.grain o.sqe + o.grains
  let n := g.grains.length
  let pos := s.freeExt.getD 0
  let s := s.stageGroup ti first l.region l.band l.fill 1 (s.sealGrains o first g.grains)
  let e : Extent := { slab := ti, first := first, count := n, logSlab := k, logFirst := l.fill, age := s.st.extAge + 1,
                      cgid := mget 0 s.st.cgid ti }
  let s := { s with st := { s.st with
    extAge := s.st.extAge + 1
    exts := mset none s.st.exts pos (some e)
    logs := mset none s.st.logs k (some { l with fill := l.fill + n }) } }
  let s := s.setSlab ti { s.slab ti with log := true }
  let s := s.journal l.region false (.logExtent pos e)
  let s := if l.fill + n = Config.slabGrains then s.fillLog { l with fill := l.fill + n } else s
  let s := (s.dropDead).uncache ti first n
  let s := s.setOp q tag (some { o with
    grains := o.grains + n, pend := g.rest, first := Sqe.grain o.sqe, groupsDone := g.last, logSlab := some k, share := none })
  s.issueRows

/-- The write of a group's bin codes faults: the host address that the row told lies among its bytes (R66). -/
def binsFault (o : Op) (bins : List (BitVec 2)) : Option DWord :=
  match o.binsBad, bins with
  | some a, _ :: _ => if a < Sqe.aptr o.sqe + BitVec.ofNat 64 ((o.bins.length + bins.length + 3) / 4) then some a else none
  | _, _ => none

/-- Grains of a region's share that a command's arriving group holds. -/
def heldIn (o : Op) (p : Nat) : Nat := match o.share with | some (r, k) => if r = p then k else 0 | none => 0

/-- Move what has arrived for a write command into staging, group by group, as far as staging, the journal and the
target allow (R121, R122); complete it once its last group is staged. -/
def State.pumpWrite (s : State) (q tag : Nat) (cqOk : Bool) : Nat → State
  | 0 => s
  | fuel + 1 =>
    match s.op q tag with
    | none => s
    | some o =>
      if o.started = false ∨ o.listOk = false then s
      else match s.slabIdx o with
        | none => s
        | some ti => match s.nextGroup o ti with
          | none => s
          | some g =>
            let after := fun (s : State) => if g.last then s.endData cqOk q tag .success 0x00 else s.pumpWrite q tag cqOk fuel
            if Sqe.opcode o.sqe = 3 then
              match s.logTarget o.inst g.grains.length with
              | (.exhausted, s) => (s.writeClose o.inst (Sqe.slabNo o.sqe)).endData cqOk q tag .refused 0x1C
              | (.wait, s) => s
              | (.at k l, s1) =>
                if s1.canStage l.region l.band g.grains.length 0 0 (heldIn o l.region) then after (s1.putOverwrite q tag o ti k l g) else s1
            else match s.appendPlace ti with
              | none => if Sqe.opcode o.sqe = 1 ∧ s.appendStuck ti then
                  (s.writeClose o.inst (Sqe.slabNo o.sqe)).endData cqOk q tag .refused 0x1C
                else s
              | some (p, b) =>
                let old := (mget [] s.st.tails ti).length
                let tail := if Sqe.fStream o.sqe then g.tail.length else if Sqe.opcode o.sqe = 7 then 0 else old
                if s.canStage p b g.grains.length tail old (heldIn o p) = false then s
                else if Config.slabGrains < (s.slab ti).wp + g.grains.length then s.endData cqOk q tag .refused 0x17
                else match binsFault o g.bins with
                  | some a => s.failData cqOk q tag 0x42 a
                  | none => after (s.putAppend q tag o ti p b g)

/-- Whether a command is an APPEND, OVERWRITE or FLUSH. -/
def isWrite (e : Sqe) : Bool := decide (Sqe.opcode e = 1 ∨ Sqe.opcode e = 3 ∨ Sqe.opcode e = 7)

/-- Let every write command that waits for staging, the journal or a move go on, oldest first. -/
def State.pumpWrites (s : State) (cqOk : Bool) : State :=
  foldS (fun (s : State) (e : Nat × Option Op) => match e.2 with
    | some o => if o.started && isWrite o.sqe then s.pumpWrite (e.1 / 32) (e.1 % 32) cqOk 32 else s
    | none => s) s s.hq.ops

/-! ### Checks shared by the data commands (R524) -/

/-- The cipher key checks of R58, R345: KEY_RANGE, then a slot that XTS cannot use. -/
def State.xtsRange (s : State) (e : Sqe) (o : Op) : Bool := Sqe.fXts e && !(s.inst o.inst).hasCipher (Sqe.kslot e)
def State.xtsUnusable (s : State) (e : Sqe) : Bool := Sqe.fXts e && !(s.cslot (Sqe.kslot e)).usable [32, 64]

/-- Steps 5 to 7 of R524, then the command's own causes on its slab. -/
def State.dataChecks (s : State) (e : Sqe) (o : Op) (own : Nat → Slab → Option Code) : Option Code :=
  if dataEncodingOk e = false then some 0x11
  else match s.slabIdx o with
    | none => some 0x14
    | some ti =>
      match firstCause [(s.xtsRange e o, 0x1E), (s.xtsUnusable e, 0x11)] with
      | some c => some c
      | none => own ti (s.slab ti)

/-- Begin a command on its slab, or let it wait while a region it needs is not ready (R68, R455). -/
def State.beginOn (s : State) (q tag : Nat) (o : Op) (ready : Bool) (run : Op → State) : State :=
  if ready then
    match Sqe.fXts o.sqe, s.takeKey false (Sqe.kslot o.sqe) with
    | true, (some n, s') => { run { o with keyGen := some (Sqe.kslot o.sqe, n), waiting := none } with keys := s'.keys }
    | _, _ => run { o with waiting := none }
  else s.setOp q tag (some { o with started := false, listOk := false, waiting := match o.waiting with | some t => some t | none => some s.now })

/-- A slab's write closure (R44). -/
def State.closedInst (s : State) (i : Nat) : Bool := decide ((s.inst i).st = .writeClosed)

/-! ### APPEND (R65 to R67) -/

/-- The causes of APPEND. The size of the overflow check counts a held stream tail, which leads the input (R65, R67; DEDUCED,
assumption 37): what is stored then never passes the slab's end, so SLAB_OVERFLOW changes no media (R88). -/
def State.appendOwn (s : State) (e : Sqe) (o : Op) : Option Code :=
  s.dataChecks e o (fun ti x => firstCause [
    (decide (x.st ≠ .opened), 0x15),
    (!Sqe.fStream e && decide (mget [] s.st.tails ti ≠ []), 0x1B),
    (s.closedInst o.inst, 0x1C),
    (decide (Config.slabGrains < x.wp + grainsOf ((if Sqe.fStream e then (mget [] s.st.tails ti).length else 0) + Sqe.length e)), 0x17)])

/-- APPEND: the command starts; its data then arrives by HOST_DATA_ARRIVAL. A held tail leads its input. -/
def execAppend (q tag : Nat) (cqOk : Bool) (s : State) : Answer := answering cqOk s fun s =>
  .next (s.startCmd q tag (fun e => decide (Sqe.opcode e = 1)) (fun e o => s.appendOwn e o) false
    (fun e o =>
      match s.slabIdx o with
      | none => s
      | some ti =>
        if s.slabFree ti o.inst false = false then s
        else s.beginOn q tag o (s.slabReady ti o.inst) (fun o =>
          let wp := (s.slab ti).wp
          s.setOp q tag (some { o with
            listOk := Sqe.fInline e, first := wp, base := wp
            pend := if Sqe.fStream e then mget [] s.st.tails ti else [] }))))

/-! ### OVERWRITE (R70) -/

/-- Whether a grain range begins or ends inside a coded unit. -/
def State.splits (s : State) (ti lo hi wp : Nat) : Bool :=
  decide (descKind (s.desc ti lo) = 3) || (decide (hi < wp) && decide (descKind (s.desc ti hi) = 3))

def State.overwriteOwn (s : State) (e : Sqe) (o : Op) : Option Code :=
  s.dataChecks e o (fun ti x =>
    let lo := Sqe.grain e
    let hi := lo + Sqe.length e / 1024
    firstCause [
      (decide (x.st ≠ .opened ∧ x.st ≠ .full), 0x16),
      (decide (mget [] s.st.tails ti ≠ []), 0x1B),
      (decide (x.wp < hi), 0x18),
      (s.splits ti lo hi x.wp, 0x19),
      (s.closedInst o.inst, 0x1C)])

def execOverwrite (q tag : Nat) (cqOk : Bool) (s : State) : Answer := answering cqOk s fun s =>
  .next (s.startCmd q tag (fun e => decide (Sqe.opcode e = 3)) (fun e o => s.overwriteOwn e o) false
    (fun e o =>
      match s.slabIdx o with
      | none => s
      | some ti =>
        if s.slabFree ti o.inst false = false then s
        else s.beginOn q tag o (s.slabReady ti o.inst) (fun o =>
          s.setOp q tag (some { o with listOk := Sqe.fInline e, first := Sqe.grain e }))))

/-! ### READ (R68, R69) -/

/-- The regions that hold the grains a READ names (R68, R455). -/
def State.readReady (s : State) (ti inst lo hi : Nat) : Bool :=
  s.slabReady ti inst && (List.range (hi - lo)).all (fun i => match s.grainAt ti (lo + i) with
    | some (p, _, _) => s.regionReady p
    | none => true)

/-- Decrypt a grain of a READ under the command's key (R346). -/
def State.openGrain (s : State) (o : Op) (g : Nat) (b : Bytes) : Bytes :=
  match Sqe.fXts o.sqe, o.keyGen with
  | true, some (k, n) => xtsUnit true (s.keyBytes k n) (xtsTweak o.inst (Sqe.slabNo o.sqe) g) b
  | _, _ => b

/-- Deliver a grain of a READ: to the host buffer, or with EXPAND to the unit being expanded. -/
def State.deliverGrain (s : State) (q tag : Nat) (o : Op) (g : Nat) (b : Bytes) : State :=
  let d := s.openGrain o g b
  if Sqe.fReduce o.sqe then
    s.setOp q tag (some { o with want := o.want.erase g, got := o.got ++ [(g, d)] })
  else
    (s.hostWrite q tag (1024 * (g - Sqe.grain o.sqe)) d).setOp q tag
      (some { o with want := o.want.erase g, bytesOut := o.bytesOut + 1024 })

/-- UNCORRECTABLE at a grain (R88, R89). -/
def State.failGrain (s : State) (cqOk : Bool) (q tag g : Nat) : State :=
  s.failData cqOk q tag 0x43 (BitVec.ofNat 64 g)

/-- A grain of a READ is poisoned or lost: no grain from it on is waited for; the READ fails once those below it have come, so that
DETAIL holds the first such grain (R184, R195). -/
def State.lackGrain (s : State) (q tag g : Nat) : State :=
  match s.op q tag with
  | none => s
  | some o =>
    let b := match o.bad with | some b => Nat.min b g | none => g
    s.setOp q tag (some { o with bad := some b, want := o.want.filter (fun x => decide (x < b)) })

/-- The codewords that hold grains of a slab outside staging: place, and the grains with their index in it. -/
def State.codewordsOf (s : State) (ti : Nat) : List Nat → List (Loc × List (Nat × Nat))
  | [] => []
  | g :: r =>
    let rest := s.codewordsOf ti r
    match s.grainAt ti g with
    | none => rest
    | some (p, b, at') =>
      let c := s.loc p b at'
      match rest with
      | (c', gs) :: more => if c' = c then (c, (g, grainIdx at') :: gs) :: more else (c, [(g, grainIdx at')]) :: rest
      | [] => [(c, [(g, grainIdx at')])]

/-- The staged grain that holds a slab's grain, if any. -/
def State.stagedGrain (s : State) (ti g : Nat) : Option Staged :=
  match s.grainAt ti g with
  | some (p, b, at') => s.stagedAt p b at'
  | none => none

/-- A grain of a READ that is at hand: its bytes as flash stores them and whether it is poisoned, from staging or else from the read
cache (R120, R413). -/
def State.atHand (s : State) (ti g : Nat) : Option (Bytes × Bool) :=
  match s.stagedGrain ti g with
  | some e => some (e.data, e.poison)
  | none => (s.cached ti g).map (fun b => (b, false))

/-- Ask for the grains a READ wants: those at hand are served at once, the others read codeword by codeword, none from a grain on
that cannot be had (R184); `w` is the host's answer to the writes of those at hand. -/
def State.requestGrains (s : State) (q tag ti : Nat) (w : HostWrite) (cqOk : Bool) (gs : List Nat) : State :=
  let writes := gs.any (fun g => (s.atHand ti g).isSome) &&
    (match s.op q tag with | some o => !Sqe.fReduce o.sqe | none => false)
  match w, writes with
  | .fault a, true => s.failData cqOk q tag 0x42 a
  | _, _ =>
    let s1 := foldS (fun (s : State) (g : Nat) => match s.atHand ti g, s.op q tag with
      | some (b, bad), some o => if bad then s.lackGrain q tag g else if o.want.contains g then s.deliverGrain q tag o g b else s
      | _, _ => s) s gs
    let cws := s.codewordsOf ti (gs.filter (fun g => (s.atHand ti g).isNone))
    foldS (fun (s : State) (e : Loc × List (Nat × Nat)) =>
      match s.op q tag with
      | none => s
      | some o =>
        if !(e.2.any (fun g => o.want.contains g.1)) then s
        else match s.readCw e.1 true (.hostRead q tag e.2) with
          | (true, s) => s
          | (false, s) => s.lackGrain q tag ((e.2.headD (0, 0)).1)) s1 cws

/-- How many further-grain descriptors follow a unit's first grain. -/
def State.furtherOf (s : State) (ti g : Nat) : Nat :=
  (((List.range 4).map (fun i => s.desc ti (g + 1 + i))).takeWhile (fun d => decide (descKind d = 3))).length

/-- The bytes of a unit whose grains have all come. -/
def unitBytes (got : List (Nat × Bytes)) (g n : Nat) : Bytes :=
  ((List.range n).map (fun i => ((got.find? (fun e => decide (e.1 = g + i))).map (·.2)).getD [])).flatten

/-- Expand the unit a READ with EXPAND has gathered (R69, R330, R334). Answers none once the command has ended. -/
def State.expandUnit (s : State) (q tag ti : Nat) (o : Op) (w : HostWrite) (cqOk : Bool) : Option State × State :=
  let g := o.at_
  let bin := descBin (s.desc ti g)
  let u := unitBytes o.got g (bin + 1)
  let detail := fun (off : Nat) => BitVec.ofNat 64 (g + off * 1048576)
  if slabHeaderOk bin (s.furtherOf ti g) u = false then (none, s.failData cqOk q tag 0x47 (detail 0))
  else if Sqe.length o.sqe < o.bytesOut + slabSrclen bin u then (none, s.endData cqOk q tag .success 0x04)
  else match slabExpand bin (s.furtherOf ti g) u with
    | .error e => (none, s.failData cqOk q tag (BitVec.ofNat 8 e.code) (detail e.off))
    | .ok out => match w with
      | .fault a => (none, s.failData cqOk q tag 0x42 a)
      | .ok =>
        let s := (s.hostWrite q tag o.bytesOut out).setOp q tag (some { o with
          got := [], at_ := g + bin + 1, units := o.units + 1, bytesOut := o.bytesOut + out.length })
        (some s, s)

/-- Carry a READ on as far as what it has allows. -/
def State.pumpRead (s : State) (q tag : Nat) (w : HostWrite) (cqOk : Bool) : Nat → State
  | 0 => s
  | fuel + 1 =>
    match s.op q tag with
    | none => s
    | some o => match s.slabIdx o with
      | none => s
      | some ti =>
        if o.want ≠ [] then s
        else match o.bad with
        | some g => s.failGrain cqOk q tag g
        | none =>
        if Sqe.fReduce o.sqe = false then s.endData cqOk q tag .success 0x00
        else if o.got ≠ [] then
          match s.expandUnit q tag ti o w cqOk with
          | (none, s) => s
          | (some s, _) => s.pumpRead q tag w cqOk fuel
        else if o.units = Sqe.field o.sqe 36 4 then s.endData cqOk q tag .success 0x00
        else
          let g := o.at_
          if (s.slab ti).wp ≤ g ∨ descKind (s.desc ti g) ≠ 2 then s.endData cqOk q tag .success 0x04
          else
            let gs := (List.range (descBin (s.desc ti g) + 1)).map (fun i => g + i)
            let s := s.setOp q tag (some { o with want := gs })
            (s.requestGrains q tag ti w cqOk gs).pumpRead q tag w cqOk fuel

/-- Steps a READ can take in one row: two for each unit, and one more. -/
def readFuel (e : Sqe) : Nat := 2 * Sqe.field e 36 4 + 2

/-- Begin moving a READ's data, once its descriptor list has been read (R60). -/
def State.startRead (s : State) (q tag : Nat) (o : Op) (w : HostWrite) (cqOk : Bool) : State :=
  match s.slabIdx o with
  | none => s
  | some ti =>
    let e := o.sqe
    let g := Sqe.grain e
    if Sqe.fReduce e then (s.setOp q tag (some { o with at_ := g })).pumpRead q tag w cqOk (readFuel e)
    else
      let gs := (List.range (Sqe.length e / 1024)).map (fun i => g + i)
      ((s.setOp q tag (some { o with want := gs })).requestGrains q tag ti w cqOk gs).pumpRead q tag w cqOk 2

def State.readOwn (s : State) (e : Sqe) (o : Op) : Option Code :=
  s.dataChecks e o (fun ti x =>
    let g := Sqe.grain e
    let last := if Sqe.fReduce e then g + 1 else g + Sqe.length e / 1024
    firstCause [
      (decide (x.st = .retired), 0x16),
      (decide (x.wp < last), 0x18),
      (Sqe.fReduce e && decide (descKind (s.desc ti g) ≠ 2), 0x1A)])

/-- READ: it starts, or waits while a region that holds a grain it reads is not ready. -/
def execRead (q tag : Nat) (w : HostWrite) (cqOk : Bool) (s : State) : Answer := answering cqOk s fun s =>
  .next (s.startCmd q tag (fun e => decide (Sqe.opcode e = 2)) (fun e o => s.readOwn e o) false
    (fun e o =>
      match s.slabIdx o with
      | none => s
      | some ti =>
        let g := Sqe.grain e
        let hi := if Sqe.fReduce e then Nat.min (g + 4 * Sqe.field e 36 4) (s.slab ti).wp else g + Sqe.length e / 1024
        let s1 := s.beginOn q tag o (s.readReady ti o.inst g hi) (fun o => s.setOp q tag (some { o with listOk := Sqe.fInline e }))
        match s1.op q tag with
        | some o' => if o'.started && o'.listOk then s1.startRead q tag o' w true else s1
        | none => s1))

/-- A codeword of a READ has been decoded: its grains are delivered, or the READ fails (R184, R195, R45). -/
def State.hostGrains (s : State) (q tag : Nat) (gs : List (Nat × Nat)) (data : Bytes) (poison : Bool) (w : HostWrite)
    (cqOk : Bool) : State :=
  match s.op q tag with
  | none => s
  | some o =>
    let mine := gs.filter (fun e => o.want.contains e.1)
    if poison then
      match mine with
      | [] => s
      | e :: _ => (s.lackGrain q tag e.1).pumpRead q tag w cqOk (readFuel o.sqe)
    else match w, Sqe.fReduce o.sqe || mine.isEmpty with
      | .fault a, false => s.failData cqOk q tag 0x42 a
      | _, _ =>
        let s := foldS (fun (s : State) (e : Nat × Nat) => match s.op q tag with
          | some o =>
            let b := slice data (1024 * e.2) 1024
            let s := match s.slabIdx o with | some ti => s.cacheGrain ti e.1 b | none => s
            s.deliverGrain q tag o e.1 b
          | none => s) s mine
        s.pumpRead q tag w cqOk (readFuel o.sqe)

/-- READ_WAIT_LIMIT: a command that has waited for a region for the limit is refused with NOT_READY (R68). -/
def execReadWaitLimit (q tag : Nat) (cqOk : Bool) (s : State) : Answer := answering cqOk s fun s =>
  match s.op q tag with
  | some o => match o.waiting with
    | some t => .next ((s.reach (t + 1000000 * s.waitLimitMs)).refuse q tag 0x1D)
    | none => .next s
  | none => .next s

/-! ### OPEN, CLOSE, RESET, FLUSH (R71, R93) -/

/-- Steps 5 and 6 of R524 for a command that uses no data pointer: only FENCE may be set. -/
def State.slabChecks (s : State) (e : Sqe) (o : Op) (own : Nat → Slab → Option Code) : Option Code :=
  if flagsOk e = false then some 0x11
  else match s.slabIdx o with
    | none => some 0x14
    | some ti => own ti (s.slab ti)

/-- OPEN: a band is placed and allocated (R71, R98 to R100). -/
def execOpenSlab (q tag : Nat) (cqOk : Bool) (s : State) : Answer := answering cqOk s fun s =>
  .next (s.startCmd q tag (fun e => decide (Sqe.opcode e = 4))
    (fun e o => s.slabChecks e o (fun _ x => firstCause [
      (decide (x.st ≠ .empty), 0x16),
      (!(List.range 8).any s.passes12, 0x1D),
      (s.place?.isNone, 0x1C)])) false
    (fun _ o =>
      match s.slabIdx o, s.place? with
      | some ti, some (p, b) =>
        if s.journalRoom 8 = false then s
        else
          let s := s.setOp q tag (some o)
          let s := s.setSlab ti { st := .opened, region := p, band := b, wp := 0, inst := o.inst }
          ((s.journalSlab ti).takeBand p b 0).endData true q tag .success 0x00
      | _, _ => s))

/-- CLOSE: the slab is FULL at its write pointer; its incomplete row is programmed (assumption 19). -/
def execCloseSlab (q tag : Nat) (cqOk : Bool) (s : State) : Answer := answering cqOk s fun s =>
  .next (s.startCmd q tag (fun e => decide (Sqe.opcode e = 5))
    (fun e o => s.slabChecks e o (fun ti x => firstCause [
      (decide (x.st ≠ .opened), 0x16),
      (decide (mget [] s.st.tails ti ≠ []), 0x1B)])) false
    (fun _ o =>
      match s.slabIdx o with
      | none => s
      | some ti =>
        if s.slabFree ti o.inst false = false ∨ s.journalRoom 8 = false then s
        else s.beginOn q tag o (s.slabReady ti o.inst) (fun o =>
          let s := (s.setOp q tag (some o)).fillSlab ti
          (s.issueRows).post true q tag .success 0x00 (BitVec.ofNat 64 (s.slab ti).wp) false false)))

/-- RESET: the slab is EMPTY and its band STALE (R71, R93, R113), once the journal buffer has had room for it (R127). -/
def execResetSlab (q tag : Nat) (cqOk : Bool) (s : State) : Answer := answering cqOk s fun s =>
  .next (s.startCmd q tag (fun e => decide (Sqe.opcode e = 6))
    (fun e o => s.slabChecks e o (fun _ x => firstCause [(decide (x.st = .retired), 0x16)])) false
    (fun _ o =>
      match s.slabIdx o with
      | none => s
      | some ti =>
        if s.slabFree ti o.inst true = false then s
        else s.beginOn q tag o (decide ((s.slab ti).st = .empty) || s.slabReady ti o.inst) (fun o =>
          let s := s.setOp q tag (some o)
          if s.emptyRoom ti then ((s.emptySlab ti).poolChanged).post true q tag .success 0x00 0 false false
          else ({ s with st := { s.st with emptying := s.st.emptying ++ [ti] } }).emptyStep ti)))

/-- Go on emptying the slabs of RESETs that waited for room in the journal buffer; one that is EMPTY completes its RESET
(R71, R127). -/
def State.pumpEmpty (s : State) : State :=
  foldS (fun (s : State) (ti : Nat) =>
    let s := s.emptyStep ti
    if (s.slab ti).st ≠ .empty then s
    else
      let s := ({ s with st := { s.st with emptying := s.st.emptying.filter (· ≠ ti) } }).poolChanged
      foldS (fun (s : State) (e : Nat × Option Op) => match e.2 with
        | some o => if Sqe.opcode o.sqe = 6 ∧ o.started = true ∧ s.slabIdx o = some ti then
            s.post true (e.1 / 32) (e.1 % 32) .success 0x00 0 false false else s
        | none => s) s s.hq.ops) s s.st.emptying

/-- FLUSH: a held tail is coded as a short block and stored as one unit (R67); with no tail nothing is stored. -/
def execFlushTail (q tag : Nat) (cqOk : Bool) (s : State) : Answer := answering cqOk s fun s =>
  .next (s.startCmd q tag (fun e => decide (Sqe.opcode e = 7))
    (fun e o => s.slabChecks e o (fun _ x => firstCause [(decide (x.st ≠ .opened), 0x16)])) false
    (fun _ o =>
      match s.slabIdx o with
      | none => s
      | some ti =>
        if s.slabFree ti o.inst false = false then s
        else s.beginOn q tag o (s.slabReady ti o.inst) (fun o =>
          let s := s.setOp q tag (some { o with first := (s.slab ti).wp, base := (s.slab ti).wp })
          if mget [] s.st.tails ti = [] then s.endData true q tag .success 0x00
          else s.pumpWrite q tag true 1)))

/-! ### Descriptor lists (R59 to R62) -/

/-- What a descriptor list says. -/
inductive ListCheck where
  | ok (bytes : Nat)
  | invalid (idx : Nat)
  | open_
deriving DecidableEq, Repr

/-- Walk a descriptor list in the order it was read. -/
def walkList : List (BitVec 128) → Nat → Nat → Nat → Nat → ListCheck
  | [], _, _, _, _ => .open_
  | d :: r, i, datas, nexts, sum =>
    let len := bits d 64 32
    let last := bit d 96
    let next := bit d 97
    if last && next then .invalid i
    else if next then
      if nexts = 4096 ∨ bits d 0 12 ≠ 0 then .invalid i else walkList r (i + 1) datas (nexts + 1) sum
    else if len = 0 ∨ 16777216 < len ∨ datas = 4096 then .invalid i
    else if last then .ok (sum + len)
    else walkList r (i + 1) (datas + 1) nexts (sum + len)

/-- Whether a started command reads a descriptor list: those that use DPTR, without INLINE; a RUN with SUBOP 1, a KEY
zeroise and a RUN of no length do not. -/
def readsList (e : Sqe) : Bool :=
  usesDptr (Sqe.opcode e) && !Sqe.fInline e && !(decide (Sqe.opcode e = 8) && decide (Sqe.subop e = 1)) &&
  !(decide (Sqe.opcode e = 0x0B) && decide (Sqe.subop e % 2 = 1))

/-- Grains of the commit group of a command that arrives now, where it is not coded (R77). -/
def groupGrains (o : Op) : Nat := Nat.min 1024 (Sqe.length o.sqe / 1024 - o.grains)

/-- Before a commit group's grains arrive it holds room for all of them in the share of its target's region: whether it does,
waits, or is refused (R110, R118, R121). Data to be coded takes room as it is coded. -/
def State.holdShare (s : State) (q tag : Nat) (o : Op) (ti : Nat) : Option Bool × State :=
  if Sqe.fReduce o.sqe ∨ o.share.isSome then (some true, s)
  else
    let n := groupGrains o
    let put := fun (s : State) (p : Nat) =>
      if s.stagedIn p + n ≤ s.stageShare then (some true, s.setOp q tag (some { o with share := some (p, n) })) else (some false, s)
    if Sqe.opcode o.sqe = 3 then match s.logTarget o.inst n with
      | (.exhausted, s) => (none, s)
      | (.wait, s) => (some false, s)
      | (.at _ l, s) => put s l.region
    else match s.appendPlace ti with
      | some (p, _) => put s p
      | none => (if s.appendStuck ti then none else some false, s)

/-- Host bytes of a write command arrive, as far as staging takes them: group by group, and no further while the region's share
has no room (R120, R121). -/
def State.arrive (s : State) (q tag : Nat) (cqOk : Bool) : Nat → Bytes → State
  | 0, _ => s
  | fuel + 1, d =>
    match s.op q tag with
    | none => s
    | some o => match s.slabIdx o with
      | none => s
      | some ti =>
        if d = [] then s
        else match s.holdShare q tag o ti with
          | (none, s) => (s.writeClose o.inst (Sqe.slabNo o.sqe)).endData cqOk q tag .refused 0x1C
          | (some false, s) => s
          | (some true, s) => match s.op q tag with
            | none => s
            | some o =>
              let n := if Sqe.fReduce o.sqe then d.length else Nat.min d.length (1024 * groupGrains o - o.pend.length)
              if n = 0 then s
              else ((s.setOp q tag (some { o with pend := o.pend ++ d.take n, bytesIn := o.bytesIn + n })).pumpWrite q tag cqOk 32).arrive
                q tag cqOk fuel (d.drop n)

/-- HOST_DATA_ARRIVAL: host bytes of an APPEND or OVERWRITE arrive and move into staging (R120 to R122); `aux` tells the host
address at which writes of the bin list fault from then on, of this group's codes and of later ones (R66). -/
def execHostDataArrival (q tag : Nat) (r : HostRead) (aux : HostWrite) (cqOk : Bool) (s : State) : Answer :=
  match s.op q tag with
  | none => .next s
  | some o =>
    if o.started = false ∨ o.listOk = false ∨ s.jr.holdStep ≠ 0 ∨
        (Sqe.opcode o.sqe ≠ 1 ∧ Sqe.opcode o.sqe ≠ 3) then .next s
    else match r with
      | .fault a => .next (s.failData cqOk q tag 0x42 a)
      | .ok d =>
        let d := d.take (Sqe.length o.sqe - o.bytesIn)
        let bad := match aux with | .fault a => some a | .ok => o.binsBad
        let s := (s.busy).setOp q tag (some { o with binsBad := bad })
        .next ((s.dmaRead q tag).arrive q tag cqOk (d.length / 1048576 + 2) d)

/-- WRITE_CLOSED_REOPEN: the spare pool has been at or above the reserve for 1 s (R119). -/
def execWriteClosedReopen (inst : Nat) (s : State) : Answer :=
  let x := s.inst inst
  match x.st, x.spareOkSince with
  | .writeClosed, some t =>
    if (s.spareReserve : Int) ≤ s.sparePool then
      .next (((s.reach (t + 1000000000)).setInst inst { x with st := .active, spareOkSince := none }).health! 0x62 6 noRegion
        0xFF noLink (BitVec.ofNat 64 inst) 0xFFFFFFFF)
    else .next s
  | _, _ => .next s

end Sys2Proof.Machine
end

