-- ==== Sys2Proof/Machine/JournalOps.lean ====
section
/-! DEFINITION. Journal entries as they are written (R124, R125), and the journal bands that hold the two copies of the journal and
of a checkpoint (R128 to R130). -/

namespace Sys2Proof.Machine

/-! ### The 32 bytes of an entry (R124) -/

/-- TYPE of an entry. -/
def JBody.type : JBody → Nat
  | .pad => 0x00 | .wpAdvance _ _ _ => 0x01 | .slabState _ _ _ _ _ => 0x02 | .bandState _ _ _ _ => 0x03 | .logExtent _ _ => 0x04
  | .extentDead _ _ _ => 0x05 | .moveBegin _ _ _ _ _ => 0x06 | .mapSwitch _ _ _ _ _ => 0x07 | .fold _ _ => 0x08 | .remap _ _ => 0x09
  | .namespace_ _ _ _ _ _ _ => 0x0A | .checkpoint _ _ _ _ _ => 0x0B | .holdup _ _ => 0x0C

/-- The 16 bytes of a log extent as a number (R109). -/
def Extent.word (e : Extent) : Nat :=
  e.slab % 2 ^ 21 + e.first % 2 ^ 20 * 2 ^ 21 + e.count % 2 ^ 11 * 2 ^ 41 + e.logSlab % 2 ^ 10 * 2 ^ 52 + e.logFirst % 2 ^ 20 * 2 ^ 62

/-- BODY of an entry as a number of 160 bits (R124). Where the table leaves it out, the index position of a LOG_EXTENT stands in
bits [144:128] and the number of slabs of a NAMESPACE entry in bits [84:64] (assumption 73). -/
def JBody.word : JBody → Nat
  | .pad => 0
  | .wpAdvance ti wp wseq => ti % 2 ^ 21 + wp % 2 ^ 21 * 2 ^ 21 + wseq % 2 ^ 64 * 2 ^ 64
  | .slabState ti st p b i => ti % 2 ^ 21 + slabCode st * 2 ^ 21 + p % 8 * 2 ^ 23 + b % 2 ^ 19 * 2 ^ 26 + i % 256 * 2 ^ 45
  | .bandState b st role er => b % 2 ^ 19 + bandCode st * 2 ^ 19 + role % 16 * 2 ^ 22 + Nat.min er 65535 * 2 ^ 26
  | .logExtent pos e => e.word + pos % 2 ^ 17 * 2 ^ 128
  | .extentDead pos ti ep => pos % 2 ^ 17 + ti % 2 ^ 21 * 2 ^ 20 + ep % 2 ^ 32 * 2 ^ 64
  | .moveBegin ti b p w0 ep => ti % 2 ^ 21 + b % 2 ^ 19 * 2 ^ 21 + p % 8 * 2 ^ 40 + w0 % 2 ^ 21 * 2 ^ 43 + ep % 2 ^ 32 * 2 ^ 64
  | .mapSwitch ti b p wp ep => ti % 2 ^ 21 + b % 2 ^ 19 * 2 ^ 21 + p % 8 * 2 ^ 40 + wp % 2 ^ 21 * 2 ^ 43 + ep % 2 ^ 32 * 2 ^ 64
  | .fold b f => b % 2 ^ 19 + f % 2 ^ 12 * 2 ^ 19
  | .remap n r => r.tile % 64 + n % 2 ^ 13 * 2 ^ 6 + r.retired % 2 ^ 19 * 2 ^ 19 + r.replacing % 2 ^ 19 * 2 ^ 38
  | .namespace_ i create retire ti n ex => i % 256 + (if create then 256 else 0) + (if retire then 512 else 0) + ti % 2 ^ 21 * 2 ^ 10 +
      ex % 2 ^ 21 * 2 ^ 31 + n % 2 ^ 21 * 2 ^ 64
  | .checkpoint num start clean a b => num % 2 ^ 16 + start % 2 ^ 48 * 2 ^ 16 + (if clean then 2 ^ 64 else 0) + a % 16 * 2 ^ 65 + b % 16 * 2 ^ 69
  | .holdup t n => t % 2 ^ 64 + n % 2 ^ 32 * 2 ^ 64

/-- The 32 bytes of a journal entry, the CRC-16 of bytes 0 to 29 last (R124). -/
def JEntry.bytes (e : JEntry) : Bytes :=
  let b := natLe 6 e.jseq ++ [BitVec.ofNat 8 e.body.type, BitVec.ofNat 8 (e.region % 8 + if e.cont then 8 else 0)] ++
    natLe 20 e.body.word ++ [0, 0]
  b ++ natLe 2 (crc16 b).toNat

/-- Bytes in which some bits, by number, have read back changed. -/
def flipBits (b : Bytes) (l : List Nat) : Bytes :=
  (b.zip (List.range b.length)).map (fun e =>
    (List.range 8).foldl (fun (x : Byte) i => if (l.count (8 * e.2 + i)) % 2 = 1 then setBit x i (!bit x i) else x) e.1)

/-- Whether the CRC of an entry as read is right. -/
def crcHolds (b : Bytes) : Bool := decide (leNat (b.drop 30) = (crc16 (b.take 30)).toNat)

/-! ### Journal bands (R128, R130) -/

/-- Whether a region can take a copy of the journal (R128). -/
def State.copyReady (s : State) (p : Nat) : Bool := s.regionReady p && !(s.region p).restarting && !s.anyQuiesced p

/-- The region of a copy, and the band it is written to. -/
def State.jcopy (s : State) (b : Bool) : Nat × JBand := if b then (s.jr.regB, s.jr.bandB) else (s.jr.regA, s.jr.bandA)
def State.setJcopy (s : State) (b : Bool) (x : JBand) : State :=
  { s with jr := if b then { s.jr with bandB := x } else { s.jr with bandA := x } }

/-- The place of page `n` of a journal band: row ⌊n ÷ 32⌋, tile ⌊n ÷ 4⌋ mod 8, plane n mod 4, in SLC mode (R128, assumption
73). -/
def State.jLoc (s : State) (p b n : Nat) : Loc :=
  { s.locQlc p b (512 * (n / 32) + 64 * (n / 4 % 8)) with plane := n % 4, slc := true }

/-- Issue the program of a journal page: 512 entries in four codewords of KIND 2 (R128, R182). -/
def State.programPage (s : State) (b : Bool) (p band n : Nat) (es : List JEntry) : State :=
  let raw := es.flatMap JEntry.bytes
  let c := s.jLoc p band n
  let first := match es.head? with | some e => e.jseq | none => 0
  let frames := (List.range 4).map (fun k =>
    cwEncode (Loc.seed { c with cw := k }) (slice raw (4096 * k) 4096) (Tag.bytes { wseq := s.st.wseq + 1 + k, kind := 2 }))
  let s := { s with st := { s.st with wseq := s.st.wseq + 4 } }
  (s.noteAge (bandKey p band)).sendMedia c.link
    { op := .program, slc := true, die := c.die, planes := BitVec.ofNat 4 (2 ^ (n % 4)), block := c.block, page := c.page,
      data := frames, why := .journal first b }

/-- Issue the programs of one copy for the pages that are being written, taking journal bands (ROLE 4) of its region as they are
needed (R128). -/
def State.pumpCopy (s : State) (b : Bool) : Nat → State
  | 0 => s
  | fuel + 1 =>
    let (p, x) := s.jcopy b
    if s.jr.flying.length ≤ 512 * x.issued ∧ x.again = [] then s
    else match x.band with
      | none =>
        if s.copyReady p then
          match s.placeBand p with
          | some k => (s.takeBand p k 4).setJcopy b { x with band := some k, next := 0 }
          | none => s
        else s
      | some k =>
        if (s.band p k).st ≠ .opened then s
        else if x.next = 16384 then
          let newest := match (s.jr.flying.drop (512 * x.issued)).head? with | some e => e.jseq - 1 | none => s.jr.jseq
          ({ s with jr := { s.jr with jbands := s.jr.jbands ++ [(bandKey p k, newest)] } }.setJcopy b { x with band := none, next := 0 }).pumpCopy b fuel
        else match x.again with
        | first :: rest =>
          let es := s.jr.flying.filter (fun e => decide (first ≤ e.jseq ∧ e.jseq < first + Config.journalPage))
          ((if es = [] then s else s.programPage b p k x.next es).setJcopy b
            { x with next := if es = [] then x.next else x.next + 1, again := rest }).pumpCopy b fuel
        | [] =>
          let es := (s.jr.flying.drop (512 * x.issued)).take Config.journalPage
          ((s.programPage b p k x.next es).setJcopy b { x with next := x.next + 1, issued := x.issued + 1 }).pumpCopy b fuel

/-- Issue what can be issued of both copies. -/
def State.pumpJournal (s : State) : State :=
  let n := s.jr.flying.length / Config.journalPage + s.jr.bandA.again.length + s.jr.bandB.again.length + 3
  (s.pumpCopy false n).pumpCopy true n

/-- Whether the oldest page's program in a copy has been issued and has ended. -/
def State.pageDone (s : State) (b : Bool) : Bool :=
  let first := match s.jr.flying.head? with | some e => e.jseq | none => 0
  decide (0 < (s.jcopy b).2.issued ∧ s.countCmds (fun m => decide (m.why = .journal first b)) = 0) &&
    !((s.jcopy b).2.again.contains first)

/-- Take bands for the two copies of a checkpoint, by R99 in their regions (R129). -/
def State.takeCkptBands (s : State) : State :=
  foldS (fun (s : State) (p : Nat) => match s.placeBand p with
    | some k => let s := s.takeBand p k 4
                { s with jr := { s.jr with ckptBands := s.jr.ckptBands ++ [bandKey p k] } }
    | none => s) ({ foldS (fun (s : State) (k : Nat) => s.retireUse k) s s.jr.ckptBands with jr := { s.jr with ckptBands := [] } }) [s.jr.regA, s.jr.regB]

/-- Begin a checkpoint: its start JSEQ is that of the next entry, and its bands are taken. None begins while one is being written,
before MAP, or between a relocation's first EXTENT_DEAD and its MAP_SWITCH (R125, R129). -/
def State.beginCkpt (s : State) : State :=
  let between := s.st.moves.any (fun e => match e.2 with | some m => m.dead.isSome && !m.switching | none => false)
  if s.jr.ckptRun.isSome ∨ bit s.hq.idReady 3 = false ∨ s.jr.holdStep ≠ 0 ∨ between = true then s
  else ({ s with jr := { s.jr with ckptRun := some (s.jr.jseq + 1, false) } }).takeCkptBands

/-- Journal bands whose every entry is older than a JSEQ, and the bands of checkpoints given up, become STALE (R130). -/
def State.endJournal (s : State) (from_ : Nat) (old : List Nat) : State :=
  let go := s.jr.jbands.filter (fun e => decide (e.2 < from_))
  foldS (fun (s : State) (k : Nat) => s.retireUse k) { s with jr := { s.jr with jbands := s.jr.jbands.filter (fun e => decide (from_ ≤ e.2)) } }
    (go.map (·.1) ++ old)

end Sys2Proof.Machine
end

