-- ==== Sys2Proof/Machine/Reloc.lean ====
section
/-! DEFINITION. Background work of the store (04, 07): erases and retired dieblocks, verify-read, folding, relocation and
merging, the copy of a failing dieblock, wear levelling and refresh. -/

namespace Sys2Proof.Machine

/-- Background media work is paused: a throttling step is in force for the region (R493, R494). -/
def State.bgPaused (s : State) (p : Nat) : Bool :=
  decide (1 ≤ Nat.max s.pw.steps (s.region p).steps) || decide (s.jr.holdStep ≠ 0)

/-! ### Dieblocks (R96, R114, R115, R199) -/

/-- The key of a dieblock: tile and band index. -/
def dbKey (t i : Nat) : Nat := t * 524288 + i

/-- Whether band `i`'s own dieblock on tile `t` may replace another: not retired, not used and not found unerased. -/
def State.donorHas (s : State) (t i : Nat) : Bool :=
  !(s.st.retiredDb.contains (dbKey t i)) && !(s.st.badDonors.contains (dbKey t i)) &&
  !(s.st.remaps.any (fun e => match e.2 with | some r => decide (r.tile = t ∧ r.replacing = i) | none => false)) &&
  !(s.st.failedDies.contains (16 * (8 * t + i % 8) + i / 8 % (s.geomOf (t / 8)).1))

/-- The band that gives the replacement of a dieblock of band `b` on tile `t` (R115): a donor of its link offset, else a
spare band of it, the lowest (assumption 21). -/
def State.donorFor (s : State) (t b : Nat) : Option Nat :=
  let p := t / 8
  let ok := fun (i : Nat) => decide (i % 8 = b % 8 ∧ i ≠ b) && s.donorHas t i
  match (s.listedBands p).find? (fun e => decide (e.2.role = 6) && ok (bandIndex e.1)) with
  | some e => some (bandIndex e.1)
  | none => ((List.range (mget 0 s.st.spares p)).map (fun n => s.allocable p + n)).find? (fun i => decide (s.roleOf p i = 5) && ok i)

/-- The lowest free remap entry of a region. -/
def State.freeRemap (s : State) (p : Nat) : Option Nat :=
  ((List.range (Nat.min Config.remapEntries (s.st.remaps.length + 1))).map (fun n => p * Config.remapEntries + n)).find?
    (fun n => decide (mget none s.st.remaps n = none))

/-- ERASES of a band: the highest count among its dieblocks, those that are remapped with the count of their remap entry (R114). -/
def State.erasesOf (s : State) (p b : Nat) : Nat :=
  s.st.remaps.foldl (fun n e => match e.2 with
    | some r => if r.tile / 8 = p ∧ r.retired = b then Nat.max n r.erases else n
    | none => n) (s.band p b).own

/-- Let the dieblock of a donor stand for that of band `b` on tile `t`: the REMAP is journaled, and a spare band becomes a
donor (R115, R124). -/
def State.remapTo (s : State) (t b donor : Nat) : State :=
  let p := t / 8
  let mine := fun (e : Nat × Option Remap) => match e.2 with | some r => decide (r.tile = t ∧ r.retired = b) | none => false
  let s := { s with st := { s.st with remaps := s.st.remaps.filter (fun e => !mine e) } }
  match s.freeRemap p with
  | none => s
  | some n =>
    let x := s.band p donor
    let r : Remap := { tile := t, retired := b, replacing := donor, erases := x.own }
    let s := if x.role = 6 then s else
      ((s.setBand p donor { x with st := .opened, role := 6 }).journalBand (bandKey p donor)).poolChanged
    let s := { s with st := { s.st with remaps := mset none s.st.remaps n (some r) } }
    let s := s.setBand p b { s.band p b with remapped := true, erases := s.erasesOf p b }
    s.journal p false (.remap (n % Config.remapEntries) r)

/-- Retire dieblock `d` of tile `t` (R115): health event 0x01 class 9. -/
def State.retireDb (s : State) (t d : Nat) : State :=
  if s.st.retiredDb.contains (dbKey t d) then s
  else
    let n := (s.geomOf (t / 8)).1
    let l := 8 * t + d % 8
    let s := { s with st := { s.st with retiredDb := s.st.retiredDb ++ [dbKey t d] } }
    s.health! 0x01 0 (t / 8) t l (BitVec.ofNat 64 (9 + 256 * (l + 1024 * (d / 8 % n) + 16384 * (d / (8 * n))))) 0

/-- Retire the dieblock that stands for band `b` on tile `t`. -/
def State.retireDieblock (s : State) (t b : Nat) : State := s.retireDb t (s.dieblock t b)

/-- A dieblock is retired and replaced; without a replacement its band is lossy (R96, R115). -/
def State.loseDieblock (s : State) (t b : Nat) : State :=
  let s := s.retireDieblock t b
  match s.donorFor t b, s.freeRemap (t / 8) with
  | some d, some _ => s.remapTo t b d
  | _, _ => s.setBand (t / 8) b { s.band (t / 8) b with lossy := true }

/-- The SANITIZE waits no more for a band (R85). -/
def State.sanErased (s : State) (k : Nat) : State :=
  { s with st := { s.st with
    sanWait := if s.st.sanWait = some k then none else s.st.sanWait
    sanJournal := s.st.sanJournal.filter (· ≠ k) } }

/-- A band is RETIRED (R96). -/
def State.retireBand (s : State) (k : Nat) : State :=
  let s := (s.setBandAt k { s.bandAt k with st := .retired, erasePend := [], eraseWait := [] }).sanErased k
  let s := { s with health := { s.health with retiredBands := s.health.retiredBands + 1 } }
  (s.journalBand k).poolChanged

/-- Wear levelling (R114): ask for the relocation of the VERIFIED band with the lowest ERASES, of equal ones the lowest index
(assumption 71). -/
def State.wearCheck (s : State) (p : Nat) : State :=
  let l := (s.listedBands p).filter (fun e => decide (e.2.st ≠ .retired ∧ e.2.role ≠ 5 ∧ e.2.role ≠ 6))
  let hi := l.foldl (fun n e => Nat.max n e.2.erases) 0
  let lo := if (s.listedBands p).length + mget 0 s.st.spares p < s.bandsOf p then 0 else l.foldl (fun n e => Nat.min n e.2.erases) hi
  if hi - lo ≤ s.param 0x040020 200 ∨ mget false s.st.wear p = true then s
  else
    match bestBy (fun (a b : Nat × Band) => decide (a.2.erases < b.2.erases ∨ (a.2.erases = b.2.erases ∧ a.1 < b.1)))
        (l.filter (fun e => decide (e.2.st = .verified))) with
    | some e => s.askBand p (bandIndex e.1) .wear
    | none => s

/-- Every dieblock of an ERASING band is erased: it is FREE, or RETIRED where one is lost (R96); each erase adds one to the
count of every dieblock (R114). It waits for room in the journal buffer (R127). -/
def State.finishErase (s : State) (k : Nat) : State :=
  let x := s.bandAt k
  if x.st ≠ .erasing ∨ x.erasePend ≠ [] ∨ s.journalRoom 4 = false then s
  else if x.lossy then s.retireBand k
  else
    let p := bandRegion k
    let s := { s with st := { s.st with
      dbReads := s.st.dbReads.filter (fun e => decide (e.1 / 8 ≠ k))
      ringUsed := mset 0 s.st.ringUsed k 0
      remaps := s.st.remaps.map (fun (e : Nat × Option Remap) => (e.1, e.2.map (fun (r : Remap) =>
        if r.tile / 8 = p ∧ r.retired = bandIndex k then { r with erases := r.erases + 1 } else r))) } }
    let s := s.setBandAt k { x with own := x.own + 1 }
    let s := s.setBandAt k { s.bandAt k with st := .free, erases := s.erasesOf p (bandIndex k), firstProg := none, closedAt := none
                                             checking := [], torn := false }
    (((s.sanErased k).journalBand k).poolChanged).wearCheck p

/-- The erase of a band's dieblock on tile offset `t` has ended; the last one ends the band's erase. -/
def State.eraseEnd (s : State) (k t : Nat) : State :=
  let x := s.bandAt k
  (s.setBandAt k { x with erasePend := x.erasePend.erase t }).finishErase k

/-- An erase that fails on a dieblock retires it (R199); its replacement counts as erased. -/
def State.eraseFail (s : State) (k t : Nat) : State :=
  (s.loseDieblock (8 * bandRegion k + t) (bandIndex k)).eraseEnd k t

/-- Issue the erase of a STALE band that no active range reads (R97, R221); a dieblock on a failed die counts as an
ERASE_FAIL (R199). It waits while the region is not ready. -/
def State.tryErase (s : State) (k : Nat) : State :=
  let x := s.bandAt k
  if x.st ≠ .stale ∨ x.readers ≠ 0 ∨ x.erasePend ≠ [] ∨ s.regionReady (bandRegion k) = false then s
  else
    let bad := (List.range 8).filter (fun t =>
      let c := s.locQlc (bandRegion k) (bandIndex k) (64 * t)
      !s.reachable c && decide ((s.link c.link).st ≠ .down))
    let s := s.eraseBand k
    foldS (fun (s : State) (t : Nat) => s.eraseFail k t) s bad

/-- The journal entry that ends a band's use is persisted: the band is STALE, its parity pages are released, dieblocks
marked for it are retired, and its erase is issued (R96, R97, R102, R104, R198). -/
def State.bandStale (s : State) (k : Nat) : State :=
  let x := s.bandAt k
  if x.st = .retired ∨ (x.st = .free ∧ x.checking ≠ [wasWritten]) then s
  else
    let s := (s.setBandAt k { x with st := .stale, checking := [] }).dropParity k
    let p := bandRegion k
    let bad := (List.range 8).filter (fun t => s.st.failing.contains (dbKey (8 * p + t) (s.dieblock (8 * p + t) (bandIndex k))))
    let s := foldS (fun (s : State) (t : Nat) =>
      let d := dbKey (8 * p + t) (s.dieblock (8 * p + t) (bandIndex k))
      let s := { s with st := { s.st with failing := s.st.failing.erase d } }
      s.loseDieblock (8 * p + t) (bandIndex k)) s bad
    if (s.bandAt k).lossy then s.retireBand k else s.tryErase k

/-- The entry that ended a band's use is persisted already: it is STALE at once. -/
def State.staleAtOnce (s : State) (k : Nat) : State :=
  let s := { s with jr := { s.jr with acts := s.jr.acts.filter (fun a => decide (a.2 ≠ JAct.bandStale k)) } }
  s.bandStale k

/-- Mark a dieblock to be retired when its band is STALE. -/
def State.markFailing (s : State) (t b : Nat) : State :=
  let d := dbKey t (s.dieblock t b)
  if s.st.failing.contains d then s else { s with st := { s.st with failing := s.st.failing ++ [d] } }

/-! ### Codewords of a row -/

/-- The places of a row's codewords that grains [lo, hi) of a band lie in. -/
def State.rowLocs (s : State) (p b lo hi : Nat) : List Loc :=
  ((List.range 128).map (fun c => 512 * (lo / 512) + 4 * c)).filterMap (fun g =>
    if lo < g + 4 ∧ g < hi then some (s.loc p b g) else none)

/-- Issue the reads of a list of places for one reason; answers how many went out and how many can be read by no
means. -/
def State.readAll (s : State) (fg : Bool) (why : Why) (l : List Loc) : Nat × Nat × State :=
  foldS (fun (a : Nat × Nat × State) (c : Loc) =>
    match a.2.2.readCw c fg why with
    | (true, s) => (a.1 + 1, a.2.1, s)
    | (false, s) => (a.1, a.2.1 + 1, s)) (0, 0, s) l

/-- Whether no program of a reason is queued or outstanding. -/
def State.noCmds (s : State) (w : Why) : Bool := decide (s.countCmds (fun m => decide (m.why = w)) = 0)

/-! ### Relocation and merging (R112, R113) -/

/-- The grain sources of a row of a moving slab: for a merge the live extents apply, else the bands alone. -/
def State.copySource (s : State) (m : Move) (ti g : Nat) : Nat × Nat × Nat :=
  let base := match (m.mids.filter (fun e => decide (e.2.2 ≤ g))).getLast? with
    | some (p, b, _) => (p, b, g)
    | none => (m.srcRegion, m.srcBand, g)
  if m.why = .merge then
    match s.liveExt ti g with
    | some (_, e) => match mget none s.st.logs e.logSlab with
      | some l => (l.region, l.band, e.logFirst + (g - e.first))
      | none => base
    | none => base
  else base

/-- Note which extents are live at the copy of a row (R112). -/
def State.noteExtents (s : State) (m : Move) (ti r : Nat) : Move :=
  if m.why ≠ .merge then m
  else s.st.exts.foldl (fun m e => match e.2 with
    | some x =>
      if x.slab = ti ∧ x.first < 512 * (r + 1) ∧ 512 * r < x.first + x.count then
        let live := s.extLive x
        let seen := m.exts.any (fun y => decide (y.2 = x.age))
        if live = true ∧ x.first / 512 = r then { m with exts := m.exts ++ [(e.1, x.age)] }
        else if live = true ∧ seen = true then m
        else { m with missed := m.missed ++ [x.age] }
      else m
    | none => m) m

/-- The extents a merge consumes: live at the copy of every row that holds any of their grains (R112). -/
def State.consumed (s : State) (m : Move) (ti : Nat) : List (Nat × Extent) :=
  s.st.exts.filterMap (fun e => match e.2 with
    | some x => if x.slab = ti ∧ m.exts.contains (e.1, x.age) ∧ !(m.missed.contains x.age) ∧ x.first + x.count ≤ m.w0
        then some (e.1, x) else none
    | none => none)

def State.setMove (s : State) (ti : Nat) (m : Move) : State :=
  { s with st := { s.st with moves := mset none s.st.moves ti (some m) } }

/-- Begin a relocation to a placed target (R112 step 1). -/
def State.beginMove (s : State) (ti : Nat) (why : MoveWhy) (fg : Bool) (mids : List (Nat × Nat × Nat)) (p b : Nat) : State :=
  let x := s.slab ti
  let s := s.takeBand p b 0
  let e := s.st.epoch + 1
  let m : Move := { why, srcRegion := x.region, srcBand := x.band, dstRegion := p, dstBand := b, w0 := x.wp, epoch := e,
                    foreground := fg, mids }
  let s := { s with st := { s.st with epoch := e, moveReq := mset none s.st.moveReq ti none } }
  let s := (s.setMove ti m).setSlab ti { x with moving := true }
  let s := s.journal p false (.moveBegin ti b p x.wp e)
  s.whenPersisted (.moveBegun ti e)

/-- The move's target is lost: it starts again from step 1 to a fresh target, both ranges being copied, and the old target
becomes STALE at the new switch (R112, R138). A target that was never used (`used` false) is no part of the copy. -/
def State.restartMove (s : State) (ti : Nat) (m : Move) (used : Bool) : State :=
  let mids := if used then m.mids ++ [(m.dstRegion, m.dstBand, m.w0)] else m.mids
  let s := s.forget (fun w => match w with | .move a _ => decide (a = ti) | _ => false)
  match s.place? with
  | some (p, b) => s.beginMove ti m.why m.foreground mids p b
  | none => s.setMove ti { m with begun := false, phase := if used then 3 else 4, left := 0 }

/-- The map change is journaled (R112 step 4, R125): EXTENT_DEAD for each extent consumed, as the journal buffer has room, then
MAP_SWITCH. -/
def State.journalSwitch (s : State) (ti : Nat) (m : Move) : State :=
  let todo := match m.dead with | some l => l | none => (s.consumed m ti).map (fun (e : Nat × Extent) => (e.1, e.2.age))
  let n := Config.journalBuf - s.jr.buf.length
  let now := todo.take n
  let s := foldS (fun (s : State) (e : Nat × Nat) => s.journal 0 false (.extentDead e.1 ti m.epoch)) s now
  let m := { m with dead := some (todo.drop n) }
  if todo.length < n then
    let s := s.setMove ti { m with switching := true }
    (s.journal m.dstRegion false (.mapSwitch ti m.dstBand m.dstRegion (s.slab ti).wp m.epoch)).whenPersisted (.mapSwitched ti m.epoch)
  else s.setMove ti m

/-- A move's grains as read; a poisoned codeword gives zeros (R184). -/
def copyGot (m : Move) (gs : List (Nat × Nat)) (data : Bytes) (poison : Bool) : List (Nat × Bytes × Bool) :=
  m.got ++ gs.map (fun e => (e.1, if poison then List.replicate 1024 0 else slice data (1024 * e.2) 1024, poison))

/-- The grains of row `r` that a move copies. -/
def moveRow (m : Move) (r : Nat) : List Nat :=
  (List.range 512).filterMap (fun i => if 512 * r + i < m.w0 then some (512 * r + i) else none)

/-- The distinct codewords that hold a row's grains for a move, with the grains in each. -/
def State.moveReads (s : State) (m : Move) (ti r : Nat) : List (Loc × List (Nat × Nat)) :=
  (moveRow m r).foldl (fun acc g =>
    let c := s.copySource m ti g
    if (s.stagedAt c.1 c.2.1 c.2.2).isSome then acc
    else
      let l := s.loc c.1 c.2.1 c.2.2
      match acc.find? (fun e => decide (e.1 = l)) with
      | some _ => acc.map (fun e => if e.1 = l then (e.1, e.2 ++ [(g, grainIdx c.2.2)]) else e)
      | none => acc ++ [(l, [(g, grainIdx c.2.2)])]) []

/-- Grains of a row that a move takes from staging. -/
def State.moveStaged (s : State) (m : Move) (ti r : Nat) : List (Nat × Bytes × Bool) :=
  (moveRow m r).filterMap (fun g =>
    let c := s.copySource m ti g
    (s.stagedAt c.1 c.2.1 c.2.2).map (fun e => (g, e.data, e.poison)))

/-- A copied row's grains as they are staged or programmed: with the relocation flag, the source band and the GC epoch in their
tags (R112, R182); each codeword takes the next write sequence number after `base`. -/
def State.copied (s : State) (m : Move) (ti base : Nat) : List Staged :=
  let l := m.got.map (fun (e : Nat × Bytes × Bool) => ({
    slab := ti, grain := e.1, region := m.dstRegion, band := m.dstBand, at_ := e.1, data := e.2.1, desc := s.desc ti e.1
    wseq := base + 1 + e.1 % 512 / 4, last := true, poison := e.2.2, cgid := mget 0 s.st.cgid ti, grp := e.1, wpAt := (s.slab ti).wp
    reloc := some (m.srcRegion, m.srcBand, m.epoch) } : Staged))
  (List.range 512).filterMap (fun i => l.find? (fun e => decide (e.at_ % 512 = i)))

/-- Stage the copied grains of an incomplete last row for the target band. -/
def State.stageCopied (s : State) (m : Move) (ti : Nat) : State :=
  { s with staged := s.staged ++ s.copied m ti s.st.wseq, st := { s.st with wseq := s.st.wseq + 128 } }

/-- The codewords of the row that a move programs. -/
def State.movePage (s : State) (m : Move) (ti r t : Nat) : List (Bytes × Bytes) := stagedPage (s.copied m ti m.wseq) r t

/-- Carry a relocation on as far as it can go now (R112 steps 2 to 4): rows are read, then programmed, one at a time. -/
def State.pumpMove (s : State) (ti : Nat) : Nat → State
  | 0 => s
  | fuel + 1 =>
    match mget none s.st.moves ti with
    | none => s
    | some m =>
      let kd := bandKey m.dstRegion m.dstBand
      let r := m.copied
      let full := decide (512 * (r + 1) ≤ m.w0)
      if m.phase = 3 ∨ m.phase = 4 then
        (match s.place? with
          | some (p, b) => s.beginMove ti m.why m.foreground (if m.phase = 3 then m.mids ++ [(m.dstRegion, m.dstBand, m.w0)] else m.mids) p b
          | none => s)
      else if m.begun = false ∨ m.switching = true ∨ (s.bandAt kd).checking ≠ [] ∨ s.jr.holdStep ≠ 0 then s
      else if m.foreground = false ∧ (m.why = .wear ∨ m.why = .refresh) ∧ s.bgPaused m.dstRegion = true then s
      else if m.w0 ≤ 512 * r then s.journalSwitch ti m
      else if m.phase = 0 then
        if (s.moveReads m ti r).any (fun e => !s.regionReady (regionOfLink e.1.link)) then s
        else
          let m := s.noteExtents m ti r
          let reads := s.moveReads m ti r
          let s := s.setMove ti { m with phase := 1, left := reads.length, got := s.moveStaged m ti r }
          let s := foldS (fun (s : State) (e : Loc × List (Nat × Nat)) =>
            match s.readCw e.1 m.foreground (.move ti r) with
            | (true, s) => s
            | (false, s) => match mget none s.st.moves ti with
              | some m => s.setMove ti { m with left := m.left - 1, got := copyGot m e.2 [] true }
              | none => s) s reads
          s.pumpMove ti fuel
      else if m.phase = 1 then
        if m.left ≠ 0 then s
        else if full then
          if (List.range 8).any (fun t => !s.reachable (s.locQlc m.dstRegion m.dstBand (512 * r + 64 * t))) then s.restartMove ti m true
          else match s.ringPage m.dstRegion m.dstBand with
          | none => s.ringTake m.dstRegion m.dstBand
          | some n =>
            let m := { m with phase := 2, wseq := s.st.wseq }
            let s := { s with st := { s.st with wseq := s.st.wseq + 128 } }
            (s.setMove ti m).programRow m.dstRegion m.dstBand r n m.foreground (s.movePage m ti r)
        else if s.stageShare < s.stagedIn m.dstRegion + (m.w0 - 512 * r) then s
        else
          let s := (s.stageCopied m ti).setMove ti { m with phase := 0, copied := r + 1, got := [] }
          (s.issueRows).pumpMove ti fuel
      else if s.noCmds (.row kd r) && s.noCmds (.parity kd r) && (mget none s.st.repairs kd).isNone then
        (s.setMove ti { m with phase := 0, copied := r + 1, got := [] }).pumpMove ti fuel
      else s

/-- A codeword of a move's row has come, or can be read by no means (`none`): the row goes on when it was the last
(R112, R184). -/
def State.moveCodeword (s : State) (ti row : Nat) (l : Loc) (data : Option (Bytes × Bool)) : State :=
  match mget none s.st.moves ti with
  | none => s
  | some m =>
    if m.phase ≠ 1 ∨ m.copied ≠ row then s
    else
      let gs := ((moveRow m row).filterMap (fun g =>
        let c := s.copySource m ti g
        if s.loc c.1 c.2.1 c.2.2 = l ∧ !(m.got.any (fun e => decide (e.1 = g))) then some (g, grainIdx c.2.2) else none))
      let m := { m with left := m.left - 1,
                        got := match data with
                          | some (d, po) => copyGot m gs d po
                          | none => copyGot m gs [] true }
      (s.setMove ti m).pumpMove ti 3

/-- MOVE_BEGIN is persisted: appends go on, to the target, and copying begins (R112, R139). -/
def State.moveBegun (s : State) (ti e : Nat) : State :=
  match mget none s.st.moves ti with
  | some m => if m.epoch = e then
      ((s.setMove ti { m with begun := true }).pumpMove ti 3) else s
  | none => s

/-- The map change is persisted: the slab stands on its target, consumed extents are dead, the source is STALE
(R112 steps 5 and 6). -/
def State.switchMap (s : State) (ti e : Nat) : State :=
  match mget none s.st.moves ti with
  | none => s
  | some m =>
    if m.epoch ≠ e ∨ m.switching = false then s
    else
      let dead := s.consumed m ti
      let x := s.slab ti
      let exts := s.st.exts.filter (fun y => !(dead.any (fun d => decide (d.1 = y.1))))
      let log := exts.any (fun y => match y.2 with | some z => decide (z.slab = ti) | none => false)
      let s := (s.moveOver m).uncacheSlab ti
      let s := { s with st := { s.st with exts, moves := mset none s.st.moves ti none } }
      let slc := (mget none s.st.slcs (bandKey m.dstRegion m.dstBand)).isSome
      let s := s.setSlab ti { x with region := m.dstRegion, band := m.dstBand, moving := false, log := log, slc := slc }
      let kd := bandKey m.dstRegion m.dstBand
      let s := if decide (x.st = SlabSt.full) && decide ((s.bandAt kd).st = BState.opened) then s.closeBand m.dstRegion m.dstBand else s
      let s := foldS (fun (s : State) (k : Nat) => (s.retireUse k).staleAtOnce k) s
        (bandKey m.srcRegion m.srcBand :: m.mids.map (fun e => bandKey e.1 e.2.1))
      (s.freeLogs).issueRows

/-- RELOCATION_START: a requested relocation or merge of a slab begins once a target is placed (R112). The merges of a log slab
begin in the order of most live grains first (R111); one whose extents are gone is dropped. At most two refresh relocations and
one for wear run in a region (R114, R196); background ones wait while paused (R493). With no target the writes that wait for the
merge are looked at again (R118). -/
def execRelocationStart (slab : Nat) (s : State) : Answer :=
  let x := s.slab slab
  match mget none s.st.moveReq slab with
  | none => .next s
  | some (why, fg) =>
    if why = .merge ∧ !(s.st.exts.any (fun e => match e.2 with | some y => decide (y.slab = slab) | none => false)) then
      .next { s with st := { s.st with moveReq := mset none s.st.moveReq slab none } }
    else if x.moving ∨ (x.st ≠ .opened ∧ x.st ≠ .full) ∨ s.journalRoom 4 = false ∨ (why = .merge ∧ s.mergeNext slab = false) then .next s
    else if (why = .refresh ∧ 2 ≤ mget 0 s.st.refresh x.region) ∨ (why = .wear ∧ mget false s.st.wear x.region = true) then .next s
    else if (why = .refresh ∨ why = .wear) ∧ s.bgPaused x.region = true then .next s
    else
      let dst := if why = MoveWhy.wear then (s.placeWorn x.region).map (fun b => (x.region, b)) else s.place?
      match dst with
      | none => .next (if s.noBand then s.pumpWrites true else s)
      | some (p, b) =>
        let refresh := if why = MoveWhy.refresh then mmod 0 s.st.refresh x.region (fun n => n + 1) else s.st.refresh
        let wear := if why = MoveWhy.wear then mset false s.st.wear x.region true else s.st.wear
        let s := { s with st := { s.st with refresh, wear } }
        .next (s.beginMove slab why fg [] p b)

/-! ### Bands taken from FREE that are not erased (R137) -/

/-- What band `b` of region `p` was taken for moves to band (p', b'). -/
def State.rehome (s : State) (p b p' b' : Nat) : State :=
  let was := s.band p b
  let s := { s with staged := s.staged.map (fun (e : Staged) =>
    if e.region = p ∧ e.band = b then { e with region := p', band := b' } else e) }
  let s := match s.slabOf p b with
    | some ti => (s.setSlab ti { s.slab ti with region := p', band := b' }).journalSlab ti
    | none => s
  let s := match s.logOf p b with
    | some n => match mget none s.st.logs n with
      | some l => { s with st := { s.st with logs := mset none s.st.logs n (some { l with region := p', band := b' }) } }
      | none => s
    | none => s
  let s := s.takeBand p' b' was.role
  s.setBand p' b' { s.band p' b' with closedAt := was.closedAt }

/-- The band that another gives way to: of the same region by R99, else by R98 where the staging share has room for what moves
with it (R121, R137). -/
def State.otherBand (s : State) (p b : Nat) : Option (Nat × Nat) :=
  match s.placeBand p with
  | some b' => some (p, b')
  | none => match s.place? with
    | some (p', b') =>
      if s.stagedIn p' + (s.staged.filter (fun e => decide (e.region = p ∧ e.band = b))).length ≤ s.stageShare then some (p', b') else none
    | none => none

/-- A band whose first row was not erased gives way to another: it is journaled STALE, and what it was taken for moves to
another FREE band, or waits for one. -/
def State.giveWay (s : State) (k : Nat) : State :=
  let p := bandRegion k
  let b := bandIndex k
  match s.movingTo p b with
  | some (ti, m) => (s.unused k).restartMove ti m false
  | none =>
    let role := (s.bandAt k).role
    if role = 2 then
      let cur := if mget none s.st.slcCur p = some (b, 0) then mset none s.st.slcCur p none else s.st.slcCur
      (({ s with st := { s.st with slcCur := cur } }).unused k).issueRows
    else if role = 3 then (s.unused k).issueRows
    else if role = 4 then
      let s := s.unused k
      let away := fun (r : Nat) (x : JBand) => if r = p ∧ x.band = some b then { x with band := none, next := 0 } else x
      let s := { s with jr := { s.jr with bandA := away s.jr.regA s.jr.bandA, bandB := away s.jr.regB s.jr.bandB } }
      if s.jr.ckptBands.contains k then
        let s := { s with jr := { s.jr with ckptBands := s.jr.ckptBands.erase k } }
        match s.placeBand p with
        | some b' => let s := s.takeBand p b' 4
                     { s with jr := { s.jr with ckptBands := s.jr.ckptBands ++ [bandKey p b'] } }
        | none => s
      else s.pumpJournal
    else match s.otherBand p b with
      | none => s.setBandAt k { s.bandAt k with checking := [wantsOther] }
      | some (p', b') => (s.rehome p b p' b').unused k

/-- The first-row read of a dieblock on tile offset `t` has ended: the band is OPEN once all eight have passed (R96, R137). -/
def State.firstRowRead (s : State) (k t : Nat) (erased : Bool) : State :=
  let x := s.bandAt k
  if x.taken = false ∨ !(x.checking.contains t) then s
  else if erased then
    let s := s.setBandAt k { x with checking := x.checking.erase t }
    if x.checking.erase t = [] then ((s.bandOpened k).issueRows).pumpJournal else s
  else s.giveWay k

/-! ### Verify-read (R103, R104) -/

/-- Grains written in a band. -/
def State.writtenOf (s : State) (p b : Nat) : Nat :=
  match s.logOf p b with
  | some n => match mget none s.st.logs n with | some l => l.fill | none => 0
  | none => match s.movingTo p b with
    | some (ti, _) => (s.slab ti).wp
    | none => match s.st.slabs.find? (fun e => decide (e.2.region = p ∧ e.2.band = b ∧ (e.2.st = .opened ∨ e.2.st = .full))) with
      | some (_, x) => x.wp
      | none => 0

/-- Whether every dieblock of a band can be verify-read now. -/
def State.verifiable (s : State) (p b : Nat) : Bool :=
  (List.range 8).all (fun t =>
    let c := s.locQlc p b (64 * t)
    s.reachable c && decide ((s.link c.link).st ≠ .recovery) && (s.link c.link).retraining.isNone)

/-- The self-test in progress has verified one band more (R64, R86). -/
def State.testedBand (s : State) : State :=
  { s with stew := { s.stew with selfTest := s.stew.selfTest.map (fun (x : SelfTest) => { x with verified := x.verified + 1 }) } }

/-- The verify-read of a band has ended: VERIFIED, or relocation and a failure counted per dieblock; a second failure
retires the dieblock (R103, R104). One made by the extended self-test leaves the band as it is when it passes (R86). -/
def State.verifyEnd (s : State) (k : Nat) (v : Verify) : State :=
  let p := bandRegion k
  let b := bandIndex k
  let s := { s with st := { s.st with verifies := mset none s.st.verifies k none } }
  let s := if v.test then s.testedBand else s
  if v.test = true ∧ (v.bad = [] ∨ 2 ≤ (s.bandAt k).role) then s
  else if v.bad = [] then
    let s := s.setBandAt k { s.bandAt k with st := .verified }
    (s.journalBand k).dropParity k
  else
    let s := foldS (fun (s : State) (t : Nat) =>
      let d := dbKey (8 * p + t) (s.dieblock (8 * p + t) b)
      let n := mget 0 s.st.vfails d + 1
      let s := { s with st := { s.st with vfails := mset 0 s.st.vfails d n } }
      if 2 ≤ n then s.markFailing (8 * p + t) b else s) s v.bad
    s.askBand p b .verifyFail

/-- The places of the written codewords of row `r` of a band: those of a slab or log slab that no staged grain stands for, wherever
they lie, the pages of the parity ring in use, and the pages of a journal band (R86, R103). None past the written rows. -/
def State.verifyLocs (s : State) (k r : Nat) : Option (List Loc) :=
  let p := bandRegion k
  let b := bandIndex k
  let role := (s.bandAt k).role
  if role = 3 then
    if 512 ≤ r then none
    else
      let j := b - (s.bandsOf p - 160)
      some ((List.range 8).flatMap (fun t => if 512 * t + r < mget 0 s.st.ringUsed k then
        (List.range 16).map (fun c => { s.parityLoc p (4096 * j + 512 * t + r) with plane := c / 4, cw := c % 4 }) else []))
  else if role = 4 then
    let n := if s.jr.regA = p ∧ s.jr.bandA.band = some b then s.jr.bandA.next
      else if s.jr.regB = p ∧ s.jr.bandB.band = some b then s.jr.bandB.next
      else if s.jr.jbands.any (fun e => decide (e.1 = k)) then 16384 else 0
    if n ≤ 32 * r then none
    else some (((List.range 32).filter (fun i => decide (32 * r + i < n))).flatMap (fun i =>
      (List.range 4).map (fun c => { s.jLoc p b (32 * r + i) with cw := c })))
  else
    let n := s.writtenOf p b
    if n ≤ 512 * r then none
    else some (if s.rowStaged p b r = [] then s.rowLocs p b (512 * r) (Nat.min n (512 * (r + 1))) else [])

/-- Read the next rows of a verify until codewords are outstanding or the band ends. -/
def State.pumpVerify (s : State) (k : Nat) : Nat → State
  | 0 => s
  | fuel + 1 =>
    match mget none s.st.verifies k with
    | none => s
    | some v =>
      if v.left ≠ 0 then s
      else
        match s.verifyLocs k v.row with
        | none => if s.journalRoom 4 then s.verifyEnd k v else s
        | some l =>
          let r := s.readAll false (.verify k) l
          let s := r.2.2
          ({ s with st := { s.st with verifies := mset none s.st.verifies k (some { v with row := v.row + 1, left := r.1 }) } }).pumpVerify k fuel

/-- A codeword of a verify-read has been decoded. -/
def State.verifyCodeword (s : State) (k t : Nat) (ok : Bool) : State :=
  match mget none s.st.verifies k with
  | none => s
  | some v =>
    let v := { v with left := v.left - 1, bad := if ok ∨ v.bad.contains t then v.bad else v.bad ++ [t] }
    ({ s with st := { s.st with verifies := mset none s.st.verifies k (some v) } }).pumpVerify k 2049

/-- VERIFY_READ: the verify-read of a CLOSED band begins (R103). It waits while background work is paused and while rows
of the band are staged or resident in SLC, or still being copied to it (R112); a band with a dieblock on a DOWN link or failed
die is not read. -/
def execVerifyRead (p band : Nat) (cqOk : Bool) (s : State) : Answer := answering cqOk s fun s =>
  let k := bandKey p band
  let x := s.bandAt k
  if x.st ≠ .closed ∨ (x.role ≠ 0 ∧ x.role ≠ 1) ∨ (mget none s.st.verifies k).isSome ∨ s.bgPaused p = true ∨
      s.verifiable p band = false ∨ (mget none s.st.slcs k).isSome ∨ (s.movingTo p band).isSome ∨
      s.staged.any (fun e => decide (e.region = p ∧ e.band = band)) then .next s
  else .next (({ s with st := { s.st with verifies := mset none s.st.verifies k (some {}) } }).pumpVerify k 2049)

/-! ### Folding (R107, R108) -/

def State.setSlc (s : State) (k : Nat) (x : Option SlcRec) : State :=
  { s with st := { s.st with slcs := mset none s.st.slcs k x } }

/-- What stands for a codeword at grain position `g` of a band that no read gives: data zero, POISON, and the descriptors the map
keeps (R184). -/
def State.lostCw (s : State) (p b g : Nat) : Bytes × BitVec 256 :=
  let g := g / 4 * 4
  let descs := fun (ti first : Nat) => (List.range 4).foldl (fun (d : BitVec 16) i =>
    d ||| ((s.desc ti (first + i)).setWidth 16 <<< (4 * i))) 0
  let tag : Tag := match s.logOf p b with
    | some n => match s.st.exts.findSome? (fun e => match e.2 with
        | some x => if x.logSlab = n ∧ x.logFirst < g + 4 ∧ g < x.logFirst + x.count then some x else none
        | none => none) with
      | some x => { wseq := s.st.wseq + 1, slab := x.slab, kind := 1, poison := true, grain := x.first + g - x.logFirst
                    desc := descs x.slab (x.first + g - x.logFirst), cgid := x.cgid }
      | none => { poison := true, kind := 1 }
    | none => match (match s.movingTo p b with | some (ti, _) => some ti | none => s.slabOf p b) with
      | some ti => { wseq := s.st.wseq + 1, slab := ti, poison := true, grain := g, desc := descs ti g, cgid := mget 0 s.st.cgid ti }
      | none => { poison := true }
  (List.replicate 4096 0, BitVec.ofNat 256 (leNat tag.bytes))

/-- The codewords of a page from those that were read, by number: data and tag bytes. -/
def gotPage (got : List (Nat × Bytes × BitVec 256)) (first : Nat) : List (Bytes × Bytes) :=
  (List.range 16).map (fun c => match got.find? (fun e => decide (e.1 = first + c)) with
    | some e => (e.2.1, natLe 32 e.2.2.toNat)
    | none => (List.replicate 4096 0, natLe 32 0))

/-- Carry the folding of row F on: once read it is programmed in its QLC row, each codeword with its tag; once programmed F
advances, which is journaled (R107). -/
def State.pumpFold (s : State) (k : Nat) : State :=
  match mget none s.st.slcs k with
  | none => s
  | some x =>
    if x.phase = 1 ∧ x.left = 0 then
      (s.setSlc k (some { x with phase := 2 })).issuePages (bandRegion k) (bandIndex k) x.f false false (fun t => gotPage x.got (16 * t)) (.foldRow k x.f)
    else if x.phase = 2 ∧ s.noCmds (.foldRow k x.f) ∧ (mget none s.st.repairs k).isNone ∧ (s.bandAt k).lossy = false ∧ s.journalRoom 1 then
      let s := s.setSlc k (some { x with f := x.f + 1, phase := 0, got := [] })
      let s := s.journal (bandRegion k) false (.fold (bandIndex k) (x.f + 1))
      s.whenPersisted (.slcFree k x.f)
    else s

/-- An SLC band whose rows are all free and that is not the one being written becomes STALE (R107, R108). -/
def State.freeSlcBands (s : State) (p : Nat) : State :=
  let used := fun (b : Nat) => s.st.slcs.any (fun e => match e.2 with
    | some x => decide (bandRegion e.1 = p) && (x.rows ++ x.pages).any (fun r => decide (r.2.1 = b))
    | none => false)
  foldS (fun (s : State) (e : Nat × Band) =>
    if e.2.role = 2 ∧ e.2.st = .opened ∧ !(used (bandIndex e.1)) ∧ !(s.ending e.1) ∧
        !(match mget none s.st.slcCur p with | some (b, _) => decide (b = bandIndex e.1) | none => false) then s.retireUse e.1
    else s) s (s.listedBands p)

/-- The FOLD entry of a row is persisted: its SLC pages are reusable (R107). -/
def State.slcFree (s : State) (k row : Nat) : State :=
  match mget none s.st.slcs k with
  | none => s
  | some x =>
    let y := { x with rows := x.rows.filter (fun r => decide (r.1 ≠ row)), pages := x.pages.filter (fun r => decide (r.1 / 8 ≠ row)) }
    let s := if y.rows = [] ∧ y.f = y.w then
        let s := s.setSlc k none
        (match s.slabOf (bandRegion k) (bandIndex k) with | some ti => s.setSlab ti { s.slab ti with slc := false } | none => s)
      else s.setSlc k (some y)
    s.freeSlcBands (bandRegion k)

/-- FOLD_ROW: the next resident row of a band is read from the SLC buffer (R107). -/
def execFoldRow (p band : Nat) (s : State) : Answer :=
  let k := bandKey p band
  match mget none s.st.slcs k with
  | none => .next s
  | some x =>
    if x.phase ≠ 0 ∨ x.w ≤ x.f ∨ s.regionReady p = false ∨ s.bgPaused p = true ∨ s.noCmds (.slcRow k x.f) = false then .next s
    else if (s.rowStaged p band x.f).length = 512 then
      let l := s.rowStaged p band x.f
      let got := (List.range 128).map (fun n => (n, (stagedCw l (512 * x.f + 4 * n)).1, BitVec.ofNat 256 (leNat (stagedCw l (512 * x.f + 4 * n)).2)))
      .next ((s.setSlc k (some { x with phase := 1, left := 0, got := got })).pumpFold k)
    else
      let r := s.readAll false (.foldCw k x.f) (s.rowLocs p band (512 * x.f) (Nat.min (s.writtenOf p band) (512 * (x.f + 1))))
      .next ((r.2.2.setSlc k (some { x with phase := 1, left := r.1 })).pumpFold k)

/-- A codeword of the row being folded, number `n` of the row, has come, or is lost. -/
def State.foldCodeword (s : State) (k row n : Nat) (res : Option (Bytes × BitVec 256)) : State :=
  match mget none s.st.slcs k with
  | none => s
  | some x =>
    if x.phase ≠ 1 ∨ x.f ≠ row then s
    else
      let cw := res.getD (s.lostCw (bandRegion k) (bandIndex k) (512 * row + 4 * n))
      (s.setSlc k (some { x with left := x.left - 1, got := x.got ++ [(n, cw)] })).pumpFold k

/-! ### The copy of a dieblock to its replacement (R197) -/

def State.setRepair (s : State) (k : Nat) (x : Option Repair) : State :=
  { s with st := { s.st with repairs := mset none s.st.repairs k x } }

/-- Begin the replacement of a dieblock, or relocate the slab where no replacement is available (R115, R118, R197). The donor's
dieblock is first read on its first row (R137). -/
def State.startRepair (s : State) (k row t : Nat) (more : List (Nat × Nat)) : State :=
  let p := bandRegion k
  let b := bandIndex k
  let tile := 8 * p + t
  match s.movingTo p b, s.donorFor tile b, s.freeRemap p with
  | _, some d, some _ =>
    let c := s.locQlc p d (64 * t)
    (s.setRepair k (some { tile, row, donor := d, old := s.dieblock tile b, more })).sendMedia c.link
      { op := .readPage, die := c.die, planes := 15, block := c.block, page := 0, cwmask := 0x1111, why := .donorRow k }
  | some (ti, m), _, _ =>
    ((s.markFailing tile b).setBandAt k { s.bandAt k with lossy := true }).restartMove ti m true
  | _, _, _ =>
    let s := s.retireDieblock tile b
    let s := s.setBandAt k { s.bandAt k with lossy := true }
    s.askBand p b .loss

/-- The codewords that row `r` of a band holds on tile offset `t`, for a program that is made again: from the fold or the move
that has read them, else from staging (R197). -/
def State.rowPage (s : State) (k r t : Nat) : List (Bytes × Bytes) :=
  let fold := match mget none s.st.slcs k with
    | some x => if x.phase = 2 ∧ x.f = r then some x.got else none
    | none => none
  match fold, s.movingTo (bandRegion k) (bandIndex k) with
  | some got, _ => gotPage got (16 * t)
  | none, some (ti, m) => if m.phase = 2 ∧ m.copied = r then s.movePage m ti r t else stagedPage (s.rowStaged (bandRegion k) (bandIndex k) r) r t
  | none, none => stagedPage (s.rowStaged (bandRegion k) (bandIndex k) r) r t

/-- Whether row `r` of a band lies in its QLC place on tile offset `t`: programmed there, and not resident in SLC or still
staged. -/
def State.onQlc (s : State) (k r t : Nat) : Bool :=
  (match mget none s.st.slcs k with | some x => decide (r < x.f ∨ x.w ≤ r) | none => true) &&
  (s.rowStaged (bandRegion k) (bandIndex k) r).all (fun e => decide (grainTile e.at_ ≠ t) || e.programmed)

/-- Carry the copy on: page by page, then the REMAP, then the failed row, then the dieblock is retired (R197). -/
def State.pumpRepair (s : State) (k : Nat) : Nat → State
  | 0 => s
  | fuel + 1 =>
    match mget none s.st.repairs k with
    | none => s
    | some x =>
      let p := bandRegion k
      let b := bandIndex k
      let t := x.tile
      if x.phase = 0 ∧ x.next < x.row then
        if s.onQlc k x.next (t % 8) = false then (s.setRepair k (some { x with next := x.next + 1 })).pumpRepair k fuel
        else
          let r := s.readAll true (.repairCw k) (((List.range 16).map (fun c => s.locQlc p b (512 * x.next + 64 * (t % 8) + 4 * c))))
          (r.2.2.setRepair k (some { x with phase := 1, left := r.1, got := [] })).pumpRepair k fuel
      else if x.phase = 0 then
        if s.journalRoom 4 = false then s
        else
          let s := s.remapTo t b x.donor
          let c := s.locQlc p b (512 * x.row + 64 * (t % 8))
          let s := s.setRepair k (some { x with phase := 3 })
          s.sendMedia c.link { op := .program, die := c.die, planes := 15, block := c.block, page := c.page
                               data := c.frames (s.rowPage k x.row (t % 8)), why := .row k x.row }
      else if x.phase = 1 ∧ x.left = 0 then
        let c := s.locQlc p x.donor (512 * x.next + 64 * (t % 8))
        let got := (List.range 16).map (fun n => match x.got.find? (fun e => decide (e.1 = n)) with
          | some e => e
          | none => (n, s.lostCw p b (512 * x.next + 64 * (t % 8) + 4 * n)))
        (s.setRepair k (some { x with phase := 2 })).sendMedia c.link
          { op := .program, die := c.die, planes := 15, block := c.block, page := c.page, data := c.frames (gotPage got 0), why := .repairProg k x.next }
      else if x.phase = 2 ∧ s.noCmds (.repairProg k x.next) then
        (s.setRepair k (some { x with phase := 0, next := x.next + 1 })).pumpRepair k fuel
      else if x.phase = 3 ∧ s.noCmds (.row k x.row) then
        let s := s.retireDb t x.old
        match x.more with
        | [] => (s.setRepair k none).issueRows
        | (r, u) :: rest => ((s.setRepair k none).startRepair k r u rest).pumpRepair k fuel
      else s

/-- A codeword of the page being copied, number `n` of the page, has come, or is lost. -/
def State.repairCodeword (s : State) (k n : Nat) (res : Option (Bytes × BitVec 256)) : State :=
  match mget none s.st.repairs k with
  | none => s
  | some x =>
    if x.phase ≠ 1 then s
    else
      let got := match res with | some cw => x.got ++ [(n, cw)] | none => x.got
      (s.setRepair k (some { x with left := x.left - 1, got := got })).pumpRepair k 3

/-- The first row of the donor's dieblock has been read: the copy begins, or another donor is taken (R137). -/
def State.donorRead (s : State) (k : Nat) (erased : Bool) : State :=
  match mget none s.st.repairs k with
  | none => s
  | some x =>
    if x.phase ≠ 4 then s
    else if erased then (s.setRepair k (some { x with phase := 0 })).pumpRepair k 3
    else
      let s := { s with st := { s.st with badDonors := s.st.badDonors ++ [dbKey x.tile x.donor] } }
      (s.setRepair k none).startRepair k x.row (x.tile % 8) x.more

/-- PROGRAM_FAIL on the dieblock of tile offset `t` of a QLC band at a row: it is replaced, or the slab is relocated and the
dieblock retired with its band (R115, R118, R197). A second one in the band waits for the copy under way. -/
def State.programFailed (s : State) (k row t : Nat) : State :=
  match mget none s.st.repairs k with
  | some x => s.setRepair k (some { x with more := x.more ++ [(row, t)] })
  | none => (s.startRepair k row t []).pumpRepair k 2

/-! ### Refresh (R196) -/

/-- Ask for the refresh of a CLOSED or VERIFIED band of a slab or log slab. -/
def State.askRefresh (s : State) (k : Nat) : State :=
  let x := s.bandAt k
  if (x.st = .closed ∨ x.st = .verified) ∧ (x.role = 0 ∨ x.role = 1) then s.askBand (bandRegion k) (bandIndex k) .refresh else s

/-- BAND_AGE_REFRESH: a band's age has reached the limit (R196). -/
def execBandAgeRefresh (p band : Nat) (s : State) : Answer :=
  let k := bandKey p band
  match (s.bandAt k).firstProg with
  | some t => .next (if 86400 * s.param 0x030014 180 ≤ s.ageNow - t then s.askRefresh k else s)
  | none => .next s

/-! ### Everything that waits -/

/-- Bands that wait for another band to take their place. -/
def State.retryHomes (s : State) : State :=
  foldS (fun (s : State) (e : Nat × Band) => if e.2.checking = [wantsOther] then s.giveWay e.1 else s) s s.st.bands

/-- Program a page of a resident row again at the next free page of the region's SLC buffer (R198); it waits while there
is none. -/
def State.slcRetry (s : State) (e : Nat × Nat × Nat) : State :=
  match mget none s.st.slcs e.1 with
  | none => { s with st := { s.st with slcAgain := s.st.slcAgain.erase e } }
  | some _ =>
    let p := bandRegion e.1
    match s.slcPlace p with
    | (none, s) => s
    | (some (sb, sr), s) =>
      let n := 8 * e.2.1 + e.2.2
      let s := { s with st := { s.st with slcAgain := s.st.slcAgain.erase e } }
      let s := match mget none s.st.slcs e.1 with
        | some x => s.setSlc e.1 (some { x with pages := (n, sb, sr) :: x.pages.filter (fun y => decide (y.1 ≠ n)) })
        | none => s
      let c := s.locQlc p sb (512 * sr + 64 * e.2.2)
      (s.noteAge (bandKey p sb)).sendMedia c.link { op := .program, slc := true, die := c.die, planes := 15, block := c.block, page := c.page
                                                    data := { c with slc := true }.frames (s.rowPage e.1 e.2.1 e.2.2), why := .slcRow e.1 e.2.1 }

/-- Let everything that waited for staging, a program, the journal or a region go on. -/
def State.pump (s : State) (cqOk : Bool) : State :=
  let s := (foldS (fun (s : State) (e : Nat × Band) => s.finishErase e.1) s s.st.bands).pumpEmpty
  let s := foldS (fun (s : State) (e : Nat × Option Verify) => s.pumpVerify e.1 2) s s.st.verifies
  let s := ((s.retryHomes).poolChanged).issueRows
  let s := foldS (fun (s : State) (e : Nat × Nat × Nat) => s.slcRetry e) s.parityRetry s.st.slcAgain
  let s := foldS (fun (s : State) (e : Nat × Option Repair) => s.pumpRepair e.1 3) s s.st.repairs
  let s := foldS (fun (s : State) (e : Nat × Option SlcRec) => s.pumpFold e.1) s s.st.slcs
  let s := foldS (fun (s : State) (e : Nat × Option Move) => s.pumpMove e.1 3) s s.st.moves
  (s.pumpJournal).pumpWrites cqOk

/-- Relocate every OPEN, CLOSED or VERIFIED band among those that satisfy `p` (R199, R435). -/
def State.relocateBands (s : State) (p : Nat → Band → Bool) : State :=
  foldS (fun (s : State) (e : Nat × Band) =>
    if (e.2.role = 0 ∨ e.2.role = 1) ∧ p e.1 e.2 then
      match s.st.moves.find? (fun y => match y.2 with | some m => decide (bandKey m.dstRegion m.dstBand = e.1) | none => false) with
      | some (ti, some m) => s.restartMove ti m (!e.2.taken)
      | _ => s.askBand (bandRegion e.1) (bandIndex e.1) .loss
    else s) s s.st.bands

end Sys2Proof.Machine
end

