-- ==== Sys2Proof/Machine/Stages.lean ====
section
/-! DEFINITION. Pipeline descriptors (R202, R203) and what the stages of a segment compute (R210, R211, R222, R358 to
R360): decryption, expansion, framing, matching and digests. -/

namespace Sys2Proof.Machine

/-! ### The descriptor (R202) -/

/-- Byte `i` of a byte string as a number. -/
def byteNat (b : Bytes) (i : Nat) : Nat := (byteAt b i).toNat

def pipeNst (p : Bytes) : Nat := byteNat p 2 % 16
def pipeRecfmt (p : Bytes) : Nat := byteNat p 3 % 4
def pipeReclen (p : Bytes) : Nat := fieldLe p 4 4
def pipeOrder (p : Bytes) : Bool := decide (byteNat p 8 % 2 = 1)
def pipeFramed (p : Bytes) : Bool := decide (byteNat p 8 / 2 % 2 = 1)
def pipeSkipBad (p : Bytes) : Bool := decide (byteNat p 8 / 4 % 2 = 1)
def pipePrio (p : Bytes) : Nat := byteNat p 9 % 8

/-- A stage entry (R202). -/
structure Stage where
  kind : Nat
  mode : Nat
  kslot : Nat
  fromRun : Bool
  handle : Nat
  ctx : Nat
  keyOff : Nat
  keyLen : Nat
  paramOff : Nat
  paramLen : Nat
deriving DecidableEq, Repr

/-- Stage `i` of a descriptor. -/
def stageAt (p : Bytes) (i : Nat) : Stage :=
  let b := slice p (64 + 32 * i) 32
  { kind := byteNat b 0, mode := byteNat b 1, kslot := fieldLe b 2 2 % 4096, fromRun := decide (fieldLe b 2 2 / 4096 % 2 = 1),
    handle := fieldLe b 4 2, ctx := fieldLe b 6 2, keyOff := fieldLe b 8 2, keyLen := byteNat b 10 % 32,
    paramOff := fieldLe b 12 4, paramLen := fieldLe b 16 4 }

def stagesOf (p : Bytes) : List Stage := (List.range (pipeNst p)).map (stageAt p)

def Stage.isProgram (x : Stage) : Bool := decide (x.kind = 3)
/-- Stages that use a cipher slot, and those that use an HMAC slot. -/
def Stage.cipher (x : Stage) : Bool := decide (x.kind = 1 ∨ x.kind = 7)
def Stage.keyed (x : Stage) : Bool := decide (x.kind = 5 ∧ 2 ≤ x.mode)
/-- A per-range digest. -/
def Stage.perRange (x : Stage) : Bool := decide (x.kind = 5 ∧ x.mode % 2 = 1)

/-- The position of the EXPAND stage, if the pipeline expands. -/
def pipeExpand (p : Bytes) : Option Nat := (List.range (pipeNst p)).find? (fun i => decide ((stageAt p i).kind = 2))
/-- Whether stage 0 decrypts, and in which mode. -/
def pipeDecrypt (p : Bytes) : Option Nat := if (stageAt p 0).kind = 1 then some (stageAt p 0).mode else none
/-- The first stage after DECRYPT and EXPAND. -/
def pipeFirst (p : Bytes) : Nat :=
  match pipeExpand p with
  | some i => i + 1
  | none => if (pipeDecrypt p).isSome then 1 else 0
/-- Whether segments pass anything on (R210, R360). -/
def pipeSeams (p : Bytes) : Bool :=
  decide (pipeRecfmt p ≠ 0) || (pipeExpand p).isSome || decide (pipeDecrypt p = some 1)
/-- Whether the pipeline has a per-range digest. -/
def pipeRangeDigest (p : Bytes) : Bool := (stagesOf p).any (fun x => x.perRange)

/-- Scan banks an item needs (R212). -/
def pipeBanks (p : Bytes) : Nat :=
  1 + (if (pipeExpand p).isSome then 1 else 0) +
    (if ((stagesOf p).drop (pipeFirst p)).any (fun x => decide (x.kind = 3 ∨ x.kind = 6 ∨ x.kind = 7)) then 1 else 0)

/-! ### Segments of a range (R207) -/

def RangeSt.segLo (r : RangeSt) (k : Nat) : Nat := Nat.max r.lo (64 * (r.lo / 64 + k))
def RangeSt.segHi (r : RangeSt) (k : Nat) : Nat := Nat.min r.hi (64 * (r.lo / 64 + k + 1))
def RangeSt.segments (r : RangeSt) : Nat := if r.lo < r.hi then (r.hi - 1) / 64 - r.lo / 64 + 1 else 0

/-! ### GCM objects (R358 to R360) -/

/-- The additional data of an object is its header and the AADLEN bytes (R358). -/
def gcmHeaderOk (h : Bytes) : Bool :=
  decide (fieldLe h 0 4 ≤ 16777216 ∧ fieldLe h 4 2 ≤ 4096 ∧ fieldLe h 6 2 = 0) && (slice h 20 12).all (fun b => decide (b = 0))

/-- Feed the stream of GCM objects: plaintext, the state after it, and whether the objects have ended; or the offset of
an object that fails. -/
def gcmFeed (key : Bytes) : Nat → GcmSt → Bytes → Except Nat (Bytes × GcmSt × Bool)
  | 0, g, acc => .ok (acc, g, false)
  | fuel + 1, g, acc =>
    let n := g.buf.length
    let take := fun (k : Nat) (g : GcmSt) => { g with buf := g.buf.drop k, pos := g.pos + k }
    match g.phase with
    | 0 =>
      if n < 32 then .ok (acc, g, false)
      else
        let h := g.buf.take 32
        if fieldLe h 0 4 = 0 then .ok (acc, g, true)
        else if gcmHeaderOk h = false then .error g.pos
        else gcmFeed key fuel { take 32 g with
          phase := 1, start := g.pos, objLen := fieldLe h 0 4, aadLen := fieldLe h 4 2, hdr := h } acc
    | 1 =>
      if n < g.aadLen then .ok (acc, g, false)
      else
        let aad := g.hdr ++ g.buf.take g.aadLen
        gcmFeed key fuel { take g.aadLen g with
          phase := 2, left := g.objLen, ctr := gcmInc (gcmJ0 (slice g.hdr 8 12)),
          y := ghash (gcmH key) (blocks16 aad) 0 aad } acc
    | 2 =>
      if g.left = 0 then gcmFeed key fuel { g with phase := 3 } acc
      else
        let k := if g.left ≤ n then g.left else n / 16 * 16
        if k = 0 then .ok (acc, g, false)
        else
          let c := g.buf.take k
          let r := gcmCtr key (blocks16 c) g.ctr c
          gcmFeed key fuel { take k g with
            left := g.left - k, ctr := r.2, y := ghash (gcmH key) (blocks16 c) g.y c, made := g.made + k } (acc ++ r.1)
    | 3 =>
      if n < 16 then .ok (acc, g, false)
      else
        let tag := gcmTag key (gcmJ0 (slice g.hdr 8 12)) g.y (32 + g.aadLen) g.objLen
        if tag ≠ g.buf.take 16 then .error g.start
        else gcmFeed key fuel { take 16 g with
          phase := 4, left := (16 - (g.aadLen + g.objLen) % 16) % 16 } acc
    | _ =>
      if n < g.left then .ok (acc, g, false)
      else if (g.buf.take g.left).any (fun b => decide (b ≠ 0)) then .error g.start
      else gcmFeed key fuel { take g.left g with
        phase := 0, left := 0, objLen := 0, aadLen := 0, hdr := [], ctr := 0, y := 0 } acc

/-! ### Expanding (R210, R211, R222, R330) -/

/-- What the expansion of a list of grains gives. -/
structure Expanded where
  out : Bytes := []
  marks : List (Nat × Nat) := []      -- (offset in `out`, grain) of each unit
  rest : List (Nat × BitVec 4 × Bytes) := []
  err : Option (Nat × Nat × Nat) := none -- code, grain, token offset
deriving DecidableEq, Repr

/-- Further-grain descriptors at the head of a list, at most 4. -/
def furtherIn (l : List (Nat × BitVec 4 × Bytes)) : Nat :=
  ((l.take 4).takeWhile (fun e => decide (descKind e.2.1 = 3))).length

/-- Expand the units of a list of grains, first to last. -/
def expandGrains : Nat → List (Nat × BitVec 4 × Bytes) → Expanded → Expanded
  | 0, _, x => x
  | _, [], x => x
  | fuel + 1, (g, d, b) :: r, x =>
    if descKind d ≠ 2 then { x with err := some (0x47, g, 0) }
    else
      let bin := descBin d
      if r.length < bin then { x with rest := (g, d, b) :: r }
      else
        let u := b ++ ((r.take bin).map (·.2.2)).flatten
        match slabExpand bin (furtherIn r) u with
        | .error e => { x with err := some (e.code, g, e.off) }
        | .ok out => expandGrains fuel (r.drop bin) { x with out := x.out ++ out, marks := x.marks ++ [(x.out.length, g)] }

/-! ### Framing (R202, R211) -/

/-- What framing a stream gives: records with their offset, the bytes left, and where the framing ended. -/
structure Framed where
  recs : List (Nat × Bytes) := []
  rest : Bytes := []
  stop : Option Nat := none
deriving DecidableEq, Repr

/-- Cut records from a stream. A length prefix counts the whole record; one of 0, above RECLEN or below its own size
ends the framing. -/
def frameRecs (fmt reclen : Nat) : Nat → Nat → Bytes → List (Nat × Bytes) → Framed
  | 0, _, b, acc => { recs := acc.reverse, rest := b }
  | _, _, [], acc => { recs := acc.reverse }
  | fuel + 1, p, b@(_ :: _), acc =>
    let w := if fmt = 2 then 2 else 4
    if fmt ≠ 1 ∧ b.length < w then { recs := acc.reverse, rest := b }
    else
      let n := if fmt = 1 then reclen else fieldLe b 0 w
      if fmt ≠ 1 ∧ (n < w ∨ reclen < n) then { recs := acc.reverse, stop := some p }
      else if n = 0 ∨ b.length < n then { recs := acc.reverse, rest := b }
      else frameRecs fmt reclen fuel (p + n) (b.drop n) ((p, b.take n) :: acc)

/-- The grain that holds an offset of the stream, by the marks of its units or grains. -/
def grainOf (marks : List (Nat × Nat)) (p dflt : Nat) : Nat :=
  ((marks.filter (fun m => decide (m.1 ≤ p))).getLast?.map (·.2)).getD dflt

/-! ### A segment up to its records -/

/-- What the stages before the records give for a segment. -/
structure SegIn where
  recs : List Rec := []
  carry : Carry := {}
  skip : Nat := 0
  trunc : Nat := 0
deriving DecidableEq, Repr

/-- Regroup plaintext into grains of 1,024 bytes, numbered on from the first of the carried ones. -/
def regroup (first : Nat) (descs : Nat → BitVec 4) : Nat → Bytes → List (Nat × BitVec 4 × Bytes)
  | 0, _ => []
  | _, [] => []
  | fuel + 1, b => (first, descs first, b.take 1024) :: regroup (first + 1) descs fuel (b.drop 1024)

/-- Expand, if the pipeline does; the stream, its marks, the cut unit, or the code and DETAIL of a failure; and grains
skipped (R222). -/
def segExpand (p : Bytes) (last : Bool) (lo hi : Nat) (unit : List (Nat × BitVec 4 × Bytes))
    (grains : List (Nat × BitVec 4 × Bytes)) (plain : Bytes) :
    Except (Nat × DWord) (Bytes × List (Nat × Nat) × List (Nat × BitVec 4 × Bytes) × Nat) :=
  match pipeExpand p with
  | none => .ok (plain, (grains.zip (List.range grains.length)).map (fun e => (1024 * e.2, e.1.1)), [], 0)
  | some _ =>
    let whole := (unit ++ grains).takeWhile (fun e => decide (e.2.2.length = 1024))
    let part := (unit ++ grains).drop whole.length
    let x := expandGrains (whole.length + 1) whole {}
    match x.err with
    | some (code, g, off) =>
      if pipeSkipBad p then .ok (x.out, x.marks, [], hi - Nat.max g lo)
      else .error (code, BitVec.ofNat 64 (g + Nat.min off 4095 * 1048576))
    | none => .ok (x.out, x.marks, if last then [] else x.rest ++ part, 0)

/-- A segment that could not be read (R222): it adds nothing, and what crosses it is dropped. A GCM object that crosses
it cannot be authenticated. -/
def segSkipped (p : Bytes) (c : Carry) (n : Nat) : Except (Nat × DWord) SegIn :=
  if pipeDecrypt p = some 1 then .error (0x49, BitVec.ofNat 64 c.gcm.start)
  else
    let base := if (pipeExpand p).isSome then c.base else c.base + c.record.length + 1024 * n
    .ok { carry := { c with unit := [], record := [], base := base }, skip := n }

/-- Frame a stream into records (R210, R211). -/
def segFrame (p : Bytes) (c : Carry) (last : Bool) (lo hi : Nat) (stream : Bytes) (marks : List (Nat × Nat))
    (unit : List (Nat × BitVec 4 × Bytes)) (skip : Nat) : SegIn :=
  let buf := c.record ++ stream
  let marks := marks.map (fun m => (m.1 + c.record.length, m.2))
  if pipeRecfmt p = 0 then
    { recs := if buf = [] then [] else [{ data := buf, off := c.base }]
      carry := { c with unit := unit, record := [], base := c.base + buf.length }, skip := skip }
  else
    let f := frameRecs (pipeRecfmt p) (pipeReclen p) (buf.length + 1) 0 buf []
    let recs := f.recs.map (fun e => ({ data := e.2, off := c.base + e.1 } : Rec))
    match f.stop with
    | some at' =>
      { recs := recs, skip := skip + (hi - Nat.max lo (grainOf marks at' lo))
        carry := { c with unit := [], record := [], base := c.base + at', ended := true } }
    | none =>
      { recs := recs, skip := skip, trunc := if last = true ∧ f.rest ≠ [] then 1 else 0
        carry := { c with unit := unit, record := if last then [] else f.rest, base := c.base + buf.length - f.rest.length } }

/-- What segment [lo, hi) of a range gives: `grains` are its grains as stored, `slab` the slab's number, `key` the
DECRYPT stage's key, `descs` the descriptors of the slab. -/
def segInput (p key : Bytes) (inst slab first : Nat) (descs : Nat → BitVec 4) (c : Carry) (last : Bool) (lo hi : Nat)
    (grains : List (Nat × BitVec 4 × Bytes)) : Except (Nat × DWord) SegIn :=
  if c.ended then .ok { carry := c }
  else match pipeDecrypt p with
    | some 1 =>
      let g := { c.gcm with buf := c.gcm.buf ++ (grains.map (·.2.2)).flatten }
      match gcmFeed key (5 * (g.buf.length + 1)) g [] with
      | .error at' => .error (0x49, BitVec.ofNat 64 at')
      | .ok (plain, g', ended) =>
        let old := (c.unit.map (·.2.2)).flatten
        let n0 := match c.unit with | e :: _ => e.1 | [] => first + c.gcm.made / 1024
        let pieces := if (pipeExpand p).isSome then regroup n0 descs ((old ++ plain).length + 1) (old ++ plain) else []
        match segExpand p (last || ended) lo hi [] pieces plain with
        | .error e => .error e
        | .ok (stream, _, rest, skip) =>
          let x := segFrame p { c with gcm := g' } (last || ended) lo hi stream [(0, lo)] rest skip
          .ok (if ended then { x with carry := { x.carry with ended := true }
                                      skip := x.skip + (hi - first - Nat.min (hi - first) ((g'.pos + 1023) / 1024)) } else x)
    | some _ =>
      let gs := grains.map (fun e => (e.1, e.2.1, xtsUnit true key (xtsTweak inst slab e.1) e.2.2))
      match segExpand p last lo hi c.unit gs (gs.map (·.2.2)).flatten with
      | .error e => .error e
      | .ok (stream, marks, rest, skip) => .ok (segFrame p c last lo hi stream marks rest skip)
    | none =>
      match segExpand p last lo hi c.unit grains (grains.map (·.2.2)).flatten with
      | .error e => .error e
      | .ok (stream, marks, rest, skip) => .ok (segFrame p c last lo hi stream marks rest skip)

/-! ### Output (R215, R216, R362) -/

/-- An output record header (R215). -/
def recHeader (len rng flags off : Nat) : Bytes :=
  natLe 4 len ++ natLe 2 rng ++ [BitVec.ofNat 8 flags, 0] ++ natLe 8 off

/-- Records as they go to the output. -/
def recsOut (framed raw : Bool) (rng : Nat) (l : List Rec) : Bytes :=
  (l.map (fun r => if framed = true ∧ raw = false then
    recHeader r.data.length rng (if r.hit then 1 else 0) r.off ++ r.data else r.data)).flatten

/-- What ends a range's output: its digests, or with FRAMED a header with LAST (R203, R215). -/
def rangeEnd (framed : Bool) (rng off : Nat) (digests : List Bytes) : Bytes :=
  if digests = [] then (if framed then recHeader 0 rng 4 off else [])
  else ((digests.zip (List.range digests.length)).map (fun (e : Bytes × Nat) =>
    (if framed then recHeader 32 rng (2 + (if e.2 + 1 = digests.length then 4 else 0)) off else []) ++ e.1)).flatten

/-- One piece as a GCM object with AADLEN 0 (R358, R362). -/
def gcmObject (key fixed : Bytes) (rng off : Nat) (piece : Bytes) : Bytes :=
  if piece = [] then []
  else
    let iv := slice fixed 0 4 ++ natLe 2 rng ++ natLe 6 off
    let h := natLe 4 piece.length ++ natLe 4 0 ++ iv ++ List.replicate 12 0
    let r := gcmWhole true key iv h piece
    let b := h ++ r.1 ++ r.2
    b ++ List.replicate ((16 - b.length % 16) % 16) 0

/-- Add bytes to a running digest: chaining value, count and rest. -/
def shaAdd (st : List Word) (n : Nat) (rest b : Bytes) : List Word × Nat × Bytes :=
  let all := rest ++ b
  let k := all.length / 64
  (shaBlocks k st all, n + b.length, all.drop (64 * k))

end Sys2Proof.Machine
end

