-- ==== Sys2Proof/Machine/Runs.lean ====
section
/-! DEFINITION. RUNs (08): ranges and their segments, what an item's stages do, release in order, stops, and the status
block. The key of a RUN is that of its command in the operation table. -/

namespace Sys2Proof.Machine

/-! ### Parts of a RUN -/

def State.modRun (s : State) (k : Nat) (f : RunSt → RunSt) : State :=
  match s.runOf k with | some r => s.setRun k (some (f r)) | none => s

/-- The submission entry of a RUN. -/
def State.runSqe (s : State) (k : Nat) : Sqe := match s.op (k / 32) (k % 32) with | some o => o.sqe | none => 0

def RunSt.range? (r : RunSt) (i : Nat) : Option RangeSt := r.act.find? (fun x => decide (x.idx = i))
def RunSt.setRange (r : RunSt) (x : RangeSt) : RunSt := { r with act := r.act.map (fun y => if y.idx = x.idx then x else y) }
def RunSt.seg? (r : RunSt) (i j : Nat) : Option SegSt := r.segs.find? (fun x => decide (x.rng = i ∧ x.seg = j))
def RunSt.setSeg (r : RunSt) (x : SegSt) : RunSt :=
  { r with segs := r.segs.map (fun y => if y.rng = x.rng ∧ y.seg = x.seg then x else y) }
def RunSt.dropSeg (r : RunSt) (i j : Nat) : RunSt := { r with segs := r.segs.filter (fun y => !decide (y.rng = i ∧ y.seg = j)) }

def State.putSeg (s : State) (k : Nat) (x : SegSt) : State := s.modRun k (fun r => r.setSeg x)
def State.putRange (s : State) (k : Nat) (x : RangeSt) : State := s.modRun k (fun r => r.setRange x)

/-- The slot a stage uses (R202). -/
def stageSlot (e : Sqe) (x : Stage) : Nat := if x.fromRun then Sqe.kslot e else x.kslot
/-- The generation a RUN references in a slot (R352). -/
def RunSt.genOf (r : RunSt) (slot : Nat) (hmac : Bool) : Nat :=
  ((r.keys.find? (fun x => decide (x.1 = slot ∧ x.2.2 = hmac))).map (·.2.1)).getD 0
/-- The cipher key of a stage. -/
def State.stageKey (s : State) (k : Nat) (r : RunSt) (x : Stage) : Bytes :=
  let slot := stageSlot (s.runSqe k) x
  s.keyBytes slot (r.genOf slot false)
/-- The HMAC states of a stage. -/
def State.stageHmac (s : State) (k : Nat) (r : RunSt) (x : Stage) : List Word × List Word :=
  let slot := stageSlot (s.runSqe k) x
  match (s.hslot slot).gen? (r.genOf slot true) with
  | some g => (g.inner, g.outer)
  | none => (shaInit, shaInit)

/-- The ENCRYPT stage of a pipeline, and whether it has a REDUCE stage. -/
def pipeEncrypt (p : Bytes) : Option Stage := (stagesOf p).find? (fun x => decide (x.kind = 7))
def pipeReduce (p : Bytes) : Bool := (stagesOf p).any (fun x => decide (x.kind = 6))

/-! ### Progress and the status block (R218, R219) -/

/-- DONE of an active range. -/
def RangeSt.doneGrains (r : RangeSt) (p : Bytes) : Nat :=
  if pipeRangeDigest p ∨ r.rel = 0 then 0 else Nat.min r.hi (r.segLo r.rel) - r.lo

/-- The lowest range index not complete. -/
def RunSt.nextRange (r : RunSt) : Nat :=
  ((List.range (r.ranges.length + 1)).find? (fun i => !(r.done.contains i))).getD 0

/-- Bytes 0 to 55 of the status block (R218). -/
def RunSt.statusBlock (r : RunSt) : Bytes :=
  let nr := r.nextRange
  let stop := match r.closing with | some (_, _, _, c) => c | none => 0
  let dup := r.act.any (fun x => decide (x.later ≠ []))
  natLe 8 (r.base + r.out) ++ natLe 2 nr ++ [BitVec.ofNat 8 stop, if dup then 3 else 1] ++ natLe 2 r.handle ++
    natLe 2 (Nat.min r.runs 65535) ++
    (List.range 32).map (fun b => BitVec.ofNat 8 ((List.range 8).foldl (fun a i =>
      if r.done.contains (nr + 8 * b + i) then a + 2 ^ i else a) 0)) ++
    natLe 4 (Nat.min r.skipped 0xFFFFFFFF) ++ natLe 4 (Nat.min r.trunc 0xFFFFFFFF)

/-- The 512-byte progress table (R218). -/
def RunSt.progressTable (r : RunSt) : Bytes :=
  padTo 512 ((r.act.take 64).map (fun x => natLe 8 (x.idx + 4096 + x.doneGrains r.pipe * 65536))).flatten

/-! ### Output (R215 to R217) -/

/-- Grains a slab output still holds back, its partial grain included. -/
def RunSt.held (r : RunSt) : Nat := r.outG.length + (if r.outB = [] then 0 else 1)

/-- The longest run of whole units of at most 1,024 grains at the head of a list (R77). -/
def groupLen (l : List (Bytes × BitVec 4)) : Nat :=
  if l.length ≤ 1024 then l.length
  else ((List.range 1025).reverse.find? (fun n => decide (descKind ((l.getD n ([], 0)).2) ≠ 3))).getD 1024

/-- Stage slab output in commit groups, as far as staging allows; `all` at the end, when the partial grain is padded
(R216). -/
def State.pumpOut (s : State) (k : Nat) (all : Bool) : Nat → State
  | 0 => s
  | fuel + 1 =>
    match s.runOf k with
    | none => s
    | some r => match r.toSlab with
      | none => s
      | some ti =>
        let r := if all = true ∧ r.outB ≠ [] then { r with outG := r.outG ++ [(padTo 1024 r.outB, descPlain)], outB := [] } else r
        if r.outG = [] ∨ (all = false ∧ r.outG.length < 1024) then s.setRun k (some r)
        else match s.appendPlace ti with
          | none => s.setRun k (some r)
          | some (p, b) =>
            let n := groupLen r.outG
            let wp := (s.slab ti).wp
            if s.canStage p b n 0 0 0 = false ∨ Config.slabGrains < wp + n then s.setRun k (some r)
            else
              let gs := (r.outG.take n).map (fun e => ({ data := e.1, desc := e.2 } : NewGrain))
              let gs := match pipeEncrypt r.pipe with
                | some x =>
                  let key := s.stageKey k r x
                  let slab := Sqe.slabNo (s.runSqe k)
                  (gs.zip (List.range n)).map (fun (e : NewGrain × Nat) => { e.1 with data := xtsUnit false key (xtsTweak r.inst slab (wp + e.2)) e.1.data })
                | none => gs
              let s := (s.stageGroup ti wp p b wp 0 gs).advanceWp ti (wp + n)
              ((s.setRun k (some { r with outG := r.outG.drop n })).issueRows).pumpOut k all fuel

/-! ### Stops (R217, R222, R291, R297) -/

/-- Remove the items of a RUN that wait: queued, timed and spilled; answers how many. -/
def State.removeItems (s : State) (p : Item → Bool) : Nat × State :=
  foldS (fun (acc : Nat × State) (q : Nat) =>
    let r := acc.2.region q
    let n := (r.ready.filter p).length + (r.timers.filter p).length + (r.spilled.filter p).length
    if n = 0 then acc
    else
      let r' : Region := { r with
        ready := r.ready.filter (fun x => !p x)
        timers := r.timers.filter (fun x => !p x)
        spilled := r.spilled.filter (fun x => !p x) }
      let held := (r.ready ++ r.timers ++ r.spilled).filter (fun x => p x && x.holds)
      let s := foldS (fun (s : State) (x : Item) => s.freeBanks x.affinity 1) acc.2 held
      (acc.1 + n, (s.setRegion q r').notePush q)) (0, s) (List.range 8)

/-- An active range stops reading its band (R221): a STALE band's erase may go on. -/
def State.leaveBand (s : State) (r : RangeSt) : State :=
  let b := s.band r.region r.band
  let s := s.setBand r.region r.band { b with readers := b.readers - 1 }
  s.tryErase (bandKey r.region r.band)

/-- What a chain keeps of the active ranges (R219). -/
def RunSt.keptOf (r : RunSt) : List (Nat × Nat × Bool × Carry) :=
  r.act.map (fun x => (x.idx, x.doneGrains r.pipe, x.kept.1, x.kept.2))

/-- Note in the chain of a RUN where its ranges stand. -/
def State.keepChain (s : State) (k : Nat) (r : RunSt) : State :=
  let aptr := (Sqe.aptr (s.runSqe k)).toNat
  let c : Chain := { handle := r.handle, rlist := Sqe.field (s.runSqe k) 40 8, kept := r.keptOf }
  let others := s.ld.chains.filter (fun e => !decide (e.1 = r.inst ∧ e.2.1 = aptr))
  { s with ld := { s.ld with chains := (r.inst, aptr, c) :: others } }

/-- Segments of a RUN that has stopped: those queued or waiting for release are gone, those read on a core end with its
next DONE. -/
def State.stopSegs (s : State) (k : Nat) (r : RunSt) : State :=
  let s := foldS (fun (s : State) (g : SegSt) => if g.ph = 4 then s.freeBanks (g.core.getD g.tile) 1 else s) s r.segs
  let s := foldS (fun (s : State) (g : SegSt) => match g.core with
    | some t => if g.ph = 1 then s.setCore t { s.core t with mode := .done } else s
    | none => s) s r.segs
  let live := fun (r : RunSt) => (r.segs.filter (fun g => decide (1 ≤ g.ph ∧ g.ph ≤ 3))).map
    (fun (g : SegSt) => if g.ph = 1 then { g with ph := 3 } else g)
  s.modRun k (fun r => { r with segs := live r })

/-- Range `i` is about to fail the RUN: its slab is the one concerned (R32). -/
def State.noteFailSlab (s : State) (k i : Nat) : State :=
  s.modRun k (fun r =>
    if r.closing.isSome then r else { r with failSlab := BitVec.ofNat 32 (r.ranges.getD i (0, 0, 0)).1 })

/-- Output bytes of a RUN that are written: those not staged of slab output are not (R81). -/
def RunSt.written (r : RunSt) : Nat := if r.toSlab.isSome then r.out - 1024 * r.outG.length - r.outB.length else r.out

/-- Put range `x` back as it stood: it is active again, and not done. -/
def RunSt.restore (r : RunSt) (x : RangeSt) : RunSt :=
  { r with
    done := r.done.filter (fun i => decide (i ≠ x.idx))
    act := if r.act.any (fun y => decide (y.idx = x.idx)) then r.act.map (fun y => if y.idx = x.idx then x else y) else r.act ++ [x] }

/-- A RUN that fails or is aborted keeps the commit groups of its slab output that are durable and discards the rest (R81, R88,
R222): its progress counts no segment whose output was discarded (R218). -/
def RunSt.rollBack (r : RunSt) : RunSt :=
  match r.toSlab with
  | none => r
  | some _ =>
    let keep := r.written
    let back := fun (a : RunSt) (m : Nat × RangeSt × Nat × Nat) =>
      if m.1 ≤ keep then a else { a.restore m.2.1 with skipped := a.skipped - m.2.2.1, trunc := a.trunc - m.2.2.2 }
    { foldS back r r.marks with out := keep, outG := [], outB := [], marks := [] }

/-- Note a piece of slab output that is not wholly staged; those that are need no note any more. -/
def RunSt.mark (r : RunSt) (x : RangeSt) (skip trunc : Nat) : RunSt :=
  match r.toSlab with
  | none => r
  | some _ =>
    let left := r.marks.filter (fun m => decide (r.written < m.1))
    { r with marks := if r.outG = [] ∧ r.outB = [] then [] else (r.out, x, skip, trunc) :: left }

/-- A RUN stops with an outcome (R217, R222): no more of it is dispatched or written. -/
def State.stopRun (s : State) (k : Nat) (cls : CplClass) (code : Nat) (detail : DWord) (stop : Nat) : State :=
  match s.runOf k with
  | none => s
  | some r =>
    if r.closing.isSome then s
    else
      let act := r.act
      let r := { (if cls = .success then r else r.rollBack) with closing := some (cls, code, detail, stop) }
      let s := (s.setRun k (some r)).keepChain k r
      let (n, s) := s.removeItems (fun x => decide (x.run = some k))
      let s := s.modRun k (fun r => { r with items := r.items - n })
      let s := foldS (fun (s : State) (x : RangeSt) =>
        let s := s.leaveBand x
        match x.flow with | some f => s.setFlow f none | none => s) s act
      let s := s.modRun k (fun r => { r with act := r.act.map (fun (x : RangeSt) => { x with flow := none }) })
      s.stopSegs k r

/-- Release the key references of a RUN (R352). -/
def State.dropRunKeys (s : State) (r : RunSt) : State :=
  foldS (fun (s : State) (x : Nat × Nat × Bool) => s.dropKey x.2.2 x.1 x.2.1) s r.keys

/-- The command that aborted this one completes after it (R80). -/
def State.aborterDone (s : State) (a : Option Nat) : State :=
  match a with
  | some k => s.succeed (k / 32) (k % 32) 0x00 0
  | none => s

/-- A RUN ends once every item of it has ended and its output is staged: the status block and the progress table are
written, and the command completes (R218, R280). -/
def State.finishRun (s : State) (k : Nat) (cqOk : Bool) : State :=
  match s.runOf k with
  | none => s
  | some r =>
    if r.items ≠ 0 ∨ (r.closing.isNone ∧ (r.act ≠ [] ∨ r.todo ≠ [])) then s
    else
      let s := s.pumpOut k true (r.held + 2)
      match s.runOf k with
      | none => s
      | some r =>
        if r.outG ≠ [] ∨ r.outB ≠ [] then s
        else
          let q := k / 32
          let tag := k % 32
          let e := s.runSqe k
          let s := if r.closing.isNone then s.keepChain k r else s
          let s := s.auxWrite q tag (Sqe.aptr e) r.statusBlock
          let s := if r.ptab = 0 then s else s.auxWrite q tag r.ptab r.progressTable
          let s := (s.dropRunKeys r).setRun k none
          let ab := match s.op q tag with | some o => o.aborter | none => none
          let res := BitVec.ofNat 64 r.out
          let slack := match s.op q tag with | some o => o.slack | none => false
          let s := match r.closing with
            | none => s.post cqOk q tag .success 0x00 res slack false
            | some (.failed, c, d, _) =>
              s.failIn cqOk q tag (BitVec.ofNat 8 c) d res (if r.failSlab = 0xFFFFFFFF then elogSlab e else r.failSlab)
            | some (cls, c, _, _) => s.post cqOk q tag cls (BitVec.ofNat 8 c) res slack false
          s.aborterDone ab

/-! ### Release of a segment's output (R209, R216, R217, R290) -/

/-- The per-range digests after a segment (R378). -/
def State.addDigests (s : State) (k : Nat) (r : RunSt) (x : RangeSt) (g : SegSt) : RangeSt :=
  let one := fun (d : List (Nat × List Word × Nat × Bytes)) (i : Nat) =>
    let st := stageAt r.pipe i
    let h0 := if st.mode = 3 then ((s.stageHmac k r st).1, 64) else (shaInit, 0)
    let cur := match d.find? (fun e => decide (e.1 = i)) with
      | some e => e.2
      | none => (h0.1, h0.2, [])
    let b := ((g.dig.filter (fun e => decide (e.1 = i))).map (·.2)).flatten
    (d.filter (fun e => decide (e.1 ≠ i))) ++ [(i, shaAdd cur.1 cur.2.1 cur.2.2 b)]
  { x with dig := ((List.range (pipeNst r.pipe)).filter (fun i => (stageAt r.pipe i).perRange)).foldl one x.dig }

/-- The finished digests of a range, in stage order (R203). -/
def State.rangeDigests (s : State) (k : Nat) (r : RunSt) (x : RangeSt) : List Bytes :=
  x.dig.map (fun e =>
    let inner := shaFinish e.2.1 e.2.2.2 e.2.2.1
    let st := stageAt r.pipe e.1
    if st.mode = 3 then shaBytes (hmacOuter (s.stageHmac k r st).2 inner) else shaBytes inner)

/-- What a segment's item puts out, before REDUCE and ENCRYPT. -/
def State.plainPiece (s : State) (k : Nat) (r : RunSt) (x : RangeSt) (g : SegSt) : Bytes :=
  if g.silent then []
  else recsOut (pipeFramed r.pipe) g.raw g.rng g.recs ++
    (if g.last then rangeEnd (pipeFramed r.pipe) g.rng g.cout.base (s.rangeDigests k r x) else [])

/-- Host output of a piece: coded as the host stream, or made one GCM object (R216, R362). -/
def State.hostPiece (s : State) (k : Nat) (r : RunSt) (g : SegSt) (b : Bytes) : Bytes :=
  let b := if pipeReduce r.pipe then ((cutBlocks (b.length + 1) b).map krfHost).flatten else b
  match pipeEncrypt r.pipe with
  | some x => gcmObject (s.stageKey k r x) (slice r.param x.paramOff x.paramLen) g.rng g.cin.base b
  | none => b

/-- Slab output of a piece: coded units, or bytes that join the partial grain. -/
def RunSt.slabPiece (r : RunSt) (b : Bytes) : Nat × RunSt :=
  if pipeReduce r.pipe then
    let gs := ((cutBlocks (b.length + 1) b).map (fun u => (unitGrains (krfSlab u)).map (fun (g : NewGrain) => (g.data, g.desc)))).flatten
    (1024 * gs.length, { r with outG := r.outG ++ gs })
  else
    let all := r.outB ++ b
    let n := all.length / 1024
    (b.length, { r with outG := r.outG ++ (cutGrains n all).map (fun x => (x, descPlain)), outB := all.drop (1024 * n) })

/-- A range ends: its band is free, its flow context returns (R221, R291). -/
def State.endRange (s : State) (k : Nat) (x : RangeSt) : State :=
  let s := s.modRun k (fun r => { r with act := r.act.filter (fun y => decide (y.idx ≠ x.idx)), done := x.idx :: r.done })
  let s := match x.flow with | some f => s.setFlow f none | none => s
  s.leaveBand x

/-- Count a released segment: progress in grain order, and what RESUME would need (R219). -/
def RangeSt.noteReleased (x : RangeSt) (g : SegSt) : RangeSt :=
  if g.silent then x
  else if g.seg = x.rel then
    let more := (List.range (x.later.length + 1)).foldl (fun n _ => if x.later.contains n then n + 1 else n) (x.rel + 1)
    let c := g.cout
    let clean := decide (c.unit = [] ∧ c.record = [] ∧ c.gcm.buf = [] ∧ c.gcm.phase = 0)
    { x with rel := more, later := x.later.filter (fun n => decide (more ≤ n)),
             kept := if clean then (false, c) else (true, g.cin) }
  else { x with later := g.seg :: x.later }

/-- Write one piece of a running RUN: the cap and the output slab are tried first (R217). Answers false when the RUN has
stopped. -/
def State.writePiece (s : State) (k : Nat) (r : RunSt) (g : SegSt) (b : Bytes) (w : HostWrite) : Bool × State :=
  match r.toSlab with
  | none =>
    let p := s.hostPiece k r g b
    let past := match r.cap with | some c => decide (c < r.out + p.length) | none => false
    if past then (false, s.stopRun k .success 0x02 0 (if r.out = 0 then 2 else 1))
    else match w, p with
      | .fault a, _ :: _ => (false, s.stopRun k .failed 0x42 a 5)
      | _, _ =>
        let s := if p = [] then s else s.hostWrite (k / 32) (k % 32) r.out p
        (true, s.setRun k (some { r with out := r.out + p.length }))
  | some ti =>
    let (n, r') := r.slabPiece b
    let past := match r.cap with | some c => decide (c < r.out + n) | none => false
    if past then (false, s.stopRun k .success 0x02 0 (if r.out = 0 then 2 else 1))
    else if Config.slabGrains < (s.slab ti).wp + r'.held then (false, s.stopRun k .success 0x02 0 3)
    else if s.closedInst r.inst = true ∧ n ≠ 0 then (false, s.stopRun k .success 0x02 0 4)
    else (true, (s.setRun k (some { r' with out := r'.out + n })).pumpOut k false 64)

/-- Release the output of an ended segment: written whole or not at all, and the segment is done (R216). -/
def State.releaseSeg (s : State) (k i j : Nat) (w : HostWrite) : State :=
  match s.runOf k with
  | none => s
  | some r => match r.range? i, r.seg? i j with
    | some x, some g =>
      let s := if g.silent then s else s.freeBanks (g.core.getD g.tile) 1
      let x := s.addDigests k r x g
      match s.writePiece k r g (s.plainPiece k r x g) w with
      | (false, s) => s.modRun k (fun r => r.dropSeg i j)
      | (true, s) =>
        let s := s.modRun k (fun r => r.mark x g.skip g.trunc)
        let x := x.noteReleased g
        let s := s.modRun k (fun r => { (r.dropSeg i j).setRange x with skipped := r.skipped + g.skip, trunc := r.trunc + g.trunc })
        if x.rel = x.segments then s.endRange k x else s
    | _, _ => s

/-- The Colander releases every consecutive done item of a flow from NR on (R290). -/
def State.colander (s : State) (k i f : Nat) (w : HostWrite) : Nat → State
  | 0 => s
  | fuel + 1 =>
    match s.flow f, s.runOf k with
    | some y, some r => match r.range? i with
      | some x =>
        if y.done.contains y.nr then
          let s := s.setFlow f (some { y with nr := y.nr + 1, done := y.done.filter (fun n => decide (n ≠ y.nr)) })
          (s.releaseSeg k i (x.seq0 + y.nr) w).colander k i f w fuel
        else s
      | none => s
    | _, _ => s

/-- The output of an ended segment goes to release (R209). -/
def State.toRelease (s : State) (k i j : Nat) (w : HostWrite) : State :=
  match s.runOf k with
  | none => s
  | some r => match r.range? i with
    | none => s
    | some x => match x.flow with
      | none => s.releaseSeg k i j w
      | some f => match s.flow f with
        | none => s
        | some y => (s.setFlow f (some { y with done := (j - x.seq0) :: y.done })).colander k i f w 65

end Sys2Proof.Machine
end

