-- ==== Sys2Proof/Machine/RunStages.lean ====
section
/-! DEFINITION. The segments of a RUN (08): starting ranges (R208), their items (R207), the stages an item runs (R203,
R210 to R214), the end of an item, and a fault in one (R248, R270). -/

namespace Sys2Proof.Machine

/-! ### MATCH and DIGEST (R203) -/

/-- A record at a MATCH stage: none when it is dropped. -/
def State.matchRec (s : State) (inst : Nat) (st : Stage) (r : Rec) : Option Rec × State :=
  let (resp, s) := s.camLookup inst (BitVec.ofNat 128 (leNat (slice r.data st.keyOff st.keyLen))) st.ctx
  let hit := respHit resp
  if st.mode = 0 then (if hit then some r else none, s)
  else if st.mode = 1 then (if hit then none else some r, s)
  else (some { r with data := natLe 8 (if hit then (respResult resp).toNat else 0) ++ r.data, hit := hit }, s)

def State.matchAll (s : State) (inst : Nat) (st : Stage) (l : List Rec) : List Rec × State :=
  foldS (fun (a : List Rec × State) (r : Rec) =>
    match a.2.matchRec inst st r with
    | (some r, s) => (a.1 ++ [r], s)
    | (none, s) => (a.1, s)) ([], s) l

/-- A record after a per-record digest, which follows it. -/
def digestRec (st : Stage) (h : List Word × List Word) (r : Rec) : Rec :=
  { r with data := r.data ++ (if st.mode = 2 then hmacWith h.1 h.2 r.data else sha256 r.data) }

/-! ### PROGRAM (R214) -/

/-- Cut bytes into inputs of one bank, with their stream offsets. -/
def cutBank : Nat → Nat → Bytes → List (Nat × Bytes)
  | 0, _, _ => []
  | _, _, [] => []
  | fuel + 1, off, b => (off, b.take bankBytes) :: cutBank fuel (off + bankBytes) (b.drop bankBytes)

/-- Gather whole records into inputs of at most one bank. -/
def packRecs : List Rec → Option (Nat × Bytes) → List (Nat × Bytes)
  | [], none => []
  | [], some c => [c]
  | r :: l, none => packRecs l (some (r.off, r.data))
  | r :: l, some (off, b) =>
    if b.length + r.data.length ≤ bankBytes then packRecs l (some (off, b ++ r.data))
    else (off, b) :: packRecs l (some (r.off, r.data))

/-- The inputs of a PROGRAM stage: a segment without records gives one empty input. -/
def programWork (fmt : Nat) (raw : Bool) (recs : List Rec) : List (Nat × Bytes) :=
  let l := if raw = true ∨ fmt = 0 then
      (recs.map (fun r => cutBank (r.data.length / bankBytes + 1) r.off r.data)).flatten
    else packRecs recs none
  if l = [] then [((recs.headD {}).off, [])] else l

/-- The scratchpad banks that a PROGRAM stage reads and writes: the two lowest that are not retired. -/
def State.programBanks (s : State) (t : Nat) : Nat × Nat :=
  match (List.range 15).filter (fun b => !(s.bank t b).retired) with
  | a :: b :: _ => (a, b)
  | _ => (0, 1)

/-- Give a bank to the core of tile `t` for an instance; a bank of another instance is zeroed first (R308). -/
def State.bankToCore (s : State) (t b inst : Nat) : State :=
  let s := if (s.bank t b).inst.toNat = inst then s else s.zeroBank t b
  s.setBank t b { s.bank t b with kind := 1, unit := 0, inst := BitVec.ofNat 8 inst, next := none, zeroing := none }

/-- The master code of the link DMA ingress, which fills scan banks (R302). -/
def deviceMaster : Nat := 2

/-- Write bytes into a tile's scratchpad for the device. -/
def State.devWrite (s : State) (t a : Nat) (b : Bytes) : State := (s.writeSpan t a b deviceMaster).2

/-- Round up to a multiple of 4. -/
def up4 (n : Nat) : Nat := (n + 3) / 4 * 4

/-- The entry of a program as a PROGRAM stage: its first label (R214, R256). -/
def State.entryOf (s : State) (inst handle : Nat) : Nat :=
  match s.imageOf inst handle with
  | some (_, l, _) => codeBase + l.headD 0
  | none => 0

/-- Give the next input of a PROGRAM stage to the core of tile `t` (R213, R214, R244). -/
def State.startProgram (s : State) (k : Nat) (r : RunSt) (g : SegSt) (t : Nat) (x : Item) : State :=
  match g.work with
  | [] => s
  | (off, b) :: _ =>
    let st := stageAt r.pipe g.stage
    let (bi, bo) := s.programBanks t
    let par := slice r.param st.paramOff st.paramLen
    let parAt := (bo + 1) * bankBytes - up4 st.paramLen
    let room := bankBytes - up4 st.paramLen
    let s := s.setUpCore t { x with handle := st.handle } (BitVec.ofNat 32 (s.entryOf r.inst st.handle)) 0x001F0000
    let s := (s.bankToCore t bi r.inst).bankToCore t bo r.inst
    let s := ((s.devWrite t (bi * bankBytes) b).devWrite t parAt par)
    let flags := g.rng + (if g.seg = 0 ∧ g.acc = [] then 65536 else 0) + (if g.last = true ∧ g.work.length = 1 then 131072 else 0)
    let block := natLe 4 (bi * bankBytes) ++ natLe 4 b.length ++ natLe 4 (bo * bankBytes) ++ natLe 4 room ++
      natLe 4 parAt ++ natLe 4 st.paramLen ++ natLe 4 flags ++ natLe 4 off
    (s.devWrite t 0x1F0000 block).putSeg k { g with ph := 2, room := room }

/-! ### The stages of a segment -/

/-- Run the stages of a segment from its next one until a PROGRAM stage has its core, a search must wait (R429), or
they end. -/
def State.runStages (s : State) (k i j : Nat) : Nat → State
  | 0 => s
  | fuel + 1 =>
    match s.runOf k with
    | none => s
    | some r => match r.seg? i j with
      | none => s
      | some g =>
        let finish := fun (s : State) => match g.core with
          | some t => (s.putSeg k { g with ph := 3 }).setCore t { s.core t with mode := .done }
          | none => s
        if g.silent = true ∨ pipeNst r.pipe ≤ g.stage then finish s
        else
          let st := stageAt r.pipe g.stage
          if st.kind = 4 then
            if s.camHeld st.ctx then s
            else
              let (l, s) := s.matchAll r.inst st g.recs
              (s.putSeg k { g with recs := l, stage := g.stage + 1 }).runStages k i j fuel
          else if st.kind = 5 then
            let g := if st.perRange then { g with dig := g.dig ++ [(g.stage, (g.recs.map (·.data)).flatten)] }
              else { g with recs := g.recs.map (digestRec st (s.stageHmac k r st)) }
            (s.putSeg k { g with stage := g.stage + 1 }).runStages k i j fuel
          else if st.kind = 3 then
            match g.core with
            | some t => match (s.core t).item with
              | some x => s.startProgram k r { g with work := programWork (pipeRecfmt r.pipe) g.raw g.recs, acc := [] } t x
              | none => s
            | none => s
          else finish s

/-- Insert a grain by its number. -/
def insertGrain (e : Nat × BitVec 4 × Bytes) : List (Nat × BitVec 4 × Bytes) → List (Nat × BitVec 4 × Bytes)
  | [] => [e]
  | f :: r => if e.1 < f.1 then e :: f :: r else f :: insertGrain e r
def sortGrains (l : List (Nat × BitVec 4 × Bytes)) : List (Nat × BitVec 4 × Bytes) := l.foldl (fun acc e => insertGrain e acc) []

/-- A range ends at segment `j` (R211, R358): later segments are given up. -/
def State.cutRange (s : State) (k i j : Nat) : State :=
  let (n, s) := s.removeItems (fun x => decide (x.run = some k ∧ x.kind = ItemKind.segment ∧ x.rng = i ∧ j < x.seg))
  let past := fun (g : SegSt) => decide (g.rng = i ∧ j < g.seg)
  let cores := match s.runOf k with
    | some r => r.segs.filterMap (fun g => if past g = true ∧ g.ph = 1 then g.core else none)
    | none => []
  let s := foldS (fun (s : State) (t : Nat) => s.setCore t { s.core t with mode := .done }) s cores
  let f := fun (g : SegSt) => if past g then { g with ph := 3, silent := true, recs := [] } else g
  s.modRun k (fun r =>
    let segs := (r.segs.filter (fun g => !(past g && decide (g.ph = 0)))).map f
    { r with segs := segs, items := r.items - n })

/-- What the stages before the records give for segment `g` of range `x`, whose carry is known. -/
def State.segIn (s : State) (k : Nat) (r : RunSt) (x : RangeSt) (g : SegSt) (last : Bool) : Except (Nat × DWord) SegIn :=
  match g.badAt with
  | some b =>
    if pipeSkipBad r.pipe then segSkipped r.pipe x.carry g.n else .error (0x43, BitVec.ofNat 64 b)
  | none =>
    let st := stageAt r.pipe 0
    let slab := ((r.ranges.getD x.idx (0, 0, 0))).1
    segInput r.pipe (s.stageKey k r st) r.inst slab x.lo (fun n => s.desc x.ti n) x.carry last g.lo (g.lo + g.n)
      (sortGrains g.got)

/-- Process the segments of a range whose grains have all come, in order (R210). -/
def State.procRange (s : State) (k i : Nat) : Nat → State
  | 0 => s
  | fuel + 1 =>
    match s.runOf k with
    | none => s
    | some r =>
      if r.closing.isSome then s
      else match r.range? i with
        | none => s
        | some x => match r.seg? i x.proc with
          | none => s
          | some g =>
            if g.ph ≠ 1 ∨ g.left ≠ 0 then s
            else
              let last := decide (x.proc + 1 = x.segments)
              match s.segIn k r x g last with
              | .error (code, detail) => (s.noteFailSlab k i).stopRun k .failed code detail 5
              | .ok y =>
                let ended := y.carry.ended && !last
                let g : SegSt := { g with
                  recs := y.recs
                  inp := y.recs
                  got := []
                  cin := x.carry
                  cout := y.carry
                  last := last || y.carry.ended
                  skip := y.skip + (if ended then x.hi - x.segHi x.proc else 0)
                  trunc := y.trunc
                  stage := pipeFirst r.pipe }
                let x' : RangeSt := { x with carry := y.carry, proc := x.proc + 1, hi := if ended then x.segHi x.proc else x.hi }
                let s := (s.putSeg k g).putRange k x'
                let s := if ended then s.cutRange k i g.seg else s
                (s.runStages k i g.seg (pipeNst r.pipe + 1)).procRange k i fuel

/-- Segments a range can have in flight (R223). -/
def rangeItems : Nat := 64

/-- Grains of a segment have come; `fail` when the codeword is lost or poisoned (R222). -/
def State.segGrains (s : State) (k i j : Nat) (gs : List (Nat × Nat)) (data : Bytes) (descs : BitVec 16) (fail : Bool) : State :=
  match s.runOf k with
  | none => s
  | some r => match r.seg? i j with
    | none => s
    | some g =>
      if g.ph ≠ 1 then s
      else
        let first := (gs.headD (0, 0)).1
        let add := if fail then [] else gs.map (fun e => (e.1, (descs.extractLsb' (4 * e.2) 4 : BitVec 4), slice data (1024 * e.2) 1024))
        let g := { g with
          left := g.left - 1
          got := g.got ++ add
          badAt := if fail then some (match g.badAt with | some b => Nat.min b first | none => first) else g.badAt }
        (s.putSeg k g).procRange k i (rangeItems + 1)

/-- The codewords of grains [lo, lo + n) of a band, with their grains. -/
def State.bandCodewords (s : State) (p b lo n : Nat) : List (Loc × List (Nat × Nat)) :=
  (List.range ((lo + n - 1) / 4 - lo / 4 + 1)).map (fun c =>
    let g0 := 4 * (lo / 4 + c)
    (s.loc p b g0, (List.range 4).filterMap (fun i =>
      if lo ≤ g0 + i ∧ g0 + i < lo + n ∧ (s.stagedAt p b (g0 + i)).isNone then some (g0 + i, i) else none)))

/-- Read the grains of a segment: staged ones at once, the others codeword by codeword (R207, R220). -/
def State.readSeg (s : State) (k : Nat) (x : RangeSt) (g : SegSt) : State :=
  let staged := (List.range g.n).filterMap (fun i => s.stagedAt x.region x.band (g.lo + i))
  let bad := staged.find? (fun e => e.poison)
  let cws := (s.bandCodewords x.region x.band g.lo g.n).filter (fun e => decide (e.2 ≠ []))
  let g := { g with
    got := staged.map (fun e => (e.at_, e.desc, e.data))
    badAt := bad.map (·.at_)
    left := cws.length }
  let s := s.putSeg k g
  let s := foldS (fun (s : State) (e : Loc × List (Nat × Nat)) =>
    match s.readCw e.1 false (.segment k g.rng g.seg e.2) with
    | (true, s) => s
    | (false, s) => s.segGrains k g.rng g.seg e.2 [] 0 true) s cws
  s.procRange k g.rng (rangeItems + 1)

/-! ### Starting ranges (R208) and making items (R207) -/

/-- Flow contexts an instance uses. -/
def State.flowsOf (s : State) (inst : Nat) : Nat :=
  (s.ld.flows.filter (fun e => match e.2 with | some f => decide (f.inst = inst) | none => false)).length

/-- The lowest free flow context. -/
def State.freeFlow (s : State) (inst : Nat) : Option Nat :=
  if s.param 0x050002 1024 ≤ s.flowsOf inst then none
  else (List.range (Nat.min Config.flowCount (s.ld.flows.length + 1))).find? (fun f => decide (s.flow f = none))

/-- What a range of the list can do now: start on its band, wait for a merge or move, or give nothing because its slab no
longer holds it. -/
inductive RangeReady where
  | start (ti region band : Nat)
  | wait (ti : Nat)
  | gone
deriving DecidableEq, Repr

def State.rangeReady (s : State) (r : RunSt) (i : Nat) : RangeReady :=
  let (n, lo, len) := r.ranges.getD i (0, 0, 0)
  match s.tableIndex r.inst n with
  | none => .gone
  | some ti =>
    let x := s.slab ti
    if (x.st ≠ .opened ∧ x.st ≠ .full) ∨ x.wp < lo + len then .gone
    else if x.log ∨ x.moving then .wait ti
    else .start ti x.region x.band

/-- Ask for the merge a range waits for, in the foreground at level 1 (R220). -/
def State.askRange (s : State) (ti : Nat) : State :=
  if (s.slab ti).moving then
    match mget none s.st.moves ti with
    | some m => s.setMove ti { m with foreground := true }
    | none => s
  else if (s.slab ti).log then s.askMove ti .merge true else s

/-- The range to start next among the first 256 not yet started (R208). -/
def State.bestRange (s : State) (r : RunSt) : Option (Nat × Nat × Nat × Nat) :=
  let l := (r.todo.take 256).filterMap (fun i => match s.rangeReady r i with
    | .start ti p b => some (i, ti, p, b)
    | _ => none)
  let key : Nat × Nat × Nat × Nat → Nat × Nat × Nat := fun e =>
    ((r.act.filter (fun x => decide (x.region = e.2.2.1))).length,
     (if r.act.any (fun x => decide (x.region = e.2.2.1 ∧ x.band % 8 = e.2.2.2 % 8)) then 1 else 0), e.1)
  bestBy (fun (a b : Nat × Nat × Nat × Nat) =>
    let x := key a
    let y := key b
    decide (x.1 < y.1 ∨ (x.1 = y.1 ∧ (x.2.1 < y.2.1 ∨ (x.2.1 = y.2.1 ∧ x.2.2 < y.2.2))))) l

/-- A range at its start: from its first grain, or from DONE, with the segment before it read again for its seam
(R219). -/
def RunSt.openRange (r : RunSt) (kept : List (Nat × Nat × Bool × Carry)) (i ti p b : Nat) (flow : Option Nat) : RangeSt :=
  let (_, lo, len) := r.ranges.getD i (0, 0, 0)
  let x : RangeSt := { idx := i, ti := ti, lo := lo, hi := lo + len, region := p, band := b, flow := flow }
  match r.progress.find? (fun e => decide (e.1 = i ∧ 0 < e.2 ∧ e.2 < len)) with
  | none => x
  | some (_, d) =>
    let j := (lo + d) / 64 - lo / 64
    match kept.find? (fun e => decide (e.1 = i ∧ e.2.1 = d)) with
    | some (_, _, true, c) => { x with next := j - 1, proc := j - 1, seq0 := j - 1, rel := j, carry := c, kept := (true, c) }
    | some (_, _, false, c) => { x with next := j, proc := j, seq0 := j, rel := j, carry := c, kept := (false, c) }
    | none => { x with next := j - 1, proc := j - 1, seq0 := j - 1, rel := j, kept := (true, {}) }

/-- The chain of a RUN (R219). -/
def State.chainOf (s : State) (k : Nat) (inst : Nat) : Option Chain :=
  (s.ld.chains.find? (fun e => decide (e.1 = inst ∧ e.2.1 = (Sqe.aptr (s.runSqe k)).toNat))).map (·.2.2)

/-- Start ranges while fewer than 64 are active. A range whose slab is LOG or MOVING waits for its merge or move; one
whose slab no longer holds it is complete with no output. -/
def State.startRanges (s : State) (k : Nat) : Nat → State
  | 0 => s
  | fuel + 1 =>
    match s.runOf k with
    | none => s
    | some r =>
      if r.closing.isSome ∨ 64 ≤ r.act.length then s
      else
        let gone := (r.todo.take 256).filter (fun i => decide (s.rangeReady r i = .gone))
        let r := { r with todo := r.todo.filter (fun i => !gone.contains i), done := gone ++ r.done }
        let s := s.setRun k (some r)
        let waits := (r.todo.take 256).filterMap (fun i => match s.rangeReady r i with | .wait ti => some ti | _ => none)
        let s := foldS (fun (s : State) (ti : Nat) => s.askRange ti) s waits
        match s.bestRange r with
        | none => s
        | some (i, ti, p, b) =>
          let flow := if pipeOrder r.pipe then s.freeFlow r.inst else none
          if pipeOrder r.pipe = true ∧ flow = none then s
          else
            let kept := match s.chainOf k r.inst with | some c => c.kept | none => []
            let x := r.openRange kept i ti p b flow
            let s := match flow with | some f => s.setFlow f (some { inst := r.inst, run := k }) | none => s
            let s := s.setBand p b { s.band p b with readers := (s.band p b).readers + 1 }
            (s.setRun k (some { r with todo := r.todo.erase i, act := r.act ++ [x] })).startRanges k fuel

/-- Items in flight of an instance (R280). -/
def State.itemsOf (s : State) (inst : Nat) : Nat :=
  s.ld.runs.foldl (fun n e => match e.2 with | some r => if r.inst = inst then n + r.items else n | none => n) 0

/-- Make the next item of a range, if limits and its region allow (R207, R223, R294). -/
def State.genItem (s : State) (k i : Nat) : Nat → State
  | 0 => s
  | fuel + 1 =>
    match s.runOf k with
    | none => s
    | some r => match r.range? i with
      | none => s
      | some x =>
        let j := x.next
        let lo := x.segLo j
        let t := 8 * x.region + grainTile lo
        let it : Item := {
          inst := r.inst, prio := pipePrio r.pipe, pin := true, ordered := x.flow.isSome, affv := true
          flow := x.flow.getD 0, fseq := j - x.seq0, handle := r.handle, affinity := t
          kind := .segment, run := some k, rng := i, seg := j, banks := pipeBanks r.pipe }
        if r.closing.isSome ∨ x.segments ≤ j ∨ rangeItems ≤ (r.segs.filter (fun g => decide (g.rng = i))).length ∨
            s.param 0x050003 4096 ≤ s.itemsOf r.inst ∨ s.canAccept it = false then s
        else
          let g : SegSt := { rng := i, seg := j, tile := t, lo := lo, n := x.segHi j - lo, silent := decide (j < x.rel) }
          let r' := { r.setRange { x with next := j + 1 } with segs := r.segs ++ [g], items := r.items + 1 }
          ((s.setRun k (some r')).accept it).genItem k i fuel

/-- Feed a RUN whose descriptor list has been read (R60): start ranges, make items, and complete it when nothing is
left. -/
def State.feedRun (s : State) (k : Nat) (cqOk : Bool) : State :=
  if (match s.op (k / 32) (k % 32) with | some o => o.listOk | none => false) = false then s
  else
  let s := s.startRanges k 65
  let act := match s.runOf k with | some r => r.act.map (·.idx) | none => []
  (foldS (fun (s : State) (i : Nat) => s.genItem k i rangeItems) s act).finishRun k cqOk

/-- Let every RUN go on as far as it can: its stages that wait for the CAM, its ranges, its output. -/
def State.pumpRuns (s : State) (cqOk : Bool) : State :=
  foldS (fun (s : State) (e : Nat × Option RunSt) =>
    let s := match s.runOf e.1 with
      | some r => foldS (fun (s : State) (g : SegSt) =>
          match r.range? g.rng with
          | some x => if g.ph = 1 ∧ g.left = 0 ∧ g.seg < x.proc then s.runStages e.1 g.rng g.seg 10 else s
          | none => s) s r.segs
      | none => s
    (s.pumpOut e.1 false 64).feedRun e.1 cqOk) s s.ld.runs

/-! ### Dispatch (R283) and the end of an item -/

/-- Begin a segment's item on tile `t`: scan banks are taken and its grains are read (R207, R212). An item that a quiesce
ended goes on with the grains its input bank holds (R288, R431). -/
def State.beginSeg (s : State) (t : Nat) (x : Item) (k : Nat) : State :=
  match s.runOf k with
  | none => s
  | some r => match r.range? x.rng, r.seg? x.rng x.seg with
    | some y, some g =>
      let s := (if x.holds then s else s.useBanks x.affinity 1).useBanks t (x.banks - 1)
      let s := s.setCore t { s.core t with mode := .loading, item := some { x with holds := false }, dispatched := s.now, clockOff := false }
      let h : SegSt := { g with ph := 1, core := some t }
      let s := s.modRun k (fun r => r.setSeg h)
      if g.ph = 0 then s.readSeg k y h
      else if g.seg < y.proc then s.runStages k g.rng g.seg 10
      else s.procRange k g.rng (rangeItems + 1)
    | _, _ => s

/-- Return the scan banks of a segment's item that ends: all but the one that holds its output, and that one too when
it has none to release. Answers the tile that holds the output. -/
def State.returnBanks (s : State) (t : Nat) (x : Item) (all : Bool) : Nat × State :=
  let home := x.affinity
  if x.banks = 0 then (t, s)
  else if home = t ∨ 2 ≤ x.banks then
    let s := if home = t then s.freeBanks t (x.banks - 1) else (s.freeBanks home 1).freeBanks t (x.banks - 2)
    (t, if all then s.freeBanks t 1 else s)
  else (home, if all then s.freeBanks home 1 else s)

/-- An item has left its core: it no longer counts, owner writes take effect, its records are closed. -/
def State.leaveCore (s : State) (t : Nat) (x : Item) : State :=
  let s := match x.run with
    | some k => s.modRun k (fun r => { r with items := r.items - 1 })
    | none => s
  let s := (s.closeRecords t x.seq).coreHandovers t true
  let s := (s.freeCore t).busy
  let s := s.setTile t { s.tile t with idleSince := s.now }
  if x.prio = 0 ∧ (s.intc t).src.any (fun e => decide (e.2 = .raised)) then s.raiseHeld t else s

/-- A segment's item ends: its output goes to release, or is discarded when its RUN has stopped (R209, R297). -/
def State.endSegment (s : State) (t : Nat) (x : Item) (k : Nat) (w : HostWrite) : State :=
  match s.runOf k with
  | none => (s.returnBanks t x true).2.leaveCore t x
  | some r =>
    match r.seg? x.rng x.seg with
    | none => (s.returnBanks t x true).2.leaveCore t x
    | some g =>
      let gone := r.closing.isSome
      let (h, s) := s.returnBanks t x (gone || g.silent)
      let s := s.leaveCore t x
      if gone then s.modRun k (fun r => r.dropSeg x.rng x.seg)
      else (s.putSeg k { g with ph := 4, core := some h }).toRelease k x.rng x.seg w

/-- The record of a fault of item `x` on core `k` (R270). -/
def faultRecord (k : Core) (x : Item) (code operand addr : Nat) (pc : Word) : FaultRec :=
  { code, operand, inst := x.inst, flow := x.flow, fseq := x.fseq, pc, addr, rc := k.rc }

/-- A Pytan fault ends the item on a core (R248, R270): counted in health per instance and kind; the RUN it belongs to
fails, unless it has stopped already (R297). -/
def State.faultItem (s : State) (t code operand addr : Nat) (pc : Word) : State :=
  match (s.core t).item with
  | none => s
  | some x =>
    let key := 8 * x.inst + code
    let s := s.setCore t { s.core t with fault := some (faultRecord (s.core t) x code operand addr pc) }
    let s := if x.prio = 0 then s.raise (32 * t + 29) else s
    let s := { s with health := { s.health with faults := mmod 0 s.health.faults key (· + 1) } }
    let s := s.cancelWork t x.seq
    let s := if x.kind = .segment then (s.returnBanks t x true).2 else s
    let s := s.leaveCore t x
    match x.run with
    | none => s
    | some k =>
      let s := if x.kind = .segment then (s.noteFailSlab k x.rng).modRun k (fun r => r.dropSeg x.rng x.seg) else s
      (s.stopRun k .failed 0x4A (BitVec.ofNat 64 (code + 256 * operand + 4294967296 * pc.toNat)) 5).finishRun k true

/-- The next chunk of a PROGRAM stage, or the stage after it, once the program has ended an input (R214): an OUTLEN above
OUTROOM is a window violation. -/
def State.programDone (s : State) (t : Nat) (x : Item) (k : Nat) : State :=
  match s.runOf k with
  | none => s
  | some r => match r.seg? x.rng x.seg with
    | none => s
    | some g =>
      let (_, bo) := s.programBanks t
      match s.readSpan t 0x1F000C 4 deviceMaster with
      | (none, s) => s.faultItem t 6 0 0x1F000C (s.core t).pc
      | (some lb, s) =>
        let n := leNat lb
        if g.room < n then s.faultItem t 4 0 0 (s.core t).pc
        else match (if n = 0 then (some [], s) else s.readSpan t (bo * bankBytes) n deviceMaster) with
          | (none, s) => s.faultItem t 6 0 (bo * bankBytes) (s.core t).pc
          | (some out, s) =>
            let off := ((g.recs.headD {}).off)
            let g := { g with acc := g.acc ++ out, work := g.work.drop 1 }
            if g.work ≠ [] then s.startProgram k r g t x
            else (s.putSeg k { g with recs := [{ data := g.acc, off := off }], raw := true, ph := 1, acc := [], stage := g.stage + 1 }).runStages
              k x.rng x.seg (pipeNst r.pipe + 1)

/-- DONE_TAKES_EFFECT (R246, R280, R290, R296): engine work, searches and a held POST of the item have completed. A
PROGRAM stage goes on with its next input or stage; else the item ends, its output goes to release, and its RUN goes on.
-/
def execDoneTakesEffect (c : Nat) (w : HostWrite) (cqOk : Bool) (s : State) : Answer :=
  let k := s.core c
  match k.mode, k.item with
  | .done, some x =>
    if k.engOut ≠ 0 ∨ k.camsOut ≠ 0 ∨ k.heldPost.isSome then .next s
    else match x.run with
      | none => .next (s.leaveCore c x)
      | some r =>
        let stage2 := match s.runOf r with
          | some y => (match y.seg? x.rng x.seg with | some g => decide (g.ph = 2 ∧ y.closing.isNone) | none => false)
          | none => false
        if x.kind = .segment ∧ stage2 = true then
          let s := (s.closeRecords c x.seq).coreHandovers c true
          .next ((s.programDone c x r).finishRun r cqOk)
        else
          let s := if x.kind = .segment then s.endSegment c x r w else s.leaveCore c x
          .next ((s.feedRun r cqOk).pumpRuns cqOk)
  | _, _ => .next s

/-- ITEM_DISPATCH (R283, R244, R245): an idle core takes its next item. A segment's grains are read; any other item runs
at its entry, which must be a label of its image. -/
def execItemDispatch (c : Nat) (cqOk : Bool) (s : State) : Answer := answering cqOk s fun s =>
  if s.coreIdle c = false ∨ (s.tile c).quiesced = true ∨ (s.tile c).retired = true then .next s
  else match s.nextItem c with
    | none => .next s
    | some x =>
      let s := (s.busy).takeItem x
      let s := s.setTile c { s.tile c with ahead := none }
      let s := s.setTile c { s.tile c with ahead := (s.chooseItem c).map (·.seq) }
      match x.kind, x.run with
      | .segment, some k => .next (s.beginSeg c x k)
      | _, _ =>
        let s := s.setUpCore c x x.entry x.arg
        if s.entryOk x.inst x.handle x.entry.toNat then .next s
        else .next (s.faultItem c 4 4 0 x.entry)

end Sys2Proof.Machine
end

