-- ==== Sys2Proof/Machine/KeyCmds.lean ====
section
/-! DEFINITION. Key slots (14, 15): loads and their schedule (R74, R344, R351, R368), and zeroise with what it stops
(R353, R354, R369). -/

namespace Sys2Proof.Machine

/-- A key slot of either kind. -/
def State.keySlot (s : State) (hmac : Bool) (k : Nat) : Slot := if hmac then s.hslot k else s.cslot k
def State.setKeySlot (s : State) (hmac : Bool) (k : Nat) (x : Slot) : State :=
  if hmac then s.setHslot k x else s.setCslot k x

/-- Zeroise a slot (R353): it is empty at once; a load under way is abandoned; the commands and RUNs that hold a
reference end with KEY_WITHDRAWN. Lane jobs find their generation gone and end so at their next boundary. -/
def State.zeroise (s : State) (hmac : Bool) (k : Nat) : State :=
  let x := s.keySlot hmac k
  let s := s.setKeySlot hmac k { x with cur := none, old := none, load := none }
  let s := match x.load with
    | some (_, q, tag) => s.abortOp q tag 0x62 0
    | none => s
  let s := foldS (fun (s : State) (e : Nat × Option Op) => match e.2 with
    | some o => (match o.keyGen with
      | some (n, _) => if hmac = false ∧ n = k then s.endData true (e.1 / 32) (e.1 % 32) .aborted 0x62 else s
      | none => s)
    | none => s) s s.hq.ops
  foldS (fun (s : State) (e : Nat × Option RunSt) => match e.2 with
    | some r => if r.keys.any (fun y => decide (y.1 = k ∧ y.2.2 = hmac)) then
        (s.stopRun e.1 .aborted 0x62 0 6).finishRun e.1 true else s
    | none => s) s s.ld.runs

/-- Zeroise a range of slots. -/
def State.zeroiseRange (s : State) (hmac : Bool) (base n : Nat) : State :=
  foldS (fun (s : State) (e : Nat × Slot) => if base ≤ e.1 ∧ e.1 < base + n then s.zeroise hmac e.1 else s) s
    (if hmac then s.keys.hmac else s.keys.cipher)

/-- Whether a slot lies in the range of an entry's instance. -/
def State.keyInRange (s : State) (hmac : Bool) (e : Sqe) (o : Op) : Bool :=
  if hmac then (s.inst o.inst).hasHmac (Sqe.kslot e) else (s.inst o.inst).hasCipher (Sqe.kslot e)

/-- The causes of R524 for KEY. -/
def State.keyOwn (s : State) (e : Sqe) (o : Op) : Option Code :=
  let hmac := decide (2 ≤ Sqe.subop e)
  let load := decide (Sqe.subop e % 2 = 0)
  let n := Sqe.length e
  if flagsOk e = false ∨ (load = true ∧ dptrOk e = false) then some 0x11
  else if load = true ∧ hmac = false ∧ n ≠ 16 ∧ n ≠ 32 ∧ n ≠ 64 then some 0x11
  else if load = true ∧ hmac = true ∧ (n = 0 ∨ 64 < n) then some 0x11
  else if s.keyInRange hmac e o = false then some 0x1E else none

/-- Whether the two halves of a key are equal (R344). -/
def halvesEqual (b : Bytes) : Bool :=
  decide (b.length = 32 ∨ b.length = 64) && decide (b.take (b.length / 2) = b.drop (b.length / 2))

/-- A KEY load: its material is read, and the key schedule begins (R344, R351). One load of a slot runs at a time. -/
def State.keyLoad (s : State) (hmac : Bool) (q tag : Nat) (e : Sqe) (o : Op) (material : HostRead) : State :=
  let x := s.keySlot hmac (Sqe.kslot e)
  if x.load.isSome then s
  else
    let s := s.dmaRead q tag
    match material with
    | .fault a => s.fail true q tag 0x42 a 0
    | .ok b =>
      let b := slice b 0 (Sqe.length e)
      if hmac = false ∧ halvesEqual b = true then s.refuse q tag 0x11
      else (s.setOp q tag (some o)).setKeySlot hmac (Sqe.kslot e) { x with load := some (b, q, tag) }

/-- CIPHER_LOAD (R74, R344). -/
def execCipherLoad (q tag : Nat) (material : HostRead) (cqOk : Bool) (s : State) : Answer := answering cqOk s fun s =>
  .next (s.startCmd q tag (fun e => decide (Sqe.opcode e = 0x0B ∧ Sqe.subop e = 0)) (fun e o => s.keyOwn e o) true
    (fun e o => s.keyLoad false q tag e o material))

/-- HMAC_LOAD (R74, R368). -/
def execHmacLoad (q tag : Nat) (material : HostRead) (cqOk : Bool) (s : State) : Answer := answering cqOk s fun s =>
  .next (s.startCmd q tag (fun e => decide (Sqe.opcode e = 0x0B ∧ Sqe.subop e = 2)) (fun e o => s.keyOwn e o) true
    (fun e o => s.keyLoad true q tag e o material))

/-- KEY_SCHEDULE_DONE: the load becomes the current generation, within 1 µs; it waits while a retained generation is
still referenced. The previous generation is retained if it is referenced, else erased (R351, R368). -/
def execKeyScheduleDone (hmac : Bool) (slot : Nat) (cqOk : Bool) (s : State) : Answer := answering cqOk s fun s =>
  let x := s.keySlot hmac slot
  match x.load with
  | none => .next s
  | some (b, q, tag) =>
    if x.old.isSome then .next s
    else
      let st := hmacStates b
      let g : Gen := { num := x.gens + 1, key := if hmac then [] else b
                       inner := if hmac then st.1 else [], outer := if hmac then st.2 else [] }
      let old := match x.cur with | some c => if c.refs = 0 then none else some c | none => none
      .next ((s.setKeySlot hmac slot { cur := some g, old := old, load := none, gens := x.gens + 1 }).succeed q tag 0x00 0)

/-- CIPHER_ZEROISE (R74, R353). -/
def execCipherZeroise (q tag : Nat) (cqOk : Bool) (s : State) : Answer := answering cqOk s fun s =>
  .next (s.startCmd q tag (fun e => decide (Sqe.opcode e = 0x0B ∧ Sqe.subop e = 1)) (fun e o => s.keyOwn e o) false
    (fun e o => (((s.setOp q tag (some o)).zeroise false (Sqe.kslot e)).pumpRuns true).succeed q tag 0x00 0))

/-- HMAC_ZEROISE (R74, R353, R369). -/
def execHmacZeroise (q tag : Nat) (cqOk : Bool) (s : State) : Answer := answering cqOk s fun s =>
  .next (s.startCmd q tag (fun e => decide (Sqe.opcode e = 0x0B ∧ Sqe.subop e = 3)) (fun e o => s.keyOwn e o) false
    (fun e o => (((s.setOp q tag (some o)).zeroise true (Sqe.kslot e)).pumpRuns true).succeed q tag 0x00 0))

end Sys2Proof.Machine
end

