-- ==== Sys2Proof/Machine/Custodian.lean ====
section
/-! DEFINITION. ABORT (R79 to R82) and the custodian commands (R83 to R86): instances, their reset and delete (R44 to R49),
queues, PASIDs, key grants, moderation, logs, FORMAT, SANITIZE and the self-tests; Function Level Reset (R24). -/

namespace Sys2Proof.Machine

/-! ### ABORT (R79 to R82) -/

/-- Commands that can be aborted (03, opcode table). -/
def abortable (op : Nat) : Bool := decide (op = 1 ∨ op = 2 ∨ op = 3 ∨ op = 8 ∨ op = 0x8D)

def abortQueue (e : Sqe) : Nat := Sqe.field e 36 2
def abortTag (e : Sqe) : Nat := Sqe.field e 38 1 % 32

/-- Refusals of ABORT up to its target's state. A TQUEUE that is no queue is no target anyone may name: NOT_PERMITTED. A queue of
instance 0 other than queue 0 may name the queues of its instance but queue 0, which the spec leaves open (DESIGN CHOICE,
assumption 70). -/
def State.abortOwn (s : State) (q : Nat) (e : Sqe) (o : Op) : Option Code :=
  if flagsOk e = false then some 0x11
  else if 4096 ≤ abortQueue e ∨ (q ≠ 0 ∧ ((s.queue (abortQueue e)).inst ≠ o.inst ∨ abortQueue e = 0)) then some 0x13
  else match s.op (abortQueue e) (abortTag e) with
    | some x => if abortable (Sqe.opcode x.sqe) then none else some 0x23
    | none =>
      let y := s.queue (abortQueue e)
      let ahead := (abortTag e + 32 - y.sqHead.toNat) % 32
      if ahead < y.unfetched ∨ bit y.tags (abortTag e) = true then none else some 0x22

/-- End a self-test: its reads are given up, and its command completes with the bands verified and the health events recorded
meanwhile (R64, R86, assumption 74). -/
def State.endSelfTest (s : State) (cls : CplClass) (code : Code) : State :=
  match s.stew.selfTest with
  | some x =>
    let res := BitVec.ofNat 64 (x.verified % 2 ^ 32 + (s.health.nEvents - x.found) % 65536 * 2 ^ 32)
    let tests := (s.st.verifies.filter (fun e => match e.2 with | some v => v.test | none => false)).map (·.1)
    let s := s.forget (fun w => match w with | .verify k => tests.contains k | .selfTest => true | _ => false)
    let s := { s with
      stew := { s.stew with selfTest := none }
      st := { s.st with verifies := s.st.verifies.filter (fun e => !tests.contains e.1) } }
    s.post true x.q x.tag cls code res false false
  | none => s

/-- Stop an outstanding target; the ABORT completes after it (R80, R81). -/
def State.abortTarget (s : State) (q tag tq tt : Nat) (o x : Op) : State :=
  if Sqe.opcode x.sqe = 8 ∧ x.started = true then
    match s.runOf (opKey tq tt) with
    | some r =>
      if r.closing.isSome then s
      else
        let s := (s.setOp q tag (some { o with checked := true })).setOp tq tt (some { x with aborter := some (opKey q tag) })
        (s.stopRun (opKey tq tt) .aborted 0x60 0 6).finishRun (opKey tq tt) true
    | none => s
  else
    let s := s.setOp q tag (some o)
    let s := if Sqe.opcode x.sqe = 0x8D ∧ x.started = true then s.endSelfTest .aborted 0x60
      else if x.started then s.endData true tq tt .aborted 0x60 else s.abortOp tq tt 0x60 0
    s.succeed q tag 0x00 0

/-- ABORT: an outstanding target is stopped; one that has completed gives ALREADY_COMPLETE; an unfetched slot is
marked (R80, R82). -/
def execAbort (q tag : Nat) (cqOk : Bool) (s : State) : Answer := answering cqOk s fun s =>
  .next (s.startCmd q tag (fun e => decide (Sqe.opcode e = 0x0D)) (fun e o => s.abortOwn q e o) false
    (fun e o =>
      let tq := abortQueue e
      let tt := abortTag e
      match s.op tq tt with
      | some x => (s.abortTarget q tag tq tt o x).pumpRuns true
      | none =>
        let y := s.queue tq
        if (tt + 32 - y.sqHead.toNat) % 32 < y.unfetched then
          (s.setQueue tq (if y.listens then { y with marks := setBit y.marks tt true } else y)).succeed q tag 0x00 0
        else s.succeed q tag 0x01 0))

/-! ### What an instance holds is returned (R47, R298, R342) -/

/-- End each running item of an instance at once, with no fault record, its posted engine work cancelled (R298). -/
def State.endItems (s : State) (inst : Nat) : State :=
  foldS (fun (s : State) (e : Nat × Tile) => match (s.core e.1).item with
    | some x =>
      if x.inst = inst then
        let s := s.cancelWork e.1 x.seq
        let s := if x.kind = .segment then (s.returnBanks e.1 x true).2 else s
        s.leaveCore e.1 x
      else s
    | none => s) s s.tiles

/-- The RUNs of an instance end without completion: the status blocks are not written (R48, R222). -/
def State.dropRuns (s : State) (inst : Nat) : State :=
  let mine := s.ld.runs.filter (fun e => match e.2 with | some r => decide (r.inst = inst) | none => false)
  let s := foldS (fun (s : State) (e : Nat × Option RunSt) => s.stopRun e.1 .aborted 0x60 0 6) s mine
  let s := (s.removeItems (fun x => decide (x.inst = inst))).2
  let s := s.endItems inst
  foldS (fun (s : State) (e : Nat × Option RunSt) => match s.runOf e.1 with
    | some r => (s.dropRunKeys r).setRun e.1 none
    | none => s) s mine

/-- The commands of an instance leave the operation table without completion, an ABORT of its own among them (R24, R48); an ABORT of
another instance that waits for one of them completes. -/
def State.dropCommands (s : State) (inst : Nat) : State :=
  foldS (fun (s : State) (e : Nat × Option Op) => match e.2 with
    | some o =>
      if o.inst = inst then
        let q := e.1 / 32
        let tag := e.1 % 32
        let s := ((s.releaseKey q tag).forgetOp q tag).dropOp q tag
        match o.aborter with
        | some k => match s.op (k / 32) (k % 32) with
          | some a => if a.inst = inst then s else s.aborterDone (some k)
          | none => s
        | none => s
      else s
    | none => s) s s.hq.ops

/-- Key loads and CAM work of commands that are no longer outstanding are abandoned. -/
def State.dropOrphans (s : State) : State :=
  let live := fun (c : Nat × Nat) => (s.op c.1 c.2).isSome
  let slot := fun (x : Slot) => match x.load with
    | some (_, q, tag) => if live (q, tag) then x else { x with load := none }
    | none => x
  let fix := fun (m : SMap Slot) => mmap {} slot m
  let search := fun (x : Search) => match x.cmd with | some c => live c | none => true
  { s with
    keys := { s.keys with cipher := fix s.keys.cipher, hmac := fix s.keys.hmac }
    cam := { s.cam with
      waiting := s.cam.waiting.filterMap (fun e => match e.2.filter search with | [] => none | l => some (e.1, l))
      flying := s.cam.flying.filter search
      pendCmd := match s.cam.pendCmd with | some c => if live c then some c else none | none => none } }

/-- Everything an instance's commands and items hold is returned (R47, R298): its queues drain silently, its commands are
aborted at their last commit group, its items and engine jobs end; its key slots are zeroised unless kept. -/
def State.abortInstance (s : State) (inst : Nat) (cause : DrainCause) (keepKeys : Bool) : State :=
  let qs := (s.hq.queues.filter (fun e => decide (e.2.inst = inst ∧ e.1 ≠ 0))).map (·.1)
  let s := foldS (fun (s : State) (q : Nat) => s.enterDrain q cause) s qs
  let s := (s.dropRuns inst).dropCommands inst
  let s := (s.dropJobs (fun j => decide (j.inst = inst))).dropOrphans
  let x := s.inst inst
  let s := if keepKeys then s else (s.zeroiseRange false x.keyBase x.keyCount).zeroiseRange true x.hmacBase x.hmacCount
  (s.pump true).pumpRuns true

/-! ### Instances (R44 to R49, R83, R91) -/

def fInstance (e : Sqe) : Nat := Sqe.field e 36 1

/-- The checks of R524 step 5 shared by the custodian commands that move no data: FENCE alone may be set. -/
def custodianOk (e : Sqe) (fields : Bool) : Bool := flagsOk e && fields

/-- Start a custodian command of an opcode that moves no data. -/
def State.custodian (s : State) (q tag op : Nat) (sel : Sqe → Bool) (own : Sqe → Op → Option Code) (run : Sqe → Op → State) : Answer :=
  .next (s.startCmd q tag (fun e => decide (Sqe.opcode e = op) && sel e) own false run)

/-- Journal the creation or deletion of a namespace, one entry per extent (R124). -/
def State.journalSpace (s : State) (inst : Nat) (create : Bool) (ex : List (Nat × Nat)) : State :=
  foldS (fun (s : State) (e : Nat × Nat) => s.journal 0 false (.namespace_ inst create false e.1 e.2 s.st.exported)) s ex

/-- INSTANCE_CREATE (R83, R91). -/
def execInstanceCreate (q tag : Nat) (cqOk : Bool) (s : State) : Answer := answering cqOk s fun s =>
  let extents := fun (e : Sqe) => lowestFree s.allExtents Config.slabEntries 8 0 (Sqe.field e 40 4)
  s.custodian q tag 0x80 (fun _ => true)
    (fun e _ =>
      let n := Sqe.field e 40 4
      let quota := Sqe.field e 44 4
      if custodianOk e (decide (1 ≤ fInstance e ∧ 32 ≤ quota ∧ quota ≤ 65536)) = false then some 0x11
      else if (s.inst (fInstance e)).st ≠ .free then some 0x27
      else if s.st.exported < s.slabSum + n ∨ covered (extents e) < n then some 0x28 else none)
    (fun e o =>
      let i := fInstance e
      if s.journalRoom 8 = false then s
      else
        let ex := extents e
        let s := (s.setOp q tag (some o)).setInst i { s.inst i with st := .active, quota := Sqe.field e 44 4, extents := ex }
        let inEx := fun (ti : Nat) => ex.any (fun (x : Nat × Nat) => decide (x.1 ≤ ti ∧ ti < x.1 + x.2))
        let s := { s with st := { s.st with slabs := s.st.slabs.filter (fun x => !inEx x.1) } }
        ((s.journalSpace i true ex).poolChanged).succeed q tag 0x00 0)

/-- The causes of INSTANCE_DELETE and INSTANCE_RESET (R83). -/
def State.resetOwn (s : State) (e : Sqe) : Option Code :=
  let x := s.inst (fInstance e)
  if custodianOk e (decide (1 ≤ fInstance e)) = false then some 0x11
  else if x.st = .free ∨ x.st = .resetting then some 0x27 else none

/-- An instance reset or delete begins (R47, R49). -/
def State.beginReset (s : State) (q tag : Nat) (o : Op) (i : Nat) (keep del : Bool) : State :=
  let x := s.inst i
  let s := (s.setOp q tag (some o)).setInst i { x with
    st := .resetting, prior := x.st, resetOp := some (q, tag), resetAt := s.now, resetDelete := del, keepKeys := keep }
  let s := if del then s.journalSpace i false x.extents else s
  s.abortInstance i (if del then .instDelete else .instReset) keep

/-- INSTANCE_RESET (R47, R83). -/
def execInstanceReset (q tag : Nat) (cqOk : Bool) (s : State) : Answer := answering cqOk s fun s =>
  s.custodian q tag 0x82 (fun _ => true) (fun e _ => s.resetOwn e)
    (fun e o => s.beginReset q tag o (fInstance e) (decide (Sqe.field e 37 1 % 2 = 1)) false)

/-- INSTANCE_DELETE: journaled before any of its effects (R49, R83, R454). -/
def execInstanceDelete (q tag : Nat) (cqOk : Bool) (s : State) : Answer := answering cqOk s fun s =>
  s.custodian q tag 0x81 (fun _ => true) (fun e _ => s.resetOwn e)
    (fun e o => if s.journalRoom 8 = false then s else s.beginReset q tag o (fInstance e) false true)

/-- The table indices of an instance's slabs. -/
def State.slabsOf (s : State) (i : Nat) : List Nat :=
  let ex := (s.inst i).extents
  (s.st.slabs.filter (fun e => ex.any (fun (x : Nat × Nat) => decide (x.1 ≤ e.1 ∧ e.1 < x.1 + x.2)))).map (·.1)

/-- Free the DRAM windows of the instances that satisfy `p` (R232, R412): contents and pages go, and sizes are 0. -/
def State.freeWindows (s : State) (p : Nat → Bool) : State :=
  let old := match s.dict.vals.find? (fun x => decide (x.1 = 0x050020)) with | some (_, b) => b | none => []
  let keep := fun (i : Nat) => if p i then List.replicate 8 0 else slice old (8 * i) 8
  let new := if old = [] then [] else (List.range 256).flatMap keep
  { s with
    ld := { s.ld with
      wins := s.ld.wins.filter (fun e => !p (e.1 / 4))
      unsettled := s.ld.unsettled.filter (fun u => !p (u.win / 4)) }
    dict := { s.dict with vals := mset [] s.dict.vals 0x050020 new } }

/-- Free the program store of an instance. -/
def State.dropPrograms (s : State) (p : Nat → Bool) : State :=
  { s with ld := { s.ld with progs := s.ld.progs.filter (fun e => !p (e.1 / 65536)) } }

/-- The slabs of an instance that are neither EMPTY nor RETIRED. -/
def State.usedOf (s : State) (i : Nat) : List Nat := (s.slabsOf i).filter (fun ti => decide ((s.slab ti).st = .opened ∨ (s.slab ti).st = .full))

/-- Empty the slabs of a deleted instance as far as the journal buffer has room (R49, R127). -/
def State.emptyOfInst (s : State) (i : Nat) : State := foldS (fun (s : State) (ti : Nat) => s.emptyStep ti) s (s.usedOf i)

/-- What a delete adds to a reset, once its slabs are empty: PASID, ranges, CAM entries, programs and windows go; the instance is
FREE (R49, R232). -/
def State.finishDelete (s : State) (i : Nat) : State :=
  let s := ((s.camClearInst i).dropPrograms (fun n => decide (n = i))).freeWindows (fun n => decide (n = i))
  ((s.setInst i {}).poolChanged).pump true

/-- INSTANCE_RESET_COMPLETE: no command, item or flow of the instance is left and its queues have drained (R47, R443). A delete also
waits until the journal buffer has had room for the end of its slabs (R127). -/
def execInstanceResetComplete (inst : Nat) (cqOk : Bool) (s : State) : Answer := answering cqOk s fun s =>
  let x := s.inst inst
  let idle := s.hq.queues.all (fun e => !(decide (e.2.inst = inst ∧ e.2.st = .draining))) &&
    s.hq.ops.all (fun e => match e.2 with | some o => decide (o.inst ≠ inst) | none => true)
  if x.st ≠ .resetting ∨ idle = false then .next s
  else
    let s := if x.resetDelete then s.emptyOfInst inst else s
    if x.resetDelete = true ∧ s.usedOf inst ≠ [] then .next s else
    let s := if x.resetDelete then s.finishDelete inst
      else s.setInst inst { x with st := .active, resetOp := none, resetAt := 0, resetDelete := false, keepKeys := false, prior := .active }
    .next (match x.resetOp with | some (q, tag) => s.succeed q tag 0x00 0 | none => s)

/-- INSTANCE_RESET_TIMEOUT: 5 ms after its start, what an instance still holds is a leak: it is returned, with a health
event of each quantity (R442, R443). -/
def execInstanceResetTimeout (inst : Nat) (s : State) : Answer :=
  let x := s.inst inst
  if x.st ≠ .resetting then .next s
  else
    let s := s.reach (x.resetAt + 5000000)
    let ops := (s.hq.ops.filter (fun e => match e.2 with | some o => decide (o.inst = inst) | none => false)).length
    let flows := s.flowsOf inst
    let leak := fun (s : State) (quantity n : Nat) =>
      if n = 0 then s
      else ({ s with health := { s.health with mismatches := s.health.mismatches + 1 } }).health! 0x80 5 noRegion 0xFF noLink
        (BitVec.ofNat 64 quantity) (BitVec.ofInt 32 (-(n : Int)))
    let s := leak (leak s 3 ops) 5 flows
    let s := s.dropCommands inst
    .next { s with ld := { s.ld with flows := s.ld.flows.filter (fun e => match e.2 with | some f => decide (f.inst ≠ inst) | none => true) } }

/-- FUNCTION_LEVEL_RESET (R24): the commands of every instance other than 0 are aborted and their holdings returned, with
keys kept; every queue goes to DISABLED with its context cleared; held completions and messages are discarded and every
vector returns to the defaults of R51. As PCIe has it, the function is in D0 afterwards, with its vectors masked and its
function mask clear (PRESUMED, assumption 4). -/
def execFunctionLevelReset (s : State) : Answer :=
  let guests := (s.hq.insts.filter (fun e => decide (e.1 ≠ 0 ∧ e.2.st ≠ .free))).map (·.1)
  let s := foldS (fun (s : State) (i : Nat) => s.abortInstance i .flr true) s guests
  let s := foldS (fun (s : State) (e : Nat × Queue) => s.enterDrain e.1 .flr) s s.hq.queues
  let vecs := mmap {} (fun (x : Vec) => { x with count := 1, window := 0, posted := 0, winEnd := none, winCount := 1, pending := false, masked := true }) s.hq.vecs
  let s := { s with hq := { s.hq with
    aqEnable := false, vecs := vecs, heldCpl := [], heldMsg := [], pcie := .d0, funcMask := false
    queues := mmap {} (fun (x : Queue) => { x with held := [], drain := if x.st = .draining then .flr else x.drain }) s.hq.queues } }
  .next (foldS (fun (s : State) (e : Nat × Queue) => s.drainEnd e.1 true) s s.hq.queues)

/-! ### Queues (R33, R38, R46, R83) -/

/-- Queue `q`'s instance for the check of R33: a DISABLED queue other than 0 counts for none. -/
def State.frameInst (s : State) (q : Nat) : Option Nat :=
  if q = 0 then some 0 else if (s.queue q).st = .disabled then none else some (s.queue q).inst

/-- QUEUE_CREATE. Ring bases are 4 KiB aligned. -/
def execQueueCreate (q tag : Nat) (cqOk : Bool) (s : State) : Answer := answering cqOk s fun s =>
  s.custodian q tag 0x83 (fun _ => true)
    (fun e _ =>
      let n := Sqe.field e 36 2
      let i := Sqe.field e 38 1
      let vec := Sqe.field e 42 2 % 2048
      if custodianOk e (decide (1 ≤ n ∧ n ≤ 4095 ∧ 1 ≤ Sqe.field e 40 1 ∧ bits (Sqe.dptr e) 0 12 = 0 ∧ bits (Sqe.aptr e) 0 12 = 0)) = false then
        some 0x11
      else if (s.queue n).st ≠ .disabled ∨ (s.inst i).st = .free then some 0x27
      else if vec = 0 ∧ i ≠ 0 then some 0x26
      else if (List.range 4).any (fun k => match s.frameInst (n / 4 * 4 + k) with | some j => decide (j ≠ i) | none => false) then some 0x24
      else none)
    (fun e _ =>
      let n := Sqe.field e 36 2
      let i := Sqe.field e 38 1
      let x : Queue := {
        inst := i, cls := BitVec.ofNat 2 (Sqe.field e 39 1), weight := BitVec.ofNat 8 (Sqe.field e 40 1)
        vector := BitVec.ofNat 11 (Sqe.field e 42 2), pasid := (s.inst i).pasid, sqBase := Sqe.dptr e, cqBase := Sqe.aptr e }
      (s.setQueue n x.fresh).succeed q tag 0x00 0)

/-- QUEUE_DELETE: the queue enters DRAINING. Of a queue that is DISABLED or DRAINING the spec gives no outcome: it is refused with
INSTANCE_STATE (DESIGN CHOICE, assumption 70). -/
def execQueueDelete (q tag : Nat) (cqOk : Bool) (s : State) : Answer := answering cqOk s fun s =>
  s.custodian q tag 0x84 (fun _ => true)
    (fun e _ =>
      let n := Sqe.field e 36 2
      if custodianOk e (decide (1 ≤ n ∧ n ≤ 4095)) = false then some 0x11
      else if (s.queue n).listens = false then some 0x27 else none)
    (fun e o => ((s.setOp q tag (some o)).enterDrain (Sqe.field e 36 2) .delete).succeed q tag 0x00 0)

/-! ### PASIDs, keys, moderation (R45, R51, R83) -/

/-- Whether every queue of an instance is DISABLED. -/
def State.queuesOff (s : State) (i : Nat) : Bool :=
  s.hq.queues.all (fun e => !(decide (e.2.inst = i ∧ e.2.st ≠ .disabled)))

/-- The causes of PASID_BIND. -/
def State.pasidOwn (s : State) (e : Sqe) (bind : Bool) : Option Code :=
  let i := fInstance e
  let p := BitVec.ofNat 20 (Sqe.field e 40 4)
  if custodianOk e (decide (1 ≤ i)) = false then some 0x11
  else if s.queuesOff i = false then some 0x27
  else if bind = true ∧ s.hq.insts.any (fun x => decide (x.1 ≠ i ∧ x.2.pasid = some p)) = true then some 0x25 else none

/-- PASID_BIND. The spec names no cause for a FREE instance, so it is bound too, and keeps the binding when it is created. -/
def execPasidBind (q tag : Nat) (cqOk : Bool) (s : State) : Answer := answering cqOk s fun s =>
  s.custodian q tag 0x85 (fun e => decide (Sqe.field e 40 4 / 2147483648 = 0)) (fun e _ => s.pasidOwn e true)
    (fun e _ =>
      let i := fInstance e
      (s.setInst i { s.inst i with pasid := some (BitVec.ofNat 20 (Sqe.field e 40 4)) }).succeed q tag 0x00 0)

/-- PASID_UNBIND: PASID_BIND with UNBIND set. -/
def execPasidUnbind (q tag : Nat) (cqOk : Bool) (s : State) : Answer := answering cqOk s fun s =>
  s.custodian q tag 0x85 (fun e => decide (Sqe.field e 40 4 / 2147483648 = 1)) (fun e _ => s.pasidOwn e false)
    (fun e _ =>
      let i := fInstance e
      (s.setInst i { s.inst i with pasid := none }).succeed q tag 0x00 0)

/-- Whether two ranges of slots share one. -/
def rangesShare (a n b m : Nat) : Bool := decide (0 < n ∧ 0 < m ∧ a < b + m ∧ b < a + n)

/-- Zeroise the slots of [base, base + n) that are not in [base', base' + n'). -/
def State.zeroiseRemoved (s : State) (hmac : Bool) (base n base' n' : Nat) : State :=
  foldS (fun (s : State) (e : Nat × Slot) =>
    if base ≤ e.1 ∧ e.1 < base + n ∧ ¬ (base' ≤ e.1 ∧ e.1 < base' + n') then s.zeroise hmac e.1 else s) s
    (if hmac then s.keys.hmac else s.keys.cipher)

/-- KEY_GRANT (R83, R354). HMAC slots 254 and 255 are the field network's (R473) and are granted to no instance. -/
def execKeyGrant (q tag : Nat) (cqOk : Bool) (s : State) : Answer := answering cqOk s fun s =>
  s.custodian q tag 0x86 (fun _ => true)
    (fun e _ =>
      let i := fInstance e
      let (cb, cn, hb, hn) := (Sqe.field e 40 2, Sqe.field e 42 2, Sqe.field e 44 2, Sqe.field e 46 2)
      if custodianOk e (decide (cb + cn ≤ 4096 ∧ hb + hn ≤ 256)) = false then some 0x11
      else if (0 < hn ∧ 254 < hb + hn) ∨ s.hq.insts.any (fun x => decide (x.1 ≠ i) &&
          (rangesShare cb cn x.2.keyBase x.2.keyCount || rangesShare hb hn x.2.hmacBase x.2.hmacCount)) = true then some 0x13 else none)
    (fun e o =>
      let i := fInstance e
      let (cb, cn, hb, hn) := (Sqe.field e 40 2, Sqe.field e 42 2, Sqe.field e 44 2, Sqe.field e 46 2)
      let x := s.inst i
      let s := (s.setOp q tag (some o)).setInst i { x with keyBase := cb, keyCount := cn, hmacBase := hb, hmacCount := hn }
      let s := (s.zeroiseRemoved false x.keyBase x.keyCount cb cn).zeroiseRemoved true x.hmacBase x.hmacCount hb hn
      (s.pumpRuns true).succeed q tag 0x00 0)

/-- MODERATE: in force from the vector's next window (R51). -/
def execModerate (q tag : Nat) (cqOk : Bool) (s : State) : Answer := answering cqOk s fun s =>
  s.custodian q tag 0x88 (fun _ => true)
    (fun e _ => if custodianOk e (decide (1 ≤ Sqe.field e 38 1 ∧ Sqe.field e 38 1 ≤ 32 ∧ Sqe.field e 40 2 ≤ 1000)) then none else some 0x11)
    (fun e _ =>
      let v := Sqe.field e 36 2 % 2048
      (s.setVec v { s.vec v with count := Sqe.field e 38 1, window := Sqe.field e 40 2 }).succeed q tag 0x00 0)

/-! ### Logs (R32, R439) -/

/-- The error log page of a queue, 256 bytes (R32). -/
def Elog.bytes (x : Elog) : Bytes :=
  padTo 256 (natLe 1 ((if x.valid then 1 else 0) + (if x.more then 2 else 0)) ++ natLe 1 x.tag.toNat ++ natLe 1 x.opcode.toNat ++
    natLe 1 x.code.toNat ++ natLe 4 x.freezes.toNat ++ natLe 8 x.time.toNat ++ natLe 8 x.detail.toNat ++ natLe 4 x.slab.toNat ++
    natLe 1 x.started.toNat ++ natLe 1 x.notStarted.toNat ++ natLe 2 0 ++ List.replicate 32 0 ++ natLe 64 x.sqe.toNat)

/-- Wear of the bands of QLC or SLC roles in ‰ of rated P/E: mean and maximum (R439). -/
def State.wearOf (s : State) (slc : Bool) : Nat × Nat :=
  let rated := fun (p : Nat) => match s.links.find? (fun e => decide (regionOfLink e.1 = p) && e.2.desc.isSome) with
    | some (_, l) => (match l.desc with | some d => if slc then d.ratedSlc else d.ratedQlc | none => 0)
    | none => 0
  let l := s.st.bands.filter (fun e => decide (e.2.role = 2 ∨ e.2.role = 3 ∨ e.2.role = 4) == slc)
  let share := fun (n r : Nat) => if r = 0 then 0 else n * 1000 / r
  let each := l.map (fun e => share e.2.erases (rated (bandRegion e.1)))
  let all := (List.range 8).foldl (fun n p => n + s.bandsOf p) 0
  let n := if slc then l.length else all - (s.st.bands.length - l.length)
  (if n = 0 then 0 else each.foldl (· + ·) 0 / n, each.foldl Nat.max 0)

/-- A temperature record of 96 bytes (R439). -/
def Temp.bytes (x : Temp) : Bytes :=
  padTo 96 (natLe 2 x.max ++ natLe 2 0 ++ (List.range 4).flatMap (fun i => natLe 4 (x.aboveMs.getD i 0 / 1000)) ++
    (List.range 16).flatMap (fun i => natLe 4 (mget 0 x.histMs i / 1000)))

/-- The health report of 1,120 bytes (R439). -/
def State.healthReport (s : State) : Bytes :=
  let h := s.health
  let qlc := s.wearOf false
  let slc := s.wearOf true
  let links := fun (p : Link → Bool) => (s.links.filter (fun e => p e.2)).length
  let retired := (List.range 64).foldl (fun n t => if (s.tile t).retired then n + 2 ^ t else n) 0
  let head := natLe 2 1 ++ natLe 2 0 ++ natLe 4 1120 ++ natLe 8 s.now ++ natLe 4 s.sparePool.toNat ++ natLe 4 s.spareReserve ++
    natLe 4 s.emptySlabs ++ natLe 4 (s.st.slabs.filter (fun e => decide (e.2.st = .retired))).length ++ natLe 4 s.st.exported ++
    natLe 4 h.retiredBands ++ natLe 4 s.st.retiredDb.length ++ natLe 4 (8 * Config.remapEntries - s.st.remaps.length) ++
    natLe 2 qlc.1 ++ natLe 2 qlc.2 ++ natLe 2 slc.1 ++ natLe 2 slc.2 ++
    (List.range 7).flatMap (fun i => natLe 8 (mget 0 h.rung i)) ++ natLe 8 h.corrSram ++ natLe 8 h.corrDram ++ natLe 4 h.ueSram ++
    natLe 4 h.ueDram ++ natLe 8 h.linkResends ++ natLe 4 h.linkRecoveries ++ natLe 4 h.linkRetrains ++
    natLe 2 (links (fun x => decide (x.st = .down))) ++ natLe 2 (links (fun x => x.degraded)) ++ natLe 4 h.tileRestarts ++ natLe 8 retired ++
    natLe 4 h.regionRestarts ++ natLe 4 h.unsafeShutdowns ++ natLe 4 h.nEvents ++ natLe 4 h.mismatches
  padTo 256 head ++ (List.range 9).flatMap (fun i => (mget {} h.temps i).bytes)

/-- Write what a LOG_READ or DICT read gives to DPTR's buffer, cut at LENGTH. -/
def State.giveData (s : State) (q tag : Nat) (e : Sqe) (b : Bytes) (w : HostWrite) : State :=
  match w with
  | .fault a => s.fail true q tag 0x42 a 0
  | .ok => (s.hostWrite q tag 0 (b.take (Sqe.length e))).succeed q tag 0x00 (BitVec.ofNat 64 (b.take (Sqe.length e)).length)

/-- LOG_READ_ERROR_LOG: SUBOP 0. -/
def execLogReadErrorLog (q tag : Nat) (w : HostWrite) (cqOk : Bool) (s : State) : Answer := answering cqOk s fun s =>
  .next (s.startCmd q tag (fun e => decide (Sqe.opcode e = 0x89 ∧ Sqe.subop e = 0))
    (fun e _ => if (flagsOk e && dptrOk e && decide (Sqe.field e 36 2 ≤ 4095)) then none else some 0x11) true
    (fun e _ => s.giveData q tag e (s.queue (Sqe.field e 36 2)).elog.bytes w))

/-- LOG_READ_HEALTH_REPORT: SUBOP 1. -/
def execLogReadHealthReport (q tag : Nat) (w : HostWrite) (cqOk : Bool) (s : State) : Answer := answering cqOk s fun s =>
  .next (s.startCmd q tag (fun e => decide (Sqe.opcode e = 0x89 ∧ Sqe.subop e = 1))
    (fun e _ => if (flagsOk e && dptrOk e) then none else some 0x11) true
    (fun e _ => s.giveData q tag e s.healthReport w))

/-! ### FORMAT and SANITIZE (R84, R85, R91 to R93) -/

/-- Whether every queue of the other instances is DISABLED. -/
def State.guestsOff (s : State) : Bool := s.hq.queues.all (fun e => !(decide (e.2.inst ≠ 0 ∧ e.2.st ≠ .disabled)))

/-- No other command that moves data or changes slabs is running; FORMAT and SANITIZE wait for it. -/
def State.storeIdle (s : State) (q tag : Nat) : Bool :=
  s.hq.ops.all (fun e => match e.2 with
    | some o => decide (e.1 = opKey q tag) || !(o.started && decide (Sqe.opcode o.sqe ≤ 8))
    | none => true)

/-- The exported slab count that R92 gives. -/
def State.exportedCount (s : State) : Nat :=
  let up := fun (p : Nat) => s.links.any (fun e => decide (regionOfLink e.1 = p ∧ 0 < e.2.dies))
  let n := (List.range 8).foldl (fun n p => if up p then n + s.bandsOf p else n) 0
  Nat.min Config.maxExported (n * 1000000000000000 / (1075200 * 1073741824))

/-- The spare bands that FORMAT sets aside: an eighth of the spare reserve in each region, the highest bands below the parity ring
(R115, DESIGN CHOICE, assumption 21). -/
def State.spareBands (s : State) : SMap Nat :=
  ((List.range 8).filter (fun p => decide (0 < s.placeable p))).filterMap (fun p =>
    let n := Nat.min (s.spareReserve / 8) (s.placeable p)
    if n = 0 then none else some (p, n))

/-- The effect of FORMAT on the map once no slab is OPEN, FULL or RETIRED: the exported count and the spare bands are set,
instance 0's namespace is laid out, and the retirement rule is applied (R84, R91, R92, R93). -/
def State.formatMap (s : State) : State :=
  let s := { s with st := { s.st with slabs := [], descs := [], exported := s.exportedCount, spares := s.spareBands, formatting := false } }
  let x := s.inst 0
  let others := ((s.hq.insts.filter (fun e => decide (e.1 ≠ 0))).map (fun e => e.2.extents)).flatten
  let room := s.st.exported - covered others
  let ex := lowestFree others Config.slabEntries 8 0 (Nat.min (s.param 0x040002 0) room)
  (((s.journalSpace 0 false x.extents).setInst 0 { x with extents := ex }).journalSpace 0 true ex).poolChanged

/-- A RETIRED slab is EMPTY again (R93). -/
def State.unretire (s : State) (ti : Nat) : State :=
  if s.journalRoom 1 then (s.setSlab ti { st := .empty, inst := (s.slab ti).inst }).journalSlab ti else s

/-- Empty every slab as far as the journal buffer has room (R84, R93, R127). -/
def State.formatStep (s : State) : State :=
  foldS (fun (s : State) (e : Nat × Slab) => if e.2.st = .retired then s.unretire e.1 else s.emptyStep e.1) s s.st.slabs

/-- Complete the started commands of an opcode. -/
def State.finishAll (s : State) (op : Nat) : State :=
  foldS (fun (s : State) (e : Nat × Option Op) => match e.2 with
    | some o => if Sqe.opcode o.sqe = op ∧ o.started = true then s.succeed (e.1 / 32) (e.1 % 32) 0x00 0 else s
    | none => s) s s.hq.ops

/-- Go on with a FORMAT, or with the part of a SANITIZE that does what FORMAT does: once every slab is EMPTY the map is laid out,
and a FORMAT completes. -/
def State.pumpFormat (s : State) : State :=
  if s.st.formatting = false then s
  else
    let s := s.formatStep
    if s.st.slabs.all (fun e => decide (e.2.st = .empty)) = false ∨ s.journalRoom 16 = false then s
    else (s.formatMap).finishAll 0x8B

/-- FORMAT. -/
def execFormat (q tag : Nat) (cqOk : Bool) (s : State) : Answer := answering cqOk s fun s =>
  s.custodian q tag 0x8B (fun _ => true)
    (fun e _ => if flagsOk e = false then some 0x11 else if s.guestsOff = false then some 0x2B else none)
    (fun _ o =>
      if s.storeIdle q tag = false ∨ s.st.formatting = true then s
      else
        let s := s.setOp q tag (some o)
        (({ s with st := { s.st with formatting := true } }).pumpFormat).pump true)

/-! ### SANITIZE (R84, R85) -/

/-- The next band a SANITIZE takes up, from a key on. -/
def State.sanNext (s : State) (k : Nat) : Nat → Option Nat
  | 0 => none
  | fuel + 1 =>
    let p := bandRegion k
    if 8 ≤ p then none else if s.bandsOf p ≤ bandIndex k then s.sanNext (bandKey (p + 1) 0) fuel else some k

/-- Erase the dieblocks of a band's own places for which `sel` holds, by tile offset. -/
def State.sanRaw (s : State) (k : Nat) (sel : Nat → Bool) : State :=
  let p := bandRegion k
  let b := bandIndex k
  let d := (s.geomOf p).1
  foldS (fun (s : State) (t : Nat) =>
    let c : Loc := { link := 8 * (8 * p + t) + b % 8, die := b / 8 % d, plane := 0, block := b / (8 * d), page := 0, cw := 0 }
    if sel t ∧ s.reachable c then
      s.sendMedia c.link { op := .erase, die := c.die, planes := 15, block := c.block, why := .sanitize, foreground := false }
    else s) s (List.range 8)

/-- Begin the erase of band `k` for a SANITIZE (R84, R85, R97): what it holds ends with a journal entry, and the erase follows when
that is persisted. Dieblocks that have been replaced, and those of RETIRED bands and donors that stand for none, are erased with
it. A band that holds the journal or a checkpoint is left until those lie elsewhere. -/
def State.sanBand (s : State) (k : Nat) : State :=
  let p := bandRegion k
  let b := bandIndex k
  let x := s.bandAt k
  let stands := fun (t : Nat) => s.st.remaps.any (fun e => match e.2 with
    | some r => decide (r.tile = 8 * p + t ∧ r.replacing = b) | none => false)
  if x.st = .retired ∨ x.role = 6 then s.sanRaw k (fun t => !stands t)
  else
    let s := s.sanRaw k (fun t => decide (s.dieblock (8 * p + t) b ≠ b))
    if x.role = 4 ∧ (x.st = .opened ∨ x.taken = true) then
      { s with st := { s.st with sanJournal := s.st.sanJournal ++ [k] } }
    else
      let s := { s with st := { s.st with sanWait := some k } }
      if x.st = .stale ∨ x.st = .erasing then s.tryErase k
      else if x.st = .free ∧ x.taken = false then s.unused k
      else if s.ending k ∨ x.checking = [wasWritten] then s
      else
        let s := s.retireUse k
        if (s.bandAt k).st = .free ∧ (s.bandAt k).taken = false then s.unused k else s

/-- Leave the journal bands of a SANITIZE's list that are being written, and checkpoint the map, so that no band of the list is
needed any more (R85, R130). -/
def State.sanTurn (s : State) : State :=
  let away := fun (p : Nat) (x : JBand) => match x.band with
    | some b => if s.st.sanJournal.contains (bandKey p b) ∧ s.jr.flying.length ≤ 512 * x.issued then { x with band := none, next := 0 } else x
    | none => x
  let left := fun (p : Nat) (x : JBand) => match x.band with
    | some b => if (away p x).band = none then [(bandKey p b, s.jr.jseq)] else []
    | none => []
  let j := s.jr
  ({ s with jr := { j with
    jbands := j.jbands ++ left j.regA j.bandA ++ left j.regB j.bandB
    bandA := away j.regA j.bandA, bandB := away j.regB j.bandB } }).beginCkpt

/-- Carry a SANITIZE on: when the erase of its band has ended the next band is erased, those of the journal last; after the last
one its commands complete and data commands are accepted again (R85). -/
def State.pumpSanitize (s : State) : Nat → State
  | 0 => s
  | fuel + 1 =>
    if s.st.sanitizing = false ∨ s.st.formatting = true ∨ s.st.sanWait.isSome = true ∨ s.noCmds .sanitize = false ∨
        s.journalRoom 8 = false ∨ s.jr.holdStep ≠ 0 then s
    else match s.sanNext s.st.sanAt 10 with
      | some k => (({ s with st := { s.st with sanAt := k + 1 } }).sanBand k).pumpSanitize fuel
      | none =>
        if s.st.sanJournal ≠ [] then s.sanTurn
        else ({ s with st := { s.st with sanitizing := false, sanAt := 0 } }).finishAll 0x8C

/-- SANITIZE: what FORMAT does, the erase of every block, and keys, CAM entries and programs go (R84, R232, R354). A second
SANITIZE while one runs completes with it. -/
def execSanitize (q tag : Nat) (cqOk : Bool) (s : State) : Answer := answering cqOk s fun s =>
  s.custodian q tag 0x8C (fun _ => true)
    (fun e _ => if flagsOk e = false then some 0x11 else if s.guestsOff = false then some 0x2B else none)
    (fun _ o =>
      if s.st.sanitizing then s.setOp q tag (some o)
      else if s.storeIdle q tag = false ∨ s.cam.changing = true ∨ s.st.formatting = true then s
      else
        let s := s.setOp q tag (some o)
        let s := (s.zeroiseRange false 0 4096).zeroiseRange true 0 256
        let s := (s.dropPrograms (fun _ => true)).freeWindows (fun _ => true)
        let s := { s with
          cam := { s.cam with places := [], directory := [], placing := [] }
          st := { s.st with sanitizing := true, sanAt := 0, formatting := true, slcCur := [] } }
        ((s.pumpFormat).pumpRuns true).pumpSanitize 64)

/-! ### Self-tests (R86, R87) -/

/-- The causes of SELF_TEST. -/
def State.selfTestOwn (s : State) (e : Sqe) : Option Code :=
  if flagsOk e = false then some 0x11 else if s.stew.selfTest.isSome then some 0x29 else none

/-- The lanes of a region pass their known-answer tests: none counts a failure (R86, R428). A failing answer is the row of its own
(DESIGN CHOICE, assumption 74). -/
def State.testLanes (s : State) (p : Nat) : State :=
  let s := foldS (fun (s : State) (i : Nat) =>
    let x := s.tile (8 * p + i)
    s.setTile (8 * p + i) { x with lanes := { x.lanes with katRx := 0, katEx := 0, katSoft := 0 } }) s (List.range 8)
  foldS (fun (s : State) (e : Nat × Link) => if regionOfLink e.1 = p then s.setLink e.1 { s.link e.1 with katFails := 0 } else s) s s.links

/-- Read every pilot block of a link (R86). -/
def State.testPilots (s : State) (l : Nat) : State :=
  match (s.link l).st, (s.link l).desc with
  | .active, some d => foldS (fun (s : State) (n : Nat) =>
      s.sendMedia l { op := .readPage, die := n / 4, planes := BitVec.ofNat 4 (2 ^ (n % 4)), block := d.pilot
                      cwmask := 1, reads := 1, why := .selfTest, foreground := false }) s (List.range (4 * d.dies))
  | _, _ => s

/-- Whether a band can be verify-read no more: it is not written, or a dieblock of it lies on a link or die that is gone. -/
def State.untestable (s : State) (k : Nat) : Bool :=
  let x := s.bandAt k
  decide (x.st ≠ .opened ∧ x.st ≠ .closed ∧ x.st ≠ .verified) ||
    (List.range 8).any (fun t => !s.reachable (s.locQlc (bandRegion k) (bandIndex k) (64 * t)))

/-- The region of an entry of a test's list. -/
def SelfTest.regionOf (x : SelfTest) (n : Nat) : Nat := if x.extended then bandRegion n else if n < 512 then regionOfLink n else n - 512

/-- Do one thing of a self-test's list, where no host work is pending in its region (R87): true when it is off the list. -/
def State.testOne (s : State) (x : SelfTest) (n : Nat) : Bool × State :=
  let p := x.regionOf n
  if s.hostWork p then (false, s)
  else if x.extended = false then (true, if n < 512 then s.testPilots n else s.testLanes p)
  else if s.untestable n then (true, s)
  else if (mget none s.st.verifies n).isSome = true ∨ s.verifiable p (bandIndex n) = false ∨ s.bgPaused p = true ∨
      s.st.verifies.any (fun e => decide (bandRegion e.1 = p) && (match e.2 with | some v => v.test | none => false)) then (false, s)
  else (true, ({ s with st := { s.st with verifies := mset none s.st.verifies n (some { test := true }) } }).pumpVerify n 2049)

/-- Go on with the self-test in progress. -/
def State.pumpTest (s : State) : State :=
  match s.stew.selfTest with
  | none => s
  | some x => foldS (fun (s : State) (n : Nat) => match s.testOne x n with
    | (true, s) => { s with stew := { s.stew with selfTest := s.stew.selfTest.map (fun (y : SelfTest) => { y with todo := y.todo.erase n }) } }
    | (false, s) => s) s x.todo

/-- Whether nothing of the self-test in progress is left to do. -/
def State.testDone (s : State) : Bool :=
  match s.stew.selfTest with
  | none => false
  | some x => x.todo.isEmpty && decide (s.countCmds (fun m => decide (m.why = .selfTest)) = 0) &&
      s.st.verifies.all (fun e => match e.2 with | some v => !v.test | none => true)

/-- Run a self-test row: applied to its command it starts the test with a list of things to do; applied again it goes on with
it, and once nothing is left its command completes (R86). -/
def State.selfTestRow (s : State) (q tag : Nat) (extended : Bool) (todo : List Nat) : Answer :=
  match s.op q tag with
  | none => .next s
  | some o =>
    if o.started = true ∧ Sqe.opcode o.sqe = 0x8D ∧ Sqe.subop o.sqe = extended.toNat then
      let s := s.pumpTest
      .next (match s.stew.selfTest with
        | some x => if x.q = q ∧ x.tag = tag ∧ s.testDone then (s.reach (s.now + 1)).endSelfTest .success 0x00 else s
        | none => s)
    else s.custodian q tag 0x8D (fun e => decide (Sqe.subop e = extended.toNat)) (fun e _ => s.selfTestOwn e)
      (fun _ o =>
        let s := (s.setOp q tag (some o)).busy
        ({ s with stew := { s.stew with selfTest := some { q, tag, extended, found := s.health.nEvents, todo } } }).pumpTest)

/-- SELF_TEST_SHORT (R86): the lanes of each region answer their known-answer tests and every pilot block is read. The tests of idle
banks and the link loopback find nothing in this model (assumption 74). -/
def execSelfTestShort (q tag : Nat) (cqOk : Bool) (s : State) : Answer := answering cqOk s fun s =>
  s.selfTestRow q tag false ((List.range 8).map (512 + ·) ++ (s.links.filter (fun e => decide (e.2.st = .active))).map (·.1))

/-- SELF_TEST_EXTENDED (R86): a verify-read of every written band, whatever it is used for. -/
def execSelfTestExtended (q tag : Nat) (cqOk : Bool) (s : State) : Answer := answering cqOk s fun s =>
  s.selfTestRow q tag true ((s.st.bands.filter (fun e =>
    decide (e.2.st = .opened ∨ e.2.st = .closed ∨ e.2.st = .verified) && decide (e.2.role ≤ 4))).map (·.1))

/-- Go on with the work of the custodian that runs beside its commands (R84 to R87). -/
def State.pumpBack (s : State) : State := ((s.pumpFormat).pumpSanitize 64).pumpTest

end Sys2Proof.Machine
end

