-- ==== Sys2Proof/Machine/HoldOps.lean ====
section
/-! DEFINITION. Flushes of the journal and checkpoints (R127 to R130, R456), the steps of R131 with what each of their
causes does at their end (R28, R133, R437, R445), and the device reset (R444, R454). -/

namespace Sys2Proof.Machine

/-! ### The journal (R127, R128) -/

/-- PAD entries, `n` of them. -/
def State.padJournal (s : State) : Nat → State
  | 0 => s
  | n + 1 => (s.journal 0 false .pad).padJournal n

/-- A flush begins: the entries made so far, filled with PAD to whole pages of 512, are written to both copies (R127, R128). -/
def State.flushJournal (s : State) : State :=
  let n := s.jr.buf.length
  let s := if n = 0 then s else s.padJournal ((Config.journalPage - n % Config.journalPage) % Config.journalPage)
  ({ s with jr := { s.jr with flying := s.jr.flying ++ s.jr.buf, buf := [], lastFlush := s.now } }).pumpJournal

/-- Entries are persisted: `n` of those being written, oldest first (R128). -/
def State.persist (s : State) (n : Nat) : State :=
  let go := s.jr.flying.take n
  { s with jr := { s.jr with
      flash := s.jr.flash ++ go
      flying := s.jr.flying.drop n
      bandA := { s.jr.bandA with issued := s.jr.bandA.issued - n / Config.journalPage }
      bandB := { s.jr.bandB with issued := s.jr.bandB.issued - n / Config.journalPage }
      written := s.jr.written + 32 * go.length } }

/-- The newest persisted JSEQ. -/
def Journal.persistedTo (j : Journal) : Nat := match j.flash.getLast? with | some e => e.jseq | none => 0

/-! ### Checkpoints (R129, R130, R456) -/

/-- The 64 bytes of an anchor record (R456). -/
def Anchor.bytes (a : Anchor) : Bytes :=
  let b := natLe 8 a.seq ++ natLe 2 a.ckpt ++ natLe 1 a.regA ++ natLe 1 a.regB ++ natLe 4 a.bandA ++ natLe 4 a.bandB ++ natLe 6 a.start ++
    natLe 1 (if a.clean then 1 else 0) ++ List.replicate 33 0
  b ++ natLe 4 (crc32c b).toNat

/-- An anchor record naming a checkpoint is appended; a full log loses its oldest 64 KiB sector (R456). -/
def State.writeAnchor (s : State) (num : Nat) : State :=
  match s.jr.ckpts.find? (fun c => decide (c.num = num)) with
  | none => s
  | some c =>
    let seq := match s.jr.anchors with | a :: _ => a.seq + 1 | [] => 1
    let first := fun (p : Nat) => ((c.bands.find? (fun k => decide (bandRegion k = p))).map bandIndex).getD 0
    let a : Anchor := { seq := seq, ckpt := c.num, regA := c.regA, regB := c.regB, bandA := first c.regA, bandB := first c.regB
                        start := c.start, clean := c.clean }
    let old := if s.jr.anchors.length = 262144 then s.jr.anchors.take (262144 - 1024) else s.jr.anchors
    ({ s with jr := { s.jr with anchors := a :: old } }).emit (.norAnchor a.bytes)

/-- Wall time now, if one has been written since the start (R186). -/
def State.wallNow (s : State) : Option Nat := s.dict.wallAt.map (fun e => e.1 + (s.now - e.2) / 1000000000)

/-- A checkpoint ends: the two copies hold the map, health, the read-level and age tables and the age clock, and the
CHECKPOINT entry is journaled (R129, R186, R440). The two newest are kept, with the journal from the older one's start on; the
bands of the others, and journal bands with older entries only, become STALE (R130). -/
def State.writeCheckpoint (s : State) (start : Nat) (clean : Bool) : State :=
  let num := (s.jr.ckptNum + 1) % 65536
  let c : Ckpt := { num := num, start := start, clean := clean, regA := s.jr.regA, regB := s.jr.regB, image := s.st, insts := s.hq.insts
                    health := s.health, levels := s.levels, pilotAge := s.pilotAge, ageClock := s.ageNow, wall := s.wallNow
                    bands := s.jr.ckptBands }
  let keep := match s.jr.ckpts with | p :: _ => [c, p] | [] => [c]
  let old := (s.jr.ckpts.drop 1).flatMap (fun p => p.bands)
  let from_ := match s.jr.ckpts with | p :: _ => p.start | [] => start
  let s := { s with jr := { s.jr with
    ckptNum := num, ckpts := keep, ckptRun := none, ckptBands := [], ckptAt := s.now, written := 0
    flash := s.jr.flash.filter (fun e => decide (from_ ≤ e.jseq)) } }
  ((s.endJournal from_ old).journal 0 false (.checkpoint num start clean s.jr.regA s.jr.regB)).whenPersisted (.anchor num)

/-! ### The device reset (R444, R454) -/

/-- What a device reset leaves: everything as after power-on, but for what R454 keeps and what lies on flash, in the NOR
and in the fuses. The map is loaded again by RECOVERY_START; until then its last contents stand for what flash holds. -/
def State.deviceReset (s : State) : State :=
  let (n, s) := s.draw
  let cur := fun (p : Nat) (x : JBand) => match x.band with | some b => [(bandKey p b, s.jr.persistedTo)] | none => []
  let left := cur s.jr.regA s.jr.bandA ++ cur s.jr.regB s.jr.bandB ++ s.jr.ckptBands.map (fun k => (k, 0))
  { s with
    hq := { insts := mmap {} (fun (x : Inst) => { x with pasid := none, resetOp := none }) s.hq.insts }
    staged := []
    jr := { s.jr with buf := [], flying := [], acts := [], ckptRun := none, ckptBands := [], rescueWait := [], rescueAgain := [], jbands := s.jr.jbands ++ left, bandA := {}, bandB := {}, holdStep := 0, holdFor := .powerFail, lastFlush := s.now, recovered := false }
    links := []
    levelDir := []
    tiles := []
    ld := {}
    keys := {}
    cam := {}
    dram := {}
    intTgt := []
    intLock := false
    stewInt := {}
    dict := { copyA := s.dict.copyA, copyB := s.dict.copyB, nonce := Config.freeDWord n
              factoryKey := s.dict.factoryKey, mac := s.dict.mac, serial := s.dict.serial }
    stew := { digests := s.stew.digests, ageClock := s.ageNow, ageBase := s.now, supplies := s.stew.supplies, perst := s.stew.perst
              devRst := s.stew.devRst, powerFail := s.stew.powerFail, slotOk := s.stew.slotOk
              nodeId := s.stew.nodeId, bootSel := s.stew.bootSel }
    pw := { devTemp := s.pw.devTemp } }

/-- Time 0 of bring-up: the straps have been sampled, and the boot ROM tries an image, or goes to the recovery service or
the test mode (R446, R451). Time 0 waits while a reset pin is held (R444). -/
def State.timeZero (s : State) : State :=
  if s.stew.perst ∨ s.stew.devRst ∨ s.stew.supplies = false then s
  else
    let b := s.stew.bootSel.toNat
    { s with stew := { s.stew with
        boot := if b = 2 then .recovery else if b = 3 then .test else .rom
        image := if b = 1 then 1 else 0
        tried := 0
        time0 := s.now } }

/-! ### The steps of R131 -/

/-- Outstanding commands of a link whose CMD frame has gone out. -/
def Link.begun (x : Link) : SMap (Option MCmd) :=
  x.cmds.filter (fun e => !(x.waiting.any (fun f => match f.body with | .cmd cid _ => decide (cid = e.1) | _ => false)))

/-- What a link still does once step 1 has begun: commands that belong to the steps, and what has gone out already. Its other
commands are forgotten; frames of a program that has begun still follow. -/
def Link.stopped (x : Link) : Link :=
  let keep := x.cmds.filter (fun e => (x.begun.any (fun b => decide (b.1 = e.1))) || (match e.2 with | some m => m.ofHold | none => false))
  let going := fun (cid : Nat) => keep.any (fun e => decide (e.1 = cid))
  { x with
    queue := x.queue.filter MCmd.ofHold
    cmds := keep.map (fun (e : Nat × Option MCmd) => (e.1, e.2.map (fun m => if m.ofHold then m else { m with why := .firmware })))
    climbs := x.climbs.filter (fun e => match mget none keep e.1 with | some m => m.ofHold | none => false)
    rdFor := x.rdFor.map (fun e => if (match mget none keep e.1 with | some m => m.ofHold | none => false) then e else (1024, e.2))
    waiting := x.waiting.filter (fun f => match f.body with | .cmd cid _ => going cid | .wdata cid _ _ => going cid)
    pilots := [] }

/-- Dies of a link with a QLC program in progress. -/
def Link.qlcDies (x : Link) : List Nat :=
  (List.range 16).filter (fun d => x.begun.any (fun e => match e.2 with
    | some m => decide (m.op = .program ∧ m.slc = false ∧ m.die = d) | none => false))

/-- Bands with a row of which some pages, but not all, are programmed or being programmed at their QLC place: that row is torn
(R131, R137). -/
def State.cutBands (s : State) : List Nat :=
  let begun := s.links.flatMap (fun e => e.2.begun.filterMap (fun c => c.2))
  let rows := rowsOf (s.staged.filter (fun e => e.issued))
  let part := rows.filter (fun (x : Nat × Nat × Nat) =>
    let l := s.rowStaged x.1 x.2.1 x.2.2
    l.any (fun e => !e.programmed) && (l.any (fun e => e.programmed) || begun.any (fun m => decide (m.why = .row (bandKey x.1 x.2.1) x.2.2))))
  part.map (fun x => bandKey x.1 x.2.1) ++ begun.filterMap (fun m => match m.why with | .foldRow k _ => some k | _ => none)

/-- Step 1: fetching, host DMA into staging and all media work stop; QLC programs in progress are suspended, and what they leave is
torn. POWER_FAIL# wakes every retention group (R314). -/
def State.holdStop (s : State) (wakeAll : Bool) : State :=
  let torn := s.cutBands
  let dies := s.links.map (fun e => (e.1, if e.2.st = .active then e.2.qlcDies else []))
  let parityOut := fun (k r : Nat) => decide (s.countCmds (fun m => decide (m.why = .parity k r)) ≠ 0)
  let slots := s.st.paritySlot.filter (fun e => !parityOut (e.1 / 2048) (e.1 % 2048))
  let s := { s with
    st := { s.st with paritySlot := slots }
    hq := { s.hq with stopFetch := true }
    jr := { s.jr with holdStep := 1 }
    links := mmap {} Link.stopped s.links }
  let s := foldS (fun (s : State) (k : Nat) => s.setBandAt k { s.bandAt k with torn := true }) s torn
  let s := foldS (fun (s : State) (e : Nat × List Nat) => foldS (fun (s : State) (d : Nat) => s.sendMedia e.1 { op := .suspend, die := d }) s e.2) s dies
  if wakeAll then { s with tiles := mmap {} (fun (x : Tile) => { x with retain := 0, awake := 0xF }) s.tiles } else s

/-! ### Step 2: the rescue -/

/-- Grains that a region's rescue programs hold: staged grains and stream tails. -/
def State.rescueGrains (s : State) (p : Nat) : Nat :=
  (s.staged.filter (fun e => decide (e.region = p))).length +
    s.st.tails.foldl (fun n e => if s.homeRegion e.1 = p then n + tailGrains e.2 else n) 0

/-- A tag as a rescue copy carries it. -/
def rescueTag (t : Bytes) : Bytes := ({ Tag.ofBits (BitVec.ofNat 256 (leNat t)) with rescue := true } : Tag).bytes

/-- The codewords that a region's rescue programs hold: each staged codeword with its held tag, and each stream tail, flagged as one
(R131, R182). A tail's codeword has the tail first, then zeros; GRAIN is the write pointer. -/
def State.rescueCws (s : State) (p : Nat) (held : List Staged) : List (Bytes × Bytes) :=
  let mine := held.filter (fun e => decide (e.region = p))
  let heads := mine.foldl (fun (acc : List (Nat × Nat)) e => if acc.contains (e.band, e.at_ / 4) then acc else acc ++ [(e.band, e.at_ / 4)]) []
  let grains := heads.map (fun h =>
    let c := stagedCw (mine.filter (fun e => decide (e.band = h.1))) (4 * h.2)
    (c.1, rescueTag c.2))
  let tails := (s.st.tails.filter (fun e => decide (s.homeRegion e.1 = p) && !e.2.isEmpty)).map (fun e =>
    (slice e.2 0 4096, ({ wseq := mget 0 s.st.tailSeqs e.1, slab := e.1, tail := true, rescue := true, last := true, grain := (s.slab e.1).wp } : Tag).bytes))
  grains ++ tails

/-- The tile offsets of a band that can be programmed. -/
def State.rescueCols (s : State) (p b : Nat) : List Nat := (List.range 8).filter (fun t => s.reachable (s.locQlc p b (64 * t)))

/-- Take a band for a region's rescue (R131). -/
def State.rescueBand (s : State) (p : Nat) : Option State :=
  (s.placeBand p).map (fun b =>
    let s := s.takeBand p b 2
    { s with st := { s.st with slcCur := mset none s.st.slcCur p (some (b, 0)) } })

/-- The rescue of a region waits for the first-row reads of a band taken for it (R131, R137). -/
def State.rescueTake (s : State) (p : Nat) : State :=
  match s.rescueBand p with
  | none => s
  | some s => { s with jr := { s.jr with rescueWait := s.jr.rescueWait ++ [p] } }

/-- Step 2 for one region: programs of 16 codewords each to the region's OPEN SLC buffer band, or to a band taken for it
(R131); they are spread over the 8 tiles, row by row. -/
def State.rescueRegion (s : State) (p : Nat) (held : List Staged) : State :=
  let cws := s.rescueCws p held
  let n := (cws.length + 15) / 16
  if n = 0 then s
  else match mget none s.st.slcCur p with
    | none => s.rescueTake p
    | some (b, r) =>
      let cols := s.rescueCols p b
      let w := cols.length
      if (s.band p b).taken then { s with jr := { s.jr with rescueWait := s.jr.rescueWait ++ [p] } }
      else if (s.band p b).st ≠ .opened ∨ w = 0 ∨ slcRows < r + (n + w - 1) / w then s.rescueTake p
      else
        let s := ({ s with st := { s.st with slcCur := mset none s.st.slcCur p (some (b, r + (n + w - 1) / w)) } }).noteAge (bandKey p b)
        foldS (fun (s : State) (i : Nat) =>
          let c := { s.locQlc p b (512 * (r + i / w) + 64 * cols.getD (i % w) 0) with slc := true }
          s.sendMedia c.link { op := .program, slc := true, die := c.die, planes := 15, block := c.block, page := c.page
                               data := c.frames (((cws.drop (16 * i)).take 16) ++ List.replicate 16 (List.replicate 4096 0, natLe 32 0)), why := .rescue })
          s (List.range n)

/-- Program the codewords of a failed rescue program again, at the next free page of the region's SLC buffer band (R198). -/
def State.rescueRetry (s : State) (e : Nat × List (Bytes × Bytes)) : State :=
  let p := e.1
  let gone := fun (s : State) => { s with jr := { s.jr with rescueAgain := s.jr.rescueAgain.erase e } }
  let take := (s.rescueBand p).getD (gone s)
  match mget none s.st.slcCur p with
  | some (b, r) =>
    if (s.band p b).taken then s
    else match s.rescueCols p b with
      | t :: _ =>
        if (s.band p b).st ≠ .opened ∨ slcRows ≤ r then take
        else
          let s := (gone s).noteAge (bandKey p b)
          let s := { s with st := { s.st with slcCur := mset none s.st.slcCur p (some (b, r + 1)) } }
          let c := { s.locQlc p b (512 * r + 64 * t) with slc := true }
          s.sendMedia c.link { op := .program, slc := true, die := c.die, planes := 15, block := c.block, page := c.page
                               data := c.frames e.2, why := .rescue }
      | [] => take
  | none => take

/-- What a rescue under way holds: while the steps of R131 run the copy of staging, else, on entry to P2, staging itself (R484). -/
def State.rescueHeld (s : State) : List Staged := if s.jr.holdStep = 0 then s.staged else s.jr.rescue

/-- Regions whose rescue waited for a band go on. -/
def State.rescuePump (s : State) : State :=
  let w := s.jr.rescueWait
  let s := foldS (fun (s : State) (p : Nat) => s.rescueRegion p s.rescueHeld) { s with jr := { s.jr with rescueWait := [] } } w
  foldS (fun (s : State) (e : Nat × List (Bytes × Bytes)) => s.rescueRetry e) s s.jr.rescueAgain

/-- Whether a rescue program is still queued or outstanding, or a region's rescue waits. -/
def State.rescuing (s : State) : Bool := decide (s.countCmds (fun m => decide (m.why = .rescue)) ≠ 0) || !s.jr.rescueWait.isEmpty || !s.jr.rescueAgain.isEmpty

/-! ### Steps 3 and 4 -/

/-- Step 4: every link is told to park its bridge with PARK MODE 0; those that are ACTIVE are PARKED (R131, R162, R167). -/
def State.parkLinks (s : State) : State :=
  foldS (fun (s : State) (e : Nat × Link) =>
    if e.2.st = .disabled ∨ e.2.st = .absent ∨ e.2.st = .down then s
    else
      let s := s.sendCtl e.1 cPARK 0
      if e.2.st = .active then s.putLink e.1 { s.link e.1 with st := .parked } else s) s s.links

/-- The steps of R131 have ended, and their cause takes its course: SHUTDOWN is done (R28), a device reset follows (R445); after
POWER_FAIL# the device waits for its return (R133). -/
def State.holdOver (s : State) : State :=
  match s.jr.holdFor with
  | .shutdown => { s with hq := { s.hq with shutdownDone := true } }
  | .reset => s.deviceReset.timeZero
  | .chip => s
  | .powerFail => s

/-- The journal is flushed with a HOLDUP entry (step 3 of R131, R484); before the map is loaded there is none to flush. -/
def State.holdFlush (s : State) : State :=
  if s.jr.recovered = false then s
  else ({ s with jr := { s.jr with lastHoldup := s.jr.holdAt } }.journal 0 false (.holdup s.jr.holdAt s.jr.rescued)).flushJournal

/-- Whether a copy of the journal has all that is being written, or can take no more of it. -/
def State.copyOver (s : State) (b : Bool) : Bool :=
  let (p, x) := s.jcopy b
  decide (s.countCmds (fun m => match m.why with | .journal _ c => decide (c = b) | _ => false) = 0) &&
  ((decide (s.jr.flying.length ≤ Config.journalPage * x.issued) && x.again.isEmpty) || x.band.isNone || !s.copyReady p)

/-- Whether both copies have ended. -/
def State.flushOver (s : State) : Bool := s.jr.flying.isEmpty || (s.copyOver false && s.copyOver true)

/-- What is being written is persisted, where at least one copy has it whole (R128). -/
def State.persistAll (s : State) : State :=
  let whole := fun (b : Bool) => decide (s.jr.flying.length ≤ Config.journalPage * (s.jcopy b).2.issued) && (s.jcopy b).2.again.isEmpty
  if whole false || whole true then s.persist s.jr.flying.length else s

/-- Park, and the steps are complete. -/
def State.holdPark (s : State) : State :=
  ({ s with jr := { s.jr with acts := [], holdStep := 5 } }).parkLinks.holdOver

/-- Step 4 of this model's count: a SHUTDOWN checkpoints the map, with CLEAN set, before the links are parked (R28, R129, assumption
58); anything that replaces the SHUTDOWN gives it up (R133). -/
def State.holdCkpt (s : State) : State :=
  if s.jr.holdStep ≠ 4 then s
  else if s.jr.holdFor ≠ .shutdown then s.holdPark
  else
    let s := match s.jr.ckptRun with
      | some (start, clean) =>
        if s.jr.ckptBands.any (fun k => (s.bandAt k).taken) then s
        else if s.jr.ckptBands = [] then { s with jr := { s.jr with ckptRun := none } }
        else (s.writeCheckpoint start clean).flushJournal
      | none => s.pumpJournal
    if s.jr.ckptRun.isSome = true ∨ s.flushOver = false then s
    else
      let s := s.persistAll
      let named := s.jr.acts.any (fun a => decide (a.2 = JAct.anchor s.jr.ckptNum)) && s.jr.flying.isEmpty
      (if named then s.writeAnchor s.jr.ckptNum else s).holdPark

/-- Carry the steps of R131 on as far as they go now: the rescue, the flush, a SHUTDOWN's checkpoint, and the links are parked. -/
def State.holdGo (s : State) : State :=
  let s := if s.jr.holdStep = 2 then s.rescuePump else s
  let s := if s.jr.holdStep = 2 ∧ s.rescuing = false then ({ s with jr := { s.jr with holdStep := 3 } }).holdFlush
    else if s.jr.holdStep = 3 then s.pumpJournal else s
  let s := if s.jr.holdStep ≠ 3 ∨ s.flushOver = false then s
    else
      let s := s.persistAll
      if s.jr.holdFor = .shutdown ∧ s.jr.recovered = true then
        ({ s with jr := { s.jr with ckptRun := some (s.jr.jseq + 1, true), holdStep := 4 } }).takeCkptBands
      else s.holdPark
  s.holdCkpt

/-- Whether P2 has left nothing of the steps to be done (R484, R485). -/
def State.asleep (s : State) : Bool := decide (s.pw.st = .p2 ∨ s.pw.st = .p3)

/-- Begin the steps of R131 for a cause; POWER_FAIL# replaces a SHUTDOWN under way (R133), and a reset follows whatever
runs (R445). With nothing to rescue every step runs at once; in P2 and P3 step 1 completes them (R485). Links in STANDBY
are woken for the rescue (R485). -/
def State.holdup (s : State) (why : HoldFor) : State :=
  if s.jr.holdStep ≠ 0 then
    (if why = .reset ∨ (why = .powerFail ∧ (s.jr.holdFor = .shutdown ∨ (s.jr.holdStep = 5 ∧ s.jr.holdFor ≠ .chip))) then
      ({ s with jr := { s.jr with holdFor := why } }).holdCkpt else s)
  else
    let low := s.asleep
    let s := s.holdStop (decide (why = .powerFail))
    let n := (List.range 8).foldl (fun n p => n + s.rescueGrains p) 0
    let held := if s.jr.recovered then s.staged else s.jr.rescue
    let s := { s with jr := { s.jr with holdStep := 2, holdFor := why, holdAt := if why = .powerFail then s.now - 1000 else s.now, rescued := n, rescueWait := [], rescueAgain := [], rescue := held }, staged := [] }
    if low then ({ s with jr := { s.jr with holdStep := 5, acts := [] } }).holdOver
    else
      let s := if s.jr.recovered then (List.range 8).foldl (fun (s : State) p => s.rescueRegion p held) s else s
      let s := foldS (fun (s : State) (e : Nat × Link) => if e.2.st = .standby then s.sendWake e.1 else s) s s.links
      s.holdGo

/-- A program or a first-row read has ended: what waits for it goes on (R131, R484). -/
def State.rescueDone (s : State) : State := if s.jr.holdStep = 0 then s.rescuePump else s.holdGo

end Sys2Proof.Machine
end

