-- ==== Sys2Proof/Machine/Dict.lean ====
section
/-! DEFINITION. The object dictionary (R463 to R467, R480) with its persistence (R458 to R462), DICT, and the field
network's frames (R469 to R481). -/

namespace Sys2Proof.Machine

/-! ### The entry listing (R480) -/

/-- The range of an entry's value. -/
inductive DRange where
  | any
  | between (lo hi : Nat)
  | among (l : List Nat)
  | each (w lo hi : Nat)
deriving DecidableEq, Repr

/-- Persistence classes (R466). -/
inductive PClass where
  | p | b | v
deriving DecidableEq, Repr

/-- A dictionary entry: number, bytes, range, default, lowest roles that may read and write (4 is none), class. Roles are
0 observer, 1 operator, 2 custodian, 3 factory (R465). -/
structure DEntry where
  num : Nat
  size : Nat
  range : DRange := .any
  dflt : Nat := 0
  rd : Nat := 0
  wr : Nat := 4
  cls : PClass := .v
deriving DecidableEq, Repr

/-- A read-only volatile entry that every role may read. -/
def roEntry (num size : Nat) : DEntry := { num := num, size := size }
/-- A persistent number that the custodian writes. -/
def cfgEntry (num size lo hi dflt : Nat) : DEntry :=
  { num := num, size := size, range := .between lo hi, dflt := dflt, wr := 2, cls := .p }
/-- The same, in force from the next device reset. -/
def bootEntry (num size : Nat) (range : DRange) (dflt : Nat) : DEntry :=
  { num := num, size := size, range := range, dflt := dflt, wr := 2, cls := .b }

def entries00to02 : List DEntry := [
  roEntry 0x000001 4, roEntry 0x000002 64, roEntry 0x000006 6, roEntry 0x000010 4,
  cfgEntry 0x010001 1 0 16 0, roEntry 0x010002 8, { roEntry 0x010003 1 with range := .between 0 2 }, roEntry 0x010004 4,
  roEntry 0x010005 4, bootEntry 0x010010 1 (.between 0 1) 0, bootEntry 0x010020 2 (.among [4800, 5600, 6400]) 6400,
  cfgEntry 0x010021 2 1 168 24, cfgEntry 0x010022 1 1 255 32, cfgEntry 0x010023 1 2 64 8,
  cfgEntry 0x020010 1 1 255 16, cfgEntry 0x020011 1 1 255 4, cfgEntry 0x020012 1 1 255 1, cfgEntry 0x020020 2 0 10000 500]

def entries03 : List DEntry := [
  bootEntry 0x030001 2 (.among [64, 128, 192, 256, 320, 384, 448, 512]) 128, bootEntry 0x030002 512 (.each 1 0 1) 0,
  cfgEntry 0x030010 4 60 86400 600, cfgEntry 0x030011 2 8 1024 64, cfgEntry 0x030012 1 1 15 3,
  cfgEntry 0x030013 4 10000 1000000 200000, cfgEntry 0x030014 2 30 3650 180, cfgEntry 0x030015 2 50 5000 200,
  { num := 0x030016, size := 8, wr := 1 }, roEntry 0x030017 8,
  { num := 0x030020, size := 24, wr := 3, cls := .p }, { num := 0x030021, size := 24, wr := 3, cls := .p }]

def entries04 : List DEntry := [
  roEntry 0x040001 4, cfgEntry 0x040002 4 0 1862645 0, cfgEntry 0x040010 2 0 16384 1024, cfgEntry 0x040011 2 16 512 256,
  cfgEntry 0x040020 2 50 2000 200, cfgEntry 0x040030 1 10 90 40, cfgEntry 0x040040 1 8 96 64, cfgEntry 0x040041 4 500 50000 2000,
  cfgEntry 0x040042 1 1 16 4, cfgEntry 0x040043 2 10 600 60, cfgEntry 0x040050 2 10 3600 60]

def entries05to06 : List DEntry := [
  cfgEntry 0x050001 1 1 64 16, cfgEntry 0x050002 2 64 16384 1024, cfgEntry 0x050003 4 256 65536 4096, cfgEntry 0x050010 1 3 8 7,
  cfgEntry 0x050011 4 10 100000 1000, { num := 0x050020, size := 2048, range := .each 2 0 256, wr := 2 },
  { cfgEntry 0x050030 4 0 100000 2000 with wr := 1 }, { cfgEntry 0x050031 1 0 1 0 with wr := 1 },
  bootEntry 0x050040 4 (.among [65536, 131072, 262144, 524288, 1048576, 2097152, 4194304, 8388608, 16777216]) 1048576,
  cfgEntry 0x050050 4 100 1000000 1000, cfgEntry 0x050060 2 1 3600 16, cfgEntry 0x050061 1 1 255 16,
  { num := 0x050070, size := 65, range := .each 1 0 2, dflt := 1, wr := 2, cls := .p },
  { num := 0x060040, size := 1, range := .among [8, 16, 32], dflt := 16, wr := 2, cls := .p }]

def entries07to0F : List DEntry := [
  roEntry 0x070001 4, roEntry 0x070002 4, roEntry 0x070003 4,
  { cfgEntry 0x070010 4 10 10000 50 with wr := 1 }, { cfgEntry 0x070011 4 1000 10000000 20000 with wr := 1 },
  { cfgEntry 0x070012 4 100000 3600000000 2000000 with wr := 1 }, cfgEntry 0x070030 4 1000 20000 3000,
  roEntry 0x080010 8, roEntry 0x080011 8, roEntry 0x080012 8, roEntry 0x080013 8, roEntry 0x080014 8, roEntry 0x080015 8,
  roEntry 0x080016 8, roEntry 0x080050 32768,
  { num := 0x090010, size := 32, rd := 4, wr := 2, cls := .p }, { num := 0x090011, size := 32, rd := 4, wr := 2, cls := .p },
  bootEntry 0x0A0001 1 (.among (List.range 32 ++ [255])) 255, bootEntry 0x0A0002 1 (.between 1 32) 8, bootEntry 0x0A0003 1 (.between 0 3) 0,
  roEntry 0x0A0005 8, { num := 0x0A0010, size := 6, dflt := 0xFFFFFFFFFFFF, wr := 2, cls := .p },
  { num := 0x0F0010, size := 0, rd := 4, wr := 3 }, { roEntry 0x0F0011 1 with rd := 3, range := .between 0 1 }]

/-- Every entry of the dictionary. -/
def entries : List DEntry := entries00to02 ++ entries03 ++ entries04 ++ entries05to06 ++ entries07to0F

def entry? (n : Nat) : Option DEntry := entries.find? (fun x => decide (x.num = n))

/-- Every element of a table of `w`-byte fields lies in a range. -/
def eachIn (w lo hi : Nat) : Nat → Bytes → Bool
  | 0, _ => true
  | _, [] => true
  | fuel + 1, b@(_ :: _) => let v := leNat (b.take w); decide (lo ≤ v ∧ v ≤ hi) && eachIn w lo hi fuel (b.drop w)

/-- Whether a value lies in an entry's range (R467 step 5). -/
def DRange.holds (r : DRange) (b : Bytes) : Bool :=
  match r with
  | .any => true
  | .between lo hi => decide (lo ≤ leNat b ∧ leNat b ≤ hi)
  | .among l => l.contains (leNat b)
  | .each w lo hi => eachIn w lo hi b.length b

/-- The default value of an entry; the sleep modes default each to 1. -/
def DEntry.dfltBytes (x : DEntry) : Bytes :=
  match x.range with
  | .each w _ _ => (List.range (x.size / w)).flatMap (fun _ => natLe w x.dflt)
  | _ => natLe x.size x.dflt

/-- Exit latencies of P1, P2 and P3 in ns (R482). -/
def exitLatency (n : Nat) : Nat := if n = 1 then 2000 else if n = 2 then 150000 else 4000000

/-! ### Configuration copies (R458, R459) -/

/-- An entry record: number, length, value padded to a 4-byte boundary. -/
def recordBytes (e : Nat × Bytes) : Bytes :=
  natLe 4 e.1 ++ natLe 2 e.2.length ++ natLe 2 0 ++ e.2 ++ List.replicate ((4 - e.2.length % 4) % 4) 0

/-- A section: its header, then its entry records. -/
def sectionBytes (mode : Nat) (name : Bytes) (l : SMap Bytes) : Bytes :=
  let r := l.flatMap recordBytes
  natLe 1 mode ++ natLe 3 0 ++ slice name 0 8 ++ natLe 4 r.length ++ r

/-- A configuration copy: the header with its CRC, the base section, the overlay sections. -/
def copyBytes (seq : Nat) (base : SMap Bytes) (names : SMap Bytes) (overlays : SMap (SMap Bytes)) : Bytes :=
  let body := sectionBytes 0 [] base ++ overlays.flatMap (fun (e : Nat × SMap Bytes) => sectionBytes e.1 (mget [] names e.1) e.2)
  let head := natLe 4 0x43464731 ++ [1, 0, BitVec.ofNat 8 overlays.length, 0] ++ natLe 8 seq ++ natLe 4 (64 + body.length)
  let rest := List.replicate 40 0 ++ body
  head ++ natLe 4 (crc32c (head ++ rest)).toNat ++ rest

/-- SEQ of a copy. -/
def copySeq (b : Bytes) : Nat := fieldLe b 8 8

/-- Whether MAGIC, REV, LENGTH and CRC of a copy are valid (R459). -/
def copyValid (b : Bytes) : Bool :=
  let n := fieldLe b 16 4
  decide (fieldLe b 0 4 = 0x43464731 ∧ fieldLe b 4 2 = 1 ∧ 64 ≤ n ∧ n ≤ 2097152 ∧ n ≤ b.length) &&
    decide (fieldLe b 20 4 = (crc32c (b.take 20 ++ slice b 24 (n - 24))).toNat)

/-- The entry records of a section. -/
def parseRecords : Nat → Bytes → List (Nat × Bytes)
  | 0, _ => []
  | fuel + 1, b =>
    if b.length < 8 then []
    else
      let n := fieldLe b 4 2
      (fieldLe b 0 4, slice b 8 n) :: parseRecords fuel (b.drop (8 + (n + 3) / 4 * 4))

/-- The sections of a copy: mode, name, records. -/
def parseSections : Nat → Bytes → List (Nat × Bytes × List (Nat × Bytes))
  | 0, _ => []
  | fuel + 1, b =>
    if b.length < 16 then []
    else
      let n := fieldLe b 12 4
      (fieldLe b 0 1, slice b 4 8, parseRecords (n / 8 + 1) (slice b 16 n)) :: parseSections fuel (b.drop (16 + n))

/-- SEQ of the copy in force. -/
def Dict.seq (d : Dict) : Nat := if d.inForce = 0 then copySeq d.copyA else if d.inForce = 1 then copySeq d.copyB else 0

/-! ### Values (R460 to R466) -/

/-- The 32 bytes of a health event (R438). -/
def HEvent.bytes (e : HEvent) : Bytes :=
  natLe 4 e.number ++ natLe 2 e.kind ++ natLe 1 e.level ++ natLe 1 0 ++ natLe 8 e.time ++
    natLe 4 (e.region % 256 + 256 * (e.tile % 256) + 65536 * (e.link % 1024)) ++ natLe 8 e.arg.toNat ++ natLe 4 e.arg2.toNat

/-- The value an entry reads: one that waits for the next reset, the one in force, what the device computes, or the
default. -/
def State.entryValue (s : State) (x : DEntry) : Bytes :=
  let n := x.num
  if n = 0x000001 then natLe 4 0x00B00512
  else if n = 0x000002 then padTo 64 (s.dict.serial.take 64)
  else if n = 0x000006 then slice s.dict.mac 0 6
  else if n = 0x000010 then natLe 4 s.hq.idReady.toNat
  else if n = 0x010002 then natLe 8 s.dict.seq
  else if n = 0x010003 then natLe 1 s.dict.inForce
  else if n = 0x010004 then natLe 4 s.dict.skipped
  else if n = 0x010005 then natLe 4 s.stew.version.toNat
  else if n = 0x030016 then natLe 8 (s.wallNow.getD 0)
  else if n = 0x030017 then natLe 8 s.ageNow
  else if n = 0x040001 then natLe 4 s.st.exported
  else if 0x070001 ≤ n ∧ n ≤ 0x070003 then natLe 4 (exitLatency (n - 0x070000))
  else if 0x080010 ≤ n ∧ n ≤ 0x080016 then natLe 8 (mget 0 s.health.rung (n - 0x080010))
  else if n = 0x080050 then padTo 32768 (s.health.events.flatMap HEvent.bytes)
  else if n = 0x0A0005 then natLe 8 s.dict.nonce.toNat
  else if n = 0x0F0011 then natLe 1 s.stew.slotImg
  else match s.dict.atReset.find? (fun e => decide (e.1 = n)) with
    | some (_, b) => b
    | none => match s.dict.vals.find? (fun e => decide (e.1 = n)) with
      | some (_, b) => b
      | none => x.dfltBytes

/-- The number of the overlay in force. -/
def State.overlayNo (s : State) : Nat := s.param 0x010001 0

/-- The saved value of an entry under overlay `o` (R461). -/
def Dict.saved (d : Dict) (o n : Nat) : Option Bytes :=
  match (mget [] d.overlays o).find? (fun e => decide (e.1 = n)) with
  | some (_, b) => if o = 0 then (d.base.find? (fun e => decide (e.1 = n))).map (·.2) else some b
  | none => (d.base.find? (fun e => decide (e.1 = n))).map (·.2)

/-- Put a value into the section that holds the entry (R461). -/
def Dict.save (d : Dict) (o n : Nat) (b : Bytes) : Dict :=
  let l := mget [] d.overlays o
  if o ≠ 0 ∧ l.any (fun e => decide (e.1 = n)) = true then { d with overlays := mset [] d.overlays o (mset [] l n b) }
  else { d with base := mset [] d.base n b }

/-- Entries whose saved value is a wrapped key state (R473). -/
def keyEntry (n : Nat) : Bool := decide (n = 0x090010 ∨ n = 0x090011)

/-- Bring a saved value of an entry in force, or remove it: class P at once, class B for the next reset (R462, R466). -/
def Dict.enforce (d : Dict) (o : Nat) (x : DEntry) : Dict :=
  if keyEntry x.num ∨ x.num = 0x010001 then d
  else
    let v := (d.saved o x.num).getD []
    match x.cls with
    | .p => { d with vals := mset [] d.vals x.num v }
    | .b => { d with atReset := mset [] d.atReset x.num (if v = [] then x.dfltBytes else v) }
    | .v => d

/-- A new overlay takes effect: every entry that differs between the old and the new mode changes (R462). -/
def State.setOverlay (s : State) (o : Nat) : State :=
  let d := { s.dict with vals := mset [] s.dict.vals 0x010001 (natLe 1 o) }
  let d := d.save 0 0x010001 (natLe 1 o)
  { s with dict := entries.foldl (fun d x => if d.saved o x.num = s.dict.saved s.overlayNo x.num then d else d.enforce o x) d }

/-- Load an HMAC slot of the field network from its key states (R368, R473). -/
def State.loadRoleKey (s : State) (slot : Nat) (inner outer : List Word) : State :=
  let x := s.hslot slot
  s.setHslot slot { cur := some { num := x.gens + 1, inner := inner, outer := outer }, gens := x.gens + 1 }

/-- The words of a saved key state. -/
def wordsOf (b : Bytes) : List Word := (chunks 4 (b.length + 1) b).map (fun w => BitVec.ofNat 32 (leNat w))

/-- THRESH of every tile follows dictionary entry 0x05_0061 (R319): what a change of settings did to it. -/
def State.followThresh (s : State) (old : Nat) : State :=
  let v := s.param 0x050061 16
  if v = old then s
  else foldS (fun (s : State) (t : Nat) => s.setTile t { s.tile t with thresh := BitVec.ofNat 8 v }) s (List.range 64)

/-- Window sizes written (R231, R412): a window whose size changes is zeroed. -/
def State.writeWindows (s : State) (b : Bytes) : State :=
  let old := match s.dict.vals.find? (fun x => decide (x.1 = 0x050020)) with | some (_, v) => v | none => []
  let same := fun (k : Nat) => decide (fieldLe old (2 * k) 2 = fieldLe b (2 * k) 2)
  State.trimCache { s with
    ld := { s.ld with wins := s.ld.wins.filter (fun e => same e.1), unsettled := s.ld.unsettled.filter (fun u => same u.win) }
    dict := { s.dict with vals := mset [] s.dict.vals 0x050020 b } }

/-- No time is credited for this start (R186): health event 0x73. -/
def State.noCredit (s : State) : State :=
  ({ s with stew := { s.stew with wallUsed := true } }).health! 0x73 7 noRegion 0xFF noLink (BitVec.ofNat 64 s.stew.ageClock) 0

/-- A write of the wall time: the first after a start credits the unpowered time to the age clock (R186). -/
def State.writeWall (s : State) (v : Nat) : State :=
  let s := { s with dict := { s.dict with wallAt := some (v, s.now) } }
  if s.stew.wallUsed then s
  else match s.stew.wallSaved with
    | none => s.noCredit
    | some w =>
      let credit := v - w - (s.now - s.stew.time0) / 1000000000
      { s with stew := { s.stew with wallUsed := true, ageClock := s.stew.ageClock + credit } }

/-! ### Access (R463 to R467, R477) -/

abbrev DStatus := Nat
def dOK : DStatus := 0
def dUNKNOWN : DStatus := 1
def dLENGTH : DStatus := 2
def dFORMAT : DStatus := 3
def dAUTH : DStatus := 4
def dREPLAY : DStatus := 5
def dDENIED : DStatus := 6
def dRANGE : DStatus := 7
def dSIZE : DStatus := 8
def dSEQUENCE : DStatus := 9
def dNOTREADY : DStatus := 10

/-- Whether an entry exists for a role now: area 0x0F exists for the factory role and in the recovery service (R480). -/
def State.entryFor (s : State) (role n : Nat) : Option DEntry :=
  match entry? n with
  | some x => if n / 65536 = 0x0F ∧ role ≠ 3 ∧ s.stew.boot ≠ .recovery then none else some x
  | none => none

/-- Whether an entry is served now (R451, R477). -/
def State.served (s : State) (n : Nat) : Bool :=
  if s.stew.boot = .recovery then decide (n / 65536 = 0 ∨ n = 0x0F0010 ∨ n = 0x0F0011)
  else decide ((n / 65536 ≠ 4 ∧ n / 65536 ≠ 8) ∨ bit s.hq.idReady 3 = true)

/-- Steps 1 to 3 of R467, for a read or a write. -/
def State.accessStatus (s : State) (role n : Nat) (write : Bool) : DStatus × Option DEntry :=
  match s.entryFor role n with
  | none => (dUNKNOWN, none)
  | some x =>
    let right := if write then x.wr else x.rd
    if right = 4 ∨ role < right then (dDENIED, none)
    else if s.served n = false then (dNOTREADY, none) else (dOK, some x)

/-- Step 4 for a written value of `len` bytes. -/
def DEntry.sizeOk (x : DEntry) (len : Nat) : Bool :=
  if x.num = 0x0F0010 then decide (64 ≤ len ∧ len ≤ 4194304) else decide (len = x.size)

/-- Step 5, with the refusals of R231 and R412 for window sizes. -/
def State.rangeOk (s : State) (x : DEntry) (b : Bytes) : Bool :=
  x.range.holds b && (if x.num = 0x050020 then
      decide (windowPages b = 0) || (s.hq.dramPresent && decide (windowPages b + s.devicePages ≤ s.dramPages))
    else true)

/-- What a written value does at once; persistent classes are then saved. The boot image is apart. -/
def State.putEntry (s : State) (x : DEntry) (b : Bytes) : State :=
  if x.num = 0x010001 then s.setOverlay (leNat b)
  else if x.num = 0x050020 then s.writeWindows b
  else if x.num = 0x030016 then s.writeWall (leNat b)
  else if keyEntry x.num then
    let st := hmacStates b
    let s := s.loadRoleKey (if x.num = 0x090010 then 254 else 255) st.1 st.2
    { s with dict := s.dict.save s.overlayNo x.num ((st.1 ++ st.2).flatMap (fun w => natLe 4 w.toNat)) }
  else
    let d := s.dict.save s.overlayNo x.num b
    match x.cls with
    | .p => ({ s with dict := { d with vals := mset [] d.vals x.num b } })
    | .b => ({ s with dict := { d with atReset := mset [] d.atReset x.num b } })
    | .v => s

/-- A written value with what follows it on the tiles (R319). -/
def State.applyEntry (s : State) (x : DEntry) (b : Bytes) : State := (s.putEntry x b).followThresh (s.param 0x050061 16)

/-- A writer joins the save under way's successor, or starts one, which erases the copy that is not in force (R460). -/
def Dict.startSave (d : Dict) (l : List Saver) : Dict :=
  if d.inForce = 0 then { d with saving := some l, copyB := [] } else { d with saving := some l, copyA := [] }
def State.askSave (s : State) (w : Saver) : State :=
  match s.dict.saving with
  | none => { s with dict := s.dict.startSave [w] }
  | some _ => { s with dict := { s.dict with nextSave := s.dict.nextSave ++ [w] } }

/-- After a change of settings: the retirement rule and whatever waited go on. -/
def State.settle (s : State) : State := ((s.poolChanged).pump true).pumpRuns true

/-! ### DICT (R83, R467, R477) -/

/-- In-band DICT maps DENIED to NOT_PERMITTED and every other status to INVALID_FIELD (R477). -/
def dictCode (st : DStatus) : Option Code :=
  if st = dOK then none else if st = dDENIED then some 0x13 else some 0x11

/-- DICT_READ: SUBOP 0, with the custodian role. -/
def execDictRead (q tag : Nat) (w : HostWrite) (cqOk : Bool) (s : State) : Answer := answering cqOk s fun s =>
  .next (s.startCmd q tag (fun e => decide (Sqe.opcode e = 0x8A ∧ Sqe.subop e = 0))
    (fun e _ => if (flagsOk e && dptrOk e) = false then some 0x11 else dictCode (s.accessStatus 2 (Sqe.field e 40 4) false).1) true
    (fun e _ => match s.accessStatus 2 (Sqe.field e 40 4) false with
      | (_, some x) => s.giveData q tag e (s.entryValue x) w
      | (st, none) => s.refuse q tag ((dictCode st).getD 0x11)))

/-- DICT_WRITE: SUBOP 1. A write of a persistent entry completes when its save is done (R460). -/
def execDictWrite (q tag : Nat) (value : HostRead) (cqOk : Bool) (s : State) : Answer := answering cqOk s fun s =>
  match s.op q tag with
  | none => .next s
  | some o =>
    if o.checked then .next s
    else .next (s.startCmd q tag (fun e => decide (Sqe.opcode e = 0x8A ∧ Sqe.subop e = 1))
      (fun e _ =>
        if (flagsOk e && dptrOk e) = false then some 0x11
        else match s.accessStatus 2 (Sqe.field e 40 4) true with
          | (_, some x) => if x.sizeOk (Sqe.length e) then none else some 0x11
          | (st, none) => dictCode st) true
      (fun e o =>
        let s := s.dmaRead q tag
        match value, s.accessStatus 2 (Sqe.field e 40 4) true with
        | .fault a, _ => s.fail true q tag 0x42 a 0
        | .ok b, (_, some x) =>
          let b := slice b 0 (Sqe.length e)
          if s.rangeOk x b = false then s.refuse q tag 0x11
          else
            let s := ((s.setOp q tag (some { o with checked := true })).applyEntry x b).settle
            if x.cls = .v then s.succeed q tag 0x00 0 else s.askSave (.cmd q tag)
        | .ok _, (st, none) => s.refuse q tag ((dictCode st).getD 0x11)))

/-! ### KDP frames (R469 to R475) -/

/-- The device's MAC address (R468), as the 6 bytes of a frame's header. -/
def State.macBytes (s : State) : Bytes := slice s.dict.mac 0 6
/-- An Ethernet frame of EtherType 0x88B5, its header fields in network order: destination, source, type, client data (R469, R470). -/
def ethFrame (dst src client : Bytes) : Bytes := slice dst 0 6 ++ slice src 0 6 ++ [0x88, 0xB5] ++ client
/-- The source of a frame, its EtherType and its client data. -/
def ethSrc (f : Bytes) : Bytes := slice f 6 6
def ethType (f : Bytes) : Bytes := slice f 12 2
def ethClient (f : Bytes) : Bytes := f.drop 14

/-- Header fields. -/
def kOp (h : Bytes) : Nat := byteNat h 1
def kRole (h : Bytes) : Nat := byteNat h 2 % 4
def kXid (h : Bytes) : Nat := fieldLe h 4 4
def kEntry (h : Bytes) : Nat := fieldLe h 8 3
def kOffset (h : Bytes) : Nat := fieldLe h 12 4
def kLen (h : Bytes) : Nat := fieldLe h 16 2
def kFirst (h : Bytes) : Bool := decide (byteNat h 18 % 2 = 1)
def kLast (h : Bytes) : Bool := decide (byteNat h 18 / 2 % 2 = 1)
def kCounter (h : Bytes) : Nat := fieldLe h 20 8

/-- The length rule of R471. -/
def kdpLengthOk (c : Bytes) : Bool :=
  let d := 32 + kLen c + (if kRole c = 0 then 0 else 16)
  if d < 46 then decide (c.length = 46) && (c.drop d).all (fun x => decide (x = 0)) else decide (c.length = d)

/-- VER, OP and the reserved fields (R470, R471). -/
def kdpFormatOk (c : Bytes) : Bool :=
  let op := kOp c
  decide (byteNat c 0 = 1 ∧ 1 ≤ op ∧ op ≤ 4 ∧ byteNat c 2 / 4 = 0 ∧ byteNat c 3 = 0 ∧ byteNat c 11 = 0 ∧ kLen c ≤ 1024 ∧
    byteNat c 18 / 4 = 0 ∧ byteNat c 19 = 0 ∧ fieldLe c 28 4 = 0) &&
  decide (3 ≤ op ∨ kOffset c = 0) && decide (op = 4 ∨ byteNat c 18 = 0)

/-- The tag under a role's key, none where the role has no key (R472). -/
def State.roleTag (s : State) (role : Nat) (b : Bytes) : Option Bytes :=
  let m := natLe 8 s.dict.nonce.toNat ++ b
  if role = 3 then (if s.dict.factoryKey = [] then none else some ((hmac s.dict.factoryKey m).take 16))
  else match (s.hslot (253 + role)).cur with
    | some g => some ((hmacWith g.inner g.outer m).take 16)
    | none => none

/-- The response to a request: the header with OP + 0x80, STATUS and LEN, the payload, and the tag of R475. -/
def State.kdpFrame (s : State) (h : Bytes) (st : DStatus) (payload : Bytes) : Bytes :=
  let hd := [byteAt h 0, BitVec.ofNat 8 (kOp h + 128), byteAt h 2, BitVec.ofNat 8 st] ++ slice h 4 12 ++ natLe 2 payload.length ++ slice h 18 14
  let b := hd ++ payload
  let tag := if kRole h = 0 ∨ st = dLENGTH ∨ st = dFORMAT ∨ st = dAUTH then [] else (s.roleTag (kRole h) b).getD []
  let f := b ++ tag
  f ++ List.replicate (46 - f.length) 0

def State.role (s : State) (r : Nat) : Role := mget {} s.dict.roles r
def State.setRole (s : State) (r : Nat) (x : Role) : State := { s with dict := { s.dict with roles := mset {} s.dict.roles r x } }

/-- Send a response to `peer`; the last response of an authenticated role is kept (R474). -/
def State.kdpAnswer (s : State) (port : Nat) (peer h : Bytes) (st : DStatus) (payload : Bytes) (keep : Bool) : State :=
  let f := ethFrame peer s.macBytes (s.kdpFrame h st payload)
  let s := if keep && decide (kRole h ≠ 0) then s.setRole (kRole h) { s.role (kRole h) with lastResp := f } else s
  s.emit (.kdp port f)

/-- What the tag and the counter make of a request (R472, R474): an answer without effect, the last response again, or
accepted. -/
inductive Accept where
  | answer (st : DStatus)
  | again
  | go
deriving DecidableEq, Repr

def State.kdpAccept (s : State) (c : Bytes) : Accept :=
  let role := kRole c
  if role = 0 then (if kOp c = 1 ∨ kOp c = 3 then .go else .answer dDENIED)
  else
    let n := 32 + kLen c
    match s.roleTag role (c.take n) with
    | none => .answer dAUTH
    | some t =>
      if slice c n 16 ≠ t then .answer dAUTH
      else
        let r := s.role role
        match r.lastXid with
        | none => .go
        | some x =>
          if r.counter < kCounter c then .go
          else if kCounter c = r.counter ∧ kXid c = x then .again
          else .answer dREPLAY

/-- A frame that reaches a port (R469 to R475): with the device's own address and EtherType 0x88B5 it starts an exit to P0, raises
source 0x90E, and is answered or carried out; every other is dropped. A row of one operation leaves frames of the other operations alone; a frame that no operation fits is answered by any
of the rows. -/
def State.kdpRequest (s : State) (op port : Nat) (frame : Bytes) (run : State → Bytes → Bytes → State) : Answer :=
  let c := ethClient frame
  let peer := ethSrc frame
  let mine := decide (frame.take 6 = s.macBytes ∧ ethType frame = [0x88, 0xB5])
  let other := decide (1 ≤ kOp c ∧ kOp c ≤ 4 ∧ kOp c ≠ op)
  let up := decide (s.stew.boot = .firmware ∨ s.stew.boot = .recovery)
  if 2 ≤ port ∨ up = false ∨ mine = false ∨ other = true ∨ s.param 0x0A0003 0 / 2 ^ port % 2 = 1 then .next s
  else
    let s := (s.wakeUp).raise 0x90E
    if kdpLengthOk c = false then .next (s.kdpAnswer port peer c dLENGTH [] false)
    else if kOp c = 5 then .next s
    else if kdpFormatOk c = false then .next (s.kdpAnswer port peer c dFORMAT [] false)
    else match s.kdpAccept c with
      | .answer st => .next (s.kdpAnswer port peer c st [] false)
      | .again =>
        let r := (s.role (kRole c)).lastResp
        .next (if r = [] then s else s.emit (.kdp port r))
      | .go =>
        let s := if kRole c = 0 then s
          else s.setRole (kRole c) { s.role (kRole c) with counter := kCounter c, lastXid := some (kXid c), lastResp := [] }
        .next (run s peer c)

/-! ### PLCA (R468) -/

/-- The PLCA node ID of both ports: the strap, unless entry 0x0A_0001 holds a value of 0 to 31. -/
def State.plcaNode (s : State) : Nat :=
  let v := s.param 0x0A0001 255
  if v ≤ 31 then v else s.stew.nodeId.toNat
/-- The device is the coordinator of a segment when its node ID is 0. -/
def State.plcaCoordinator (s : State) : Bool := decide (s.plcaNode = 0)
/-- The node count a coordinator uses; it sends a beacon in each cycle. -/
def State.plcaNodes (s : State) : Nat := s.param 0x0A0002 8
/-- The transmit opportunity timer, in bit times, and the burst count. -/
def plcaTimer : Nat := 32
def plcaBurst : Nat := 0

/-! ### Operations (R476 to R481) -/

/-- KDP_READ. -/
def execKdpRead (port : Nat) (frame : Bytes) (s : State) : Answer :=
  s.kdpRequest 1 port frame (fun s peer c =>
    match s.accessStatus (kRole c) (kEntry c) false with
    | (_, some x) =>
      let v := s.entryValue x
      if kLen c ≠ 0 ∨ 1024 < v.length then s.kdpAnswer port peer c dSIZE [] true else s.kdpAnswer port peer c dOK v true
    | (st, none) => s.kdpAnswer port peer c st [] true)

/-- KDP_BREAD: LEN bytes of the value from OFFSET (R476); the request's own LEN payload bytes (R470, R471) are not looked at
(assumption 79). -/
def execKdpBread (port : Nat) (frame : Bytes) (s : State) : Answer :=
  s.kdpRequest 3 port frame (fun s peer c =>
    match s.accessStatus (kRole c) (kEntry c) false with
    | (_, some x) =>
      let v := s.entryValue x
      if v.length < kOffset c + kLen c then s.kdpAnswer port peer c dRANGE [] true
      else s.kdpAnswer port peer c dOK (slice v (kOffset c) (kLen c)) true
    | (st, none) => s.kdpAnswer port peer c st [] true)

/-- A completed field-network write of an entry that the custodian or a lower role may write sets CONFIG (R478). -/
def State.kdpWrote (s : State) (n : Nat) : State :=
  match entry? n with
  | some x => if x.wr ≤ 2 then s.cuSet 16 else s
  | none => s

/-- The boot image write (R450, R481): the slot not booted from is erased, programmed and read back. -/
def State.writeImage (s : State) (b : Bytes) (ok : Bool) : Bool × State :=
  let slot := 1 - s.stew.image % 2
  let good := if slot = 0 then (ok, s.stew.slotOk.2) else (s.stew.slotOk.1, ok)
  (ok, ({ s with stew := { s.stew with slotOk := good, slotImg := slot } }).emit (.norImage slot b))

/-- A whole value written over the field network (R467, R478, R481). -/
def State.kdpValue (s : State) (port : Nat) (peer c b : Bytes) (readBackOk : Bool) : State :=
  match s.accessStatus (kRole c) (kEntry c) true with
  | (st, none) => s.kdpAnswer port peer c st [] true
  | (_, some x) =>
    if x.sizeOk b.length = false then s.kdpAnswer port peer c dSIZE [] true
    else if s.rangeOk x b = false then s.kdpAnswer port peer c dRANGE [] true
    else if x.num = 0x0F0010 then
      let (ok, s) := s.writeImage b readBackOk
      s.kdpAnswer port peer c (if ok then dOK else dRANGE) [] true
    else
      let s := (s.applyEntry x b).settle
      if x.cls = .v then (s.kdpWrote x.num).kdpAnswer port peer c dOK [] true
      else s.askSave (.kdp port peer (c.take 32) (kRole c))

/-- KDP_WRITE. -/
def execKdpWrite (port : Nat) (frame : Bytes) (s : State) : Answer :=
  s.kdpRequest 2 port frame (fun s peer c => s.kdpValue port peer c (slice c 32 (kLen c)) true)

/-- KDP_BWRITE: parts gathered in order, each within 10 s of the last; the part with LAST writes the value (R5, R476). -/
def execKdpBwrite (port : Nat) (frame : Bytes) (readBackOk : Bool) (s : State) : Answer :=
  s.kdpRequest 4 port frame (fun s peer c =>
    let r := s.role (kRole c)
    let part := slice c 32 (kLen c)
    let before := if kFirst c then (if kOffset c = 0 then some [] else none)
      else match r.gather with
        | some g => if g.entry = kEntry c ∧ g.data.length = kOffset c ∧ s.now < g.lastAt + 10000000000 then some g.data else none
        | none => none
    match before with
    | none => (s.setRole (kRole c) { r with gather := none }).kdpAnswer port peer c dSEQUENCE [] true
    | some d =>
      let all := d ++ part
      if 4194304 < all.length then (s.setRole (kRole c) { r with gather := none }).kdpAnswer port peer c dSIZE [] true
      else if kLast c then (s.setRole (kRole c) { r with gather := none }).kdpValue port peer c all readBackOk
      else (s.setRole (kRole c) { r with gather := some { entry := kEntry c, data := all, lastAt := s.now } }).kdpAnswer port peer c dOK [] true)

/-- KDP_BWRITE_TIMEOUT: a block write not ended within 10 s of its last part is discarded (R476). -/
def execKdpBwriteTimeout (role : Nat) (s : State) : Answer :=
  let r := s.role role
  match r.gather with
  | some g => .next ((s.reach (g.lastAt + 10000000000)).setRole role { r with gather := none })
  | none => .next s

/-- Answer a writer whose save has ended (R460, R478). -/
def State.savedFor (s : State) (cqOk : Bool) (w : Saver) : State :=
  match w with
  | .cmd q tag => (match s.op q tag with
    | some o => if Sqe.opcode o.sqe = 0x8A ∧ o.checked = true then s.post cqOk q tag .success 0x00 0 o.slack false else s
    | none => s)
  | .kdp port peer h _ => (s.kdpWrote (kEntry h)).kdpAnswer port peer h dOK [] true

/-- CONFIG_SAVE_DONE: the copy that is not in force holds the sections and is in force with the next SEQ; its writers are
answered, and the writers gathered meanwhile begin the next save (R460). -/
def execConfigSaveDone (cqOk : Bool) (s : State) : Answer :=
  match s.dict.saving with
  | none => .next s
  | some ws =>
    let d := s.dict
    let copy := copyBytes (d.seq + 1) d.base d.names d.overlays
    let c := if d.inForce = 0 then 1 else 0
    let d := if c = 0 then { d with copyA := copy } else { d with copyB := copy }
    let d := { d with inForce := c, saving := none, nextSave := [] }
    let s := ({ s with dict := if s.dict.nextSave = [] then d else d.startSave s.dict.nextSave }).emit (.norCopy c copy)
    .next (foldS (fun (s : State) (w : Saver) => s.savedFor cqOk w) s ws)

/-- NOTIFY: one frame at most every 100 ms on a port, to the address in entry 0x0A_0010 (R479). -/
def execNotify (port : Nat) (s : State) : Answer :=
  let last := mget 0 s.dict.notifyAt port
  let up := decide (s.stew.boot = .firmware ∨ s.stew.boot = .recovery)
  if 2 ≤ port ∨ up = false ∨ mget false s.dict.notifyDue port = false ∨ s.param 0x0A0003 0 / 2 ^ port % 2 = 1 then .next s
  else
    let s := if last = 0 then s else s.reach (last - 1 + 100000000)
    let payload := natLe 4 (mget 0 s.dict.notifyBits port).toNat ++ natLe 4 s.health.nEvents ++ natLe 4 0
    let h : Bytes := [1, 5] ++ List.replicate 14 0 ++ natLe 2 12 ++ List.replicate 14 0
    let f := h ++ payload
    let d := s.dict
    let dest := match entry? 0x0A0010 with | some x => s.entryValue x | none => []
    let s := { s with dict := { d with
      notifyAt := mset 0 d.notifyAt port (s.now + 1)
      notifyBits := mset 0 d.notifyBits port 0
      notifyDue := mset false d.notifyDue port false } }
    .next (s.emit (.kdp port (ethFrame dest s.macBytes (f ++ List.replicate (46 - f.length) 0))))

/-! ### Start-up (R458, R459, R473) -/

/-- Whether a record of a copy is taken at start-up (R459). -/
def recordOk (n : Nat) (b : Bytes) : Bool :=
  match entry? n with
  | some x => if x.cls = .v then false else if keyEntry n then decide (b.length = 64) else x.sizeOk b.length && x.range.holds b
  | none => false

/-- Apply the configuration copy with the higher SEQ among the valid ones, or the defaults (R459, R461, R462). -/
def State.loadConfig (s : State) : State :=
  let d := s.dict
  let c := if copyValid d.copyA && (!copyValid d.copyB || decide (copySeq d.copyB ≤ copySeq d.copyA)) then 0 else if copyValid d.copyB then 1 else 2
  let copy := if c = 0 then d.copyA else d.copyB
  let all := if c = 2 then [] else parseSections (fieldLe copy 6 1 + 1) (slice copy 64 (fieldLe copy 16 4 - 64))
  let secs := all.map (fun x => (x.1, x.2.2))
  let names := (all.filter (fun x => decide (x.1 ≠ 0))).foldl (fun (m : SMap Bytes) x => mset [] m x.1 x.2.1) []
  let good := fun (l : List (Nat × Bytes)) => l.filter (fun e => recordOk e.1 e.2)
  let put := fun (l : List (Nat × Bytes)) => (good l).foldl (fun m e => mset [] m e.1 e.2) ([] : SMap Bytes)
  let base := put ((secs.filter (fun x => decide (x.1 = 0))).flatMap (·.2))
  let overlays := (secs.filter (fun x => decide (x.1 ≠ 0))).foldl (fun (m : SMap (SMap Bytes)) x => mset [] m x.1 (put x.2)) []
  let skipped := (secs.map (fun x => x.2.length - (good x.2).length)).foldl (· + ·) 0
  let d := { d with base := base, overlays := overlays, names := names, vals := [], atReset := [], inForce := c, skipped := skipped, saving := none, nextSave := [] }
  let o := leNat ((d.saved 0 0x010001).getD [])
  let d := { d with vals := mset [] d.vals 0x010001 ((d.saved 0 0x010001).getD []) }
  let d := entries.foldl (fun d x => d.enforce o x) d
  let take := fun (m : SMap Bytes) (e : Nat × Bytes) => if (d.saved o e.1).isSome then mset [] m e.1 e.2 else m
  let d := { d with vals := d.atReset.foldl take d.vals, atReset := [] }
  let s := State.followThresh { s with dict := d } 16
  foldS (fun (s : State) (k : Nat × Nat) => match s.dict.saved o k.1 with
    | some b => let w := wordsOf b; s.loadRoleKey k.2 (w.take 8) (w.drop 8)
    | none => s) s [(0x090010, 254), (0x090011, 255)]

end Sys2Proof.Machine
end

