-- ==== Sys2Proof/Machine/Engines.lean ====
section
/-! DEFINITION. The engine lanes (13, 14, 15): posting a job, what a job does, its status record, segment switches, lane
stealing and the known-answer tests of R428. -/

namespace Sys2Proof.Machine

/-! ### Lanes and memory (R305, R309, R311) -/

/-- Unit codes of the lane classes in an owner register (R305). -/
def unitCipher : Nat := 0
def unitReducer : Nat := 1
def unitExpander : Nat := 2
def unitDigest : Nat := 3

/-- Whether every bank of a range admits a lane class working for an instance. -/
def State.laneMay (s : State) (t cls inst a n : Nat) : Bool :=
  decide (n = 0) || (List.range ((a + n - 1) / bankBytes - a / bankBytes + 1)).all (fun i =>
    (s.bank t (a / bankBytes + i)).admitsLane cls inst)

/-- Read for a lane: OWNER (3) or UNCORRECTABLE (4) on failure (R338, R341). -/
def State.laneRead (s : State) (t cls inst master a n : Nat) : Except Nat Bytes × State :=
  if n = 0 then (.ok [], s)
  else if s.laneMay t cls inst a n = false then (.error 3, s)
  else match s.readSpan t a n master with
    | (some b, s) => (.ok b, s)
    | (none, s) => (.error 4, s)

/-- Write for a lane. -/
def State.laneWrite (s : State) (t cls inst master a : Nat) (b : Bytes) : Option Nat × State :=
  if b = [] then (none, s)
  else if s.laneMay t cls inst a b.length = false then (some 3, s)
  else match s.writeSpan t a b master with
    | (true, s) => (none, s)
    | (false, s) => (some 4, s)

/-- The end of banks 0 to 14. -/
def laneTop : Nat := 0x1E0000
/-- Whether a range lies in banks 0 to 14. -/
def inBanks (a n : Nat) : Bool := decide (a + n ≤ laneTop)
/-- Whether two ranges overlap. -/
def overlap (x y : Nat × Nat) : Bool := decide (x.1 < y.1 + y.2 ∧ y.1 < x.1 + x.2 ∧ x.2 ≠ 0 ∧ y.2 ≠ 0)
/-- Whether no two ranges of a list overlap. -/
def apart : List (Nat × Nat) → Bool
  | [] => true
  | x :: r => r.all (fun y => !overlap x y) && apart r

/-- The tile whose scratchpad a job works on: the poster's. -/
def Job.home (j : Job) (t : Nat) : Nat := j.core.getD t

/-- The end of a job: its record is written if the bank admits the lane, and the poster sees `TL_EVP.ENG` while the item
still runs (R241, R242, R341). -/
def State.jobEvent (s : State) (j : Job) : State :=
  let s := s.busy
  match j.core with
  | none => s
  | some t =>
    let k := s.core t
    match k.item with
    | some x => if x.seq = j.item then (s.setCore t { k with engOut := k.engOut - 1 }).event t 2 else s
    | none => s
def State.putRecord (s : State) (t cls inst master a : Nat) (b : Bytes) : State :=
  if inBanks a b.length = true ∧ a % 4 = 0 then (s.laneWrite t cls inst master a b).2 else s

/-! ### Reducer and expander jobs (R337 to R341) -/

def jSrc (d : BitVec 384) : Nat := bits d 0 32
def jLen (d : BitVec 384) : Nat := bits d 32 32
def jDst (d : BitVec 384) : Nat := bits d 64 32
def jRoom (d : BitVec 384) : Nat := bits d 96 32
def jBins (d : BitVec 384) : Nat := bits d 128 32
def jStatus (d : BitVec 384) : Nat := bits d 160 32
def jHost (d : BitVec 384) : Bool := bit d 192
def jFinal (d : BitVec 384) : Bool := bit d 193
def jResume (d : BitVec 384) : Bool := bit d 194

/-- The fields a resumed job must name again (R340). -/
def jSame (a b : BitVec 384) : Bool :=
  decide (jSrc a = jSrc b ∧ jLen a = jLen b ∧ jHost a = jHost b ∧ jFinal a = jFinal b ∧ jStatus a = jStatus b)

/-- Bytes of a job's bin list. -/
def jBinLen (reducer : Bool) (d : BitVec 384) : Nat :=
  if jHost d then 0 else if reducer then ((jLen d + 4095) / 4096 + 3) / 4 else (jLen d / 1024 + 3) / 4

/-- The checks of R338 on a descriptor. -/
def jValid (reducer : Bool) (d : BitVec 384) : Bool :=
  let bl := jBinLen reducer d
  decide (jLen d ≤ 1966080) && inBanks (jSrc d) (jLen d) && inBanks (jDst d) (jRoom d) && inBanks (jStatus d) 16 &&
  inBanks (jBins d) bl && decide (jStatus d % 4 = 0) && decide (jDst d % (if jHost d then 4 else 1024) = 0) &&
  (!jHost d || decide (jBins d = 0)) &&
  apart [(jSrc d, jLen d), (jDst d, jRoom d), (jBins d, bl), (jStatus d, 16)] &&
  (jHost d || (if reducer then (jFinal d || decide (jLen d % 4096 = 0)) else decide (jLen d % 1024 = 0)))

/-- What a run over units gives. -/
structure Units where
  used : Nat := 0
  out : Bytes := []
  units : Nat := 0
  bins : List (BitVec 2) := []
  code : Nat := 0
  off : Nat := 0
deriving DecidableEq, Repr

/-- Code blocks until the input, or the room, ends (R338, R339). -/
def reduceUnits (host final : Bool) (room : Nat) : Nat → Bytes → Units → Units
  | 0, _, x => x
  | fuel + 1, b, x =>
    if b = [] ∨ (b.length < 4096 ∧ final = false) then x
    else
      let blk := b.take 4096
      let u := krfSlab blk
      let o := if host then krfHost blk else u.2
      if room < x.out.length + o.length then { x with code := 1 }
      else reduceUnits host final room fuel (b.drop 4096)
        { x with used := x.used + blk.length, out := x.out ++ o, units := x.units + 1, bins := x.bins ++ [BitVec.ofNat 2 u.1] }

/-- Expand units of the slab form, with their bins from the list (R330, R334, R337, R339). -/
def expandSlabUnits (list : Bytes) (room : Nat) : Nat → Nat → Bytes → Units → Units
  | 0, _, _, x => x
  | fuel + 1, k, b, x =>
    if b = [] then x
    else
      let bin := binAt list k
      let u := slice b 0 (binBytes bin)
      if b.length < binBytes bin ∨ slabHeaderOk bin bin u = false then { x with code := 0x47 }
      else if room < x.out.length + slabSrclen bin u then { x with code := 1 }
      else match slabExpand bin bin u with
        | .error e => { x with code := e.code, off := e.off }
        | .ok o => expandSlabUnits list room fuel (k + 1) (b.drop (binBytes bin))
            { x with used := x.used + binBytes bin, out := x.out ++ o, units := x.units + 1 }

/-- Expand frames of the host-stream form. -/
def expandHostUnits (room : Nat) : Nat → Bytes → Units → Units
  | 0, _, x => x
  | fuel + 1, b, x =>
    if b = [] then x
    else match hostExpand b with
      | .short => x
      | .bad e =>
        if e.code ≠ 0x47 ∧ room < x.out.length + bits (BitVec.ofNat 32 (leNat (b.take 4))) 0 13 then { x with code := 1 }
        else { x with code := e.code, off := e.off }
      | .ok o n =>
        if room < x.out.length + o.length then { x with code := 1 }
        else expandHostUnits room fuel (b.drop n) { x with used := x.used + n, out := x.out ++ o, units := x.units + 1 }

/-- A status record (R341). -/
def statusRec (consumed produced units code eunit eoff : Nat) : Bytes :=
  natLe 4 consumed ++ natLe 4 produced ++ natLe 2 (units % 65536) ++ [BitVec.ofNat 8 code, 1] ++ natLe 2 (eunit % 65536) ++
    natLe 2 (eoff % 4096)

/-- Replace the bins of a list from position `n` on. -/
def putBinCodes (old : Bytes) (n : Nat) (new : List (BitVec 2)) : Bytes :=
  let before := (List.range n).map (fun i => BitVec.ofNat 2 (binAt old i))
  binListBytes (before ++ new)

/-- Whether the record of a chain lets a RESUME job go on: CONSUMED and UNITS if so (R340). -/
def chainRecord (r : Bytes) : Option (Nat × Nat) :=
  if byteAt r 11 &&& 1 = 1 ∧ byteAt r 10 = 1 then some (fieldLe r 0 4, fieldLe r 8 2) else none

/-- What a reducer or expander job answers: CODE, the counts of its run, CONSUMED and UNITS of the chain before it. -/
structure JobRun where
  code : Nat := 0
  run : Units := {}
  used0 : Nat := 0
  units0 : Nat := 0
deriving DecidableEq, Repr

/-- Run a reducer or expander job (R337 to R340). -/
def State.runLane (s : State) (reducer : Bool) (t : Nat) (j : Job) : JobRun × State :=
  let d := j.desc
  let cls := if reducer then unitReducer else unitExpander
  let m := if reducer then 12 else 13
  let chains := if reducer then (s.tile t).lanes.rxChains else (s.tile t).lanes.exChains
  let bad : JobRun := { code := 2 }
  if jValid reducer d = false then (bad, s)
  else
    let (prev, s) := if jResume d then s.laneRead t cls j.inst m (jStatus d) 16 else (.ok [], s)
    let start : Option (Nat × Nat) := if jResume d then
        (match prev with
          | .ok r => (match chainRecord r with
            | some c => if jSame (mget 0 chains (jStatus d)) d = true ∧ mget 0 chains (jStatus d) ≠ 0 ∧ c.1 ≤ jLen d then some c else none
            | none => none)
          | .error _ => none)
      else some (0, 0)
    match start with
    | none => (bad, s)
    | some (used0, units0) =>
      match s.laneRead t cls j.inst m (jSrc d + used0) (jLen d - used0) with
      | (.error c, s) => ({ code := c, used0 := used0, units0 := units0 }, s)
      | (.ok src, s) =>
        match s.laneRead t cls j.inst m (jBins d) (jBinLen reducer d) with
        | (.error c, s) => ({ code := c, used0 := used0, units0 := units0 }, s)
        | (.ok list, s) =>
          let r := if reducer then reduceUnits (jHost d) (jFinal d) (jRoom d) (src.length / 4096 + 1) src {}
            else if jHost d then expandHostUnits (jRoom d) (src.length + 1) src {}
            else expandSlabUnits list (jRoom d) (src.length / 1024 + 1) units0 src {}
          let base : JobRun := { code := r.code, run := r, used0 := used0, units0 := units0 }
          match s.laneWrite t cls j.inst m (jDst d) r.out with
          | (some c, s) => ({ base with code := c, run := {} }, s)
          | (none, s) =>
            if reducer = true ∧ jHost d = false ∧ r.bins ≠ [] then
              let bytes := (putBinCodes list units0 r.bins).drop (units0 / 4)
              match s.laneWrite t cls j.inst m (jBins d + units0 / 4) bytes with
              | (some c, s) => ({ base with code := c, run := {} }, s)
              | (none, s) => (base, s)
            else (base, s)

/-- Count units per bin. -/
def addBins (b : Nat × Nat × Nat × Nat) (l : List (BitVec 2)) : Nat × Nat × Nat × Nat :=
  let n := fun (k : Nat) => (l.filter (fun x => decide (x.toNat = k))).length
  let m := fun (a k : Nat) => (a + n k) % 4294967296
  (m b.1 0, m b.2.1 1, m b.2.2.1 2, m b.2.2.2 3)

/-- The counters of a lane after a job of the reducer. -/
def Lanes.countRx (x : Lanes) (r : JobRun) : Lanes :=
  { x with
    rxIn := x.rxIn + r.run.used
    rxOut := x.rxOut + r.run.out.length
    rxDone := if r.code ≤ 1 then satAdd 0xFFFFFF x.rxDone 1 else x.rxDone
    rxErr := if r.code ≤ 1 then x.rxErr else satAdd 255 x.rxErr 1
    rxBins := addBins x.rxBins r.run.bins }

/-- The counters of a lane after a job of the expander. -/
def Lanes.countEx (x : Lanes) (r : JobRun) : Lanes :=
  let bad := decide (0x44 ≤ r.code)
  { x with
    exIn := x.exIn + r.run.used
    exOut := x.exOut + r.run.out.length
    exDone := if r.code ≤ 1 then satAdd 0xFFFFFF x.exDone 1 else x.exDone
    exErr := if r.code ≤ 1 then x.exErr else satAdd 255 x.exErr 1
    exLastCode := if bad then BitVec.ofNat 8 r.code else x.exLastCode
    exLastOff := if bad then BitVec.ofNat 12 r.run.off else x.exLastOff }

/-- Remember, or forget, a chain. -/
def State.noteChain (s : State) (reducer : Bool) (t : Nat) (d : BitVec 384) (full : Bool) : State :=
  let x := s.tile t
  let v := if full then d else 0
  let l := if reducer then { x.lanes with rxChains := mset 0 x.lanes.rxChains (jStatus d) v }
    else { x.lanes with exChains := mset 0 x.lanes.exChains (jStatus d) v }
  s.setTile t { x with lanes := l }

/-- The end of a reducer or expander job on the lane of tile `t` (R341). -/
def State.endLane (s : State) (reducer : Bool) (t : Nat) (j : Job) : State :=
  let h := j.home t
  let (r, s) := s.runLane reducer h j
  let s := if r.code = 2 then s else s.noteChain reducer h j.desc (decide (r.code = 1))
  let x := s.tile t
  let s := s.setTile t { x with lanes := if reducer then x.lanes.countRx r else x.lanes.countEx r }
  let units := r.units0 + r.run.units
  let rec_ := if r.code = 2 then statusRec 0 0 0 2 0 0
    else statusRec (r.used0 + r.run.used) r.run.out.length units r.code (if 0x44 ≤ r.code then units else 0) r.run.off
  (s.putRecord h (if reducer then unitReducer else unitExpander) j.inst (if reducer then 12 else 13) (jStatus j.desc) rec_).jobEvent j

/-! ### Cipher jobs (R355 to R365) -/

def cLen (d : BitVec 384) : Nat := bits d 32 32
def cDst (d : BitVec 384) : Nat := bits d 64 32
def cStatus (d : BitVec 384) : Nat := bits d 96 32
def cAad (d : BitVec 384) : Nat := bits d 128 32
def cAadLen (d : BitVec 384) : Nat := bits d 160 16
def cKslot (d : BitVec 384) : Nat := bits d 176 12
def cMode (d : BitVec 384) : Nat := bits d 192 2
def cStart (d : BitVec 384) : Bool := bit d 194
def cEnd (d : BitVec 384) : Bool := bit d 195
def cCtx (d : BitVec 384) : Nat := bits d 200 6
def cTag (d : BitVec 384) : Nat := bits d 224 32
def cIv (d : BitVec 384) : BitVec 128 := d.extractLsb' 256 128
def cGcm (d : BitVec 384) : Bool := decide (2 ≤ cMode d)

def State.ctxRec (s : State) (inst c : Nat) : CtxRec := mget {} s.keys.ctx (64 * inst + c)
def State.setCtx (s : State) (inst c : Nat) (x : CtxRec) : State :=
  { s with keys := { s.keys with ctx := mset {} s.keys.ctx (64 * inst + c) x } }

/-- The checks of R364 before a job's first byte. -/
def State.cipherValid (s : State) (j : Job) : Bool :=
  let d := j.desc
  let r := s.ctxRec j.inst (cCtx d)
  let x := s.inst j.inst
  let tagUse := cGcm d && cEnd d
  let aadUse := cGcm d && cStart d
  let src := (jSrc d, cLen d)
  let dst := (cDst d, cLen d)
  let side := [(if aadUse then (cAad d, cAadLen d) else (0, 0)), (if tagUse then (cTag d, 16) else (0, 0)), (cStatus d, 8)]
  let lens := if cGcm d then [16, 32] else [32, 64]
  decide (cLen d ≤ 1966080 ∧ cAadLen d ≤ 4096 ∧ cCtx d < 48) &&
  decide (jSrc d % 16 = 0 ∧ cDst d % 16 = 0 ∧ cStatus d % 4 = 0) &&
  inBanks src.1 src.2 && inBanks dst.1 dst.2 && inBanks (cStatus d) 8 && side.all (fun e => inBanks e.1 e.2) &&
  (decide (src.1 = dst.1) || !overlap src dst) && side.all (fun e => !overlap src e && !overlap dst e) &&
  (cGcm d || decide (cLen d % 1024 = 0)) && (!cGcm d || cEnd d || decide (cLen d % 16 = 0)) &&
  (if cStart d then decide (r.st = 0) && x.hasCipher (cKslot d) && (s.cslot (cKslot d)).usable lens
   else decide (r.st = 1) && decide (r.mode.toNat = cMode d)) &&
  (!cGcm d || decide ((if cStart d then 0 else r.text) + cLen d ≤ 16 * (4294967296 - 2)))

/-- Process text bytes of a job by its record: output and the record after it. -/
def cipherText (key : Bytes) (mode : Nat) (r : CtxRec) (b : Bytes) : Bytes × CtxRec :=
  if mode < 2 then
    let n := b.length / 1024
    let out := ((List.range n).map (fun i => xtsUnit (decide (mode = 1)) key (r.ctr + BitVec.ofNat 128 i) (slice b (1024 * i) 1024))).flatten
    (out, { r with ctr := r.ctr + BitVec.ofNat 128 n, text := r.text + b.length })
  else
    let x := gcmCtr key (blocks16 b) r.ctr b
    let c := if mode = 2 then x.1 else b
    (x.1, { r with ctr := x.2, y := ghash (gcmH key) (blocks16 c) r.y c, text := r.text + b.length })

/-- A job's record as START makes it; the key reference is taken (R352, R355). -/
def State.cipherStart (s : State) (t : Nat) (j : Job) (aad : Bytes) : State :=
  let d := j.desc
  match s.takeKey false (cKslot d) with
  | (none, s) => s
  | (some g, s) =>
    let key := s.keyBytes (cKslot d) g
    let r : CtxRec := {
      st := 1, owner := some (j.home t, j.item), mode := BitVec.ofNat 2 (cMode d), kslot := BitVec.ofNat 12 (cKslot d), gen := g
      ctr := if cGcm d then gcmInc (gcmJ0 (natLe 12 (cIv d).toNat)) else cIv d
      y := if cGcm d then ghash (gcmH key) (blocks16 aad) 0 aad else 0
      aad := aad.length }
    s.setCtx j.inst (cCtx d) r

/-- A lane takes a cipher job: a new one is checked and, with START, its key referenced and its record initialised (R352,
R363, R364); a saved one has its record restored (R357). -/
def State.beginCipher (s : State) (t : Nat) (j : Job) : Job × State :=
  let d := j.desc
  if j.begun then
    let r := s.ctxRec j.inst (cCtx d)
    (j, if r.st = 2 then s.setCtx j.inst (cCtx d) { r with st := 1 } else s)
  else
    let j := { j with begun := true }
    if s.cipherValid j = false then ({ j with fail := 2 }, s)
    else if cStart d then
      match s.laneRead (j.home t) unitCipher j.inst 5 (cAad d) (if cGcm d then cAadLen d else 0) with
      | (.error c, s) => ({ j with fail := c }, s)
      | (.ok aad, s) => (j, s.cipherStart t j aad)
    else (j, s)

/-- Run bytes [j.done, upto) of a cipher job: an error code, or none. -/
def State.cipherRun (s : State) (t : Nat) (j : Job) (upto : Nat) : Option Nat × State :=
  let d := j.desc
  let h := j.home t
  if j.fail ≠ 0 then (some j.fail, s)
  else
    let r := s.ctxRec j.inst (cCtx d)
    match (s.cslot r.kslot.toNat).gen? r.gen with
    | none => (some 0x62, s.setCtx j.inst (cCtx d) {})
    | some g =>
      match s.laneRead h unitCipher j.inst 5 (jSrc d + j.done) (upto - j.done) with
      | (.error c, s) => (some c, s)
      | (.ok b, s) =>
        let x := cipherText g.key (cMode d) r b
        match s.laneWrite h unitCipher j.inst 5 (cDst d + j.done) x.1 with
        | (some c, s) => (some c, s)
        | (none, s) => (none, s.setCtx j.inst (cCtx d) { x.2 with st := 1 })

/-- The end of a message: the tag is written or compared, the record closed. -/
def State.cipherFinish (s : State) (t : Nat) (j : Job) : Nat × State :=
  let d := j.desc
  let h := j.home t
  let r := s.ctxRec j.inst (cCtx d)
  if cEnd d = false then (0, s)
  else
    let key := s.keyBytes r.kslot.toNat r.gen
    let iv := r.ctr / 4294967296 * 4294967296 + 1
    let tag := gcmTag key iv r.y r.aad r.text
    let (code, s) : Nat × State := if cGcm d = false then (0, s)
      else if cMode d = 2 then
        (match s.laneWrite h unitCipher j.inst 5 (cTag d) tag with
          | (some c, s) => (c, s)
          | (none, s) => (0, s))
      else
        (match s.laneRead h unitCipher j.inst 5 (cTag d) 16 with
          | (.error c, s) => (c, s)
          | (.ok b, s) => (if b = tag then 0 else 0x49, s))
    (code, (s.dropKey false r.kslot.toNat r.gen).setCtx j.inst (cCtx d) {})

/-- The end of a cipher job on a lane of tile `t` (R365). -/
def State.endCipher (s : State) (t : Nat) (j : Job) : State :=
  let d := j.desc
  let (e, s) := s.cipherRun t j (cLen d)
  let (code, s) := match e with | some c => (c, s) | none => s.cipherFinish t j
  let x := s.tile t
  let c := x.crypt
  let n := if code = 0 ∨ code = 0x49 then cLen d else j.done
  let c' : Crypt := { c with
    cxText := c.cxText + (if code = 2 then 0 else n)
    cxDone := if code = 0 then satAdd 0xFFFFFF c.cxDone 1 else c.cxDone
    cxErr := if code = 0 then c.cxErr else satAdd 255 c.cxErr 1 }
  let s := s.setTile t { x with crypt := c' }
  let r := natLe 4 (if code = 2 then 0 else n) ++ [BitVec.ofNat 8 code, 1, 0, 0]
  (s.putRecord (j.home t) unitCipher j.inst 5 (cStatus d) r).jobEvent j

/-! ### Digest jobs (R370 to R374) -/

def dOut (d : BitVec 384) : Nat := bits d 64 32
def dStatus (d : BitVec 384) : Nat := bits d 96 32
def dExpect (d : BitVec 384) : Nat := bits d 128 32
def dKslot (d : BitVec 384) : Nat := bits d 160 8
def dHmac (d : BitVec 384) : Bool := bit d 168
def dStart (d : BitVec 384) : Bool := bit d 169
def dEnd (d : BitVec 384) : Bool := bit d 170
def dCompare (d : BitVec 384) : Bool := bit d 171
def dCtx (d : BitVec 384) : Nat := bits d 176 4

def State.digRec (s : State) (inst c : Nat) : DigRec := mget {} s.keys.dig (16 * inst + c)
def State.setDig (s : State) (inst c : Nat) (x : DigRec) : State :=
  { s with keys := { s.keys with dig := mset {} s.keys.dig (16 * inst + c) x } }

/-- The checks of R372. -/
def State.digestValid (s : State) (j : Job) : Bool :=
  let d := j.desc
  let r := s.digRec j.inst (dCtx d)
  let src := (jSrc d, cLen d)
  let out := if dEnd d = true ∧ dOut d ≠ 0 then (dOut d, 32) else (0, 0)
  let exp := if dCompare d then (dExpect d, 32) else (0, 0)
  let sts := (dStatus d, 16)
  decide (cLen d ≤ 1966080 ∧ dCtx d < 12 ∧ dOut d % 4 = 0 ∧ dStatus d % 4 = 0) &&
  [src, out, exp, sts].all (fun e => inBanks e.1 e.2) &&
  [out, exp, sts].all (fun e => !overlap src e) && !overlap out sts &&
  (dEnd d || decide (cLen d % 64 = 0)) && (!dCompare d || dEnd d) && (dCompare d || !dEnd d || decide (dOut d ≠ 0)) &&
  (if dStart d then decide (r.st = 0) && (!dHmac d || ((s.inst j.inst).hasHmac (dKslot d) && (s.hslot (dKslot d)).cur.isSome))
   else decide (r.st = 1) && decide (r.hmac = dHmac d))

/-- A digest record as START makes it. -/
def State.digestStart (s : State) (t : Nat) (j : Job) : State :=
  let d := j.desc
  if dHmac d then
    match s.takeKey true (dKslot d) with
    | (none, s) => s
    | (some g, s) =>
      let inner := match (s.hslot (dKslot d)).gen? g with | some x => x.inner | none => shaInit
      s.setDig j.inst (dCtx d) { st := 1, owner := some (j.home t, j.item), hmac := true, kslot := dKslot d, gen := g, chain := inner, count := 64 }
  else s.setDig j.inst (dCtx d) { st := 1, owner := some (j.home t, j.item), chain := shaInit }

/-- A lane takes a digest job, as `State.beginCipher` does for a cipher job (R372, R373). -/
def State.beginDigest (s : State) (t : Nat) (j : Job) : Job × State :=
  let d := j.desc
  if j.begun then
    let r := s.digRec j.inst (dCtx d)
    (j, if r.st = 2 then s.setDig j.inst (dCtx d) { r with st := 1 } else s)
  else
    let j := { j with begun := true }
    if s.digestValid j = false then ({ j with fail := 2 }, s)
    else if dStart d then (j, s.digestStart t j)
    else (j, s)

/-- Hash bytes [j.done, upto) of a digest job. -/
def State.digestRun (s : State) (t : Nat) (j : Job) (upto : Nat) : Option Nat × State :=
  let d := j.desc
  let h := j.home t
  if j.fail ≠ 0 then (some j.fail, s)
  else
    let r := s.digRec j.inst (dCtx d)
    if r.hmac = true ∧ ((s.hslot r.kslot).gen? r.gen).isNone then (some 0x62, s.setDig j.inst (dCtx d) {})
    else match s.laneRead h unitDigest j.inst 14 (jSrc d + j.done) (upto - j.done) with
      | (.error c, s) => (some c, s)
      | (.ok b, s) =>
        let all := r.part ++ b
        let k := all.length / 64
        (none, s.setDig j.inst (dCtx d) { r with st := 1, chain := shaBlocks k r.chain all, count := r.count + b.length, part := all.drop (64 * k) })

/-- The two words of a compare (R374); `a` and `b` are what comparators A and B find. -/
def compareWords (a b : Bool) : Nat × Nat :=
  (if a then 0x5AA5C33C else 0xC33C5AA5, if b then 0xA55A3CC3 else 0xC33C5AA5)

/-- The end of a digest message: the code, the two words, and whether the comparators disagree. `wa` and `wb` say that
comparator A and B report the truth. -/
def State.digestFinish (s : State) (t : Nat) (j : Job) (wa wb : Bool) : Nat × (Nat × Nat) × State :=
  let d := j.desc
  let h := j.home t
  let r := s.digRec j.inst (dCtx d)
  if dEnd d = false then (0, (0, 0), s)
  else
    let inner := shaFinish r.chain r.part r.count
    let outer := match (s.hslot r.kslot).gen? r.gen with | some x => x.outer | none => shaInit
    let dig := shaBytes (if r.hmac then hmacOuter outer inner else inner)
    let close := fun (s : State) => (if r.hmac then s.dropKey true r.kslot r.gen else s).setDig j.inst (dCtx d) {}
    let (e, s) := if dOut d = 0 then (none, s) else s.laneWrite h unitDigest j.inst 14 (dOut d) dig
    match e with
    | some c => (c, (0, 0), close s)
    | none =>
      if dCompare d = false then (0, (0, 0), close s)
      else match s.laneRead h unitDigest j.inst 14 (dExpect d) 32 with
        | (.error c, s) => (c, (0, 0), close s)
        | (.ok b, s) =>
          let m := decide (b = dig)
          (0, compareWords (decide (m = wa)) (decide (m = wb)), close s)

/-- A cell is retired: health event 0x01 (R428, R525). -/
def State.cellGone (s : State) (cls idx region tile link : Nat) : State :=
  s.health! 0x01 0 region tile link (BitVec.ofNat 64 (cls + 256 * idx)) 0

/-! ### Queues and lanes (R287, R288, R338, R357, R373) -/

/-- Tiles of a region from the nearest of `t` on. -/
def peersOf (t : Nat) : List Nat :=
  let p := 8 * (t / 8)
  let key := fun (u : Nat) => 16 * ringDist (t % 8) (u % 8) + u % 8
  (((List.range 8).map (fun i => p + i)).filter (fun u => decide (u ≠ t))).foldl
    (fun acc u => (acc.takeWhile (fun v => decide (key v ≤ key u))) ++ u :: acc.dropWhile (fun v => decide (key v ≤ key u))) []

/-- The nearest region peer whose engine queue `q` has an oldest job that may be stolen, and that job. `gone` says that
the lane there is retired, so that its jobs are taken at once. -/
def State.stealJob (s : State) (t : Nat) (q : Tile → List Job) (gone : Tile → Bool) : Option (Nat × Job) :=
  ((peersOf t).filterMap (fun u => match q (s.tile u) with
    | j :: _ => if gone (s.tile u) = true ∨ j.enq + s.stealDelay ≤ s.now then some (u, j) else none
    | [] => none)).head?

def State.setLanes (s : State) (t : Nat) (x : Lanes) : State := s.setTile t { s.tile t with lanes := x }
def State.setCrypt (s : State) (t : Nat) (x : Crypt) : State := s.setTile t { s.tile t with crypt := x }

/-- An idle reducer lane takes its next job; no lane runs out of P0 (R482, R486). -/
def State.nextRx (s : State) (t : Nat) : State :=
  let x := (s.tile t).lanes
  if s.pw.st ≠ .p0 ∨ x.rxRun.isSome ∨ x.rxEn = false ∨ x.rxRetired = true ∨ (s.tile t).quiesced = true then s
  else match x.rxQ with
    | j :: r => s.setLanes t { x with rxQ := r, rxRun := some j }
    | [] =>
      if x.rxSteal = false then s
      else match s.stealJob t (fun y => y.lanes.rxQ) (fun y => y.lanes.rxRetired || y.quiesced) with
        | some (u, j) =>
          let s := s.setLanes u { (s.tile u).lanes with rxQ := (s.tile u).lanes.rxQ.drop 1 }
          s.setLanes t { (s.tile t).lanes with rxRun := some { j with stolen := true } }
        | none => s

/-- An idle expander lane takes its next job. -/
def State.nextEx (s : State) (t : Nat) : State :=
  let x := (s.tile t).lanes
  if s.pw.st ≠ .p0 ∨ x.exRun.isSome ∨ x.exEn = false ∨ x.exRetired = true ∨ (s.tile t).quiesced = true then s
  else match x.exQ with
    | j :: r => s.setLanes t { x with exQ := r, exRun := some j }
    | [] =>
      if x.exSteal = false then s
      else match s.stealJob t (fun y => y.lanes.exQ) (fun y => y.lanes.exRetired || y.quiesced) with
        | some (u, j) =>
          let s := s.setLanes u { (s.tile u).lanes with exQ := (s.tile u).lanes.exQ.drop 1 }
          s.setLanes t { (s.tile t).lanes with exRun := some { j with stolen := true } }
        | none => s

/-- An idle cipher lane that may run jobs. -/
def Crypt.cxIdle (x : Crypt) (l : Nat) : Bool := (mget none x.cxRun l).isNone && bit x.cxEn l && !bit x.cxFailed l
/-- An idle digest lane that may run jobs. -/
def Crypt.dgIdle (x : Crypt) (l : Nat) : Bool := (mget none x.dgRun l).isNone && bit x.dgEn l && !bit x.dgRetired l

/-- Throttling steps in force for a tile: the stricter of power and thermal (R494). -/
def State.stepsOf (s : State) (t : Nat) : Nat := Nat.max s.pw.steps (s.region (regionOfTile t)).steps

/-- Cipher and digest lanes of a tile that throttling leaves enabled: the lowest-numbered (R493). -/
def State.cxLanes (s : State) (t : Nat) : Nat := if 9 ≤ s.stepsOf t then 2 else if s.stepsOf t = 8 then 3 else 4
def State.dgLanes (s : State) (t : Nat) : Nat := if 10 ≤ s.stepsOf t then 1 else 2

/-- Put a job on cipher lane `l`; what it starts from, its saved state or its start, is what a failing lane gives back (R350). -/
def State.putCx (s : State) (t l : Nat) (j : Job) : State :=
  let (j, s) := s.beginCipher t j
  let j := { j with savedDone := j.done, savedRec := s.ctxRec j.inst (cCtx j.desc) }
  let y := (s.tile t).crypt
  s.setCrypt t { y with cxRun := mset none y.cxRun l (some j) }

/-- Put a job on digest lane `l`. -/
def State.putDg (s : State) (t l : Nat) (j : Job) : State :=
  let (j, s) := s.beginDigest t j
  let y := (s.tile t).crypt
  s.setCrypt t { y with dgRun := mset none y.dgRun l (some j) }

/-- Cipher lane `l` takes its next job. -/
def State.nextCx (s : State) (t l : Nat) : State :=
  let x := (s.tile t).crypt
  if s.pw.st ≠ .p0 ∨ x.cxIdle l = false ∨ s.cxLanes t ≤ l ∨ (s.tile t).quiesced = true then s
  else match x.cxQ with
    | j :: r => (s.setCrypt t { x with cxQ := r }).putCx t l j
    | [] =>
      if x.cxSteal = false then s
      else match s.stealJob t (fun y => y.crypt.cxQ) (fun y => decide (y.crypt.cxFailed = 0xF) || y.quiesced) with
        | some (u, j) =>
          let s := s.setCrypt u { (s.tile u).crypt with cxQ := (s.tile u).crypt.cxQ.drop 1 }
          s.putCx t l { j with stolen := true }
        | none => s

/-- Digest lane `l` takes its next job. -/
def State.nextDg (s : State) (t l : Nat) : State :=
  let x := (s.tile t).crypt
  if s.pw.st ≠ .p0 ∨ x.dgIdle l = false ∨ s.dgLanes t ≤ l ∨ s.snooping t / 2 ^ l % 2 = 1 ∨ (s.tile t).quiesced = true then s
  else match x.dgQ with
    | j :: r => (s.setCrypt t { x with dgQ := r }).putDg t l j
    | [] =>
      if x.dgSteal = false then s
      else match s.stealJob t (fun y => y.crypt.dgQ) (fun y => decide (y.crypt.dgRetired = 3) || y.quiesced) with
        | some (u, j) =>
          let s := s.setCrypt u { (s.tile u).crypt with dgQ := (s.tile u).crypt.dgQ.drop 1 }
          s.putDg t l { j with stolen := true }
        | none => s

/-! ### Soft decoders (R193, R288, R428) -/

/-- The nearest region peer whose soft decoder has an oldest job that may be taken, and that job. -/
def State.stealSoft (s : State) (t : Nat) : Option (Nat × SoftJob) :=
  ((peersOf t).filterMap (fun u => match (s.tile u).lanes.softQ with
    | j :: _ => if (s.tile u).lanes.softRetired = true ∨ (s.tile u).quiesced = true ∨ j.enq + s.stealDelay ≤ s.now then some (u, j) else none
    | [] => none)).head?

/-- An idle soft decoder takes its next codeword, of its tile or of a region peer. -/
def State.nextSoft (s : State) (t : Nat) : State :=
  let x := (s.tile t).lanes
  if x.softRun.isSome ∨ x.softRetired = true ∨ (s.tile t).quiesced = true then s
  else match x.softQ with
    | j :: r => s.setLanes t { x with softQ := r, softRun := some j }
    | [] => match s.stealSoft t with
      | some (u, j) =>
        let s := s.setLanes u { (s.tile u).lanes with softQ := (s.tile u).lanes.softQ.drop 1 }
        s.setLanes t { (s.tile t).lanes with softRun := some { j with stolen := true } }
      | none => s

/-- A codeword whose frames have all come goes to the soft decoders: on rungs 2 to 4, and on every rung of a link whose
hard-decision decoder is retired (R193, R428). -/
def State.softPost (s : State) (l cid : Nat) : State :=
  let x := s.link l
  match mget none x.climbs cid with
  | some c =>
    if c.responded = false ∨ c.framesLeft ≠ 0 ∨ 5 ≤ c.rung ∨ c.soft = true ∨ (c.rung < 2 ∧ x.hardRetired = false) then s
    else
      let t := tileOfLink l
      let s := s.putLink l { x with climbs := mset none x.climbs cid (some { c with soft := true }) }
      let y := (s.tile t).lanes
      let s := s.setLanes t { y with softQ := y.softQ ++ [{ link := l, cid := cid, enq := s.now }] }
      foldS (fun (s : State) (u : Nat) => s.nextSoft u) s (t :: peersOf t)
  | none => s

/-- Whether a codeword is on a soft decoder of its region. -/
def State.onSoft (s : State) (l cid : Nat) : Bool :=
  (List.range 8).any (fun i => match (s.tile (8 * regionOfLink l + i)).lanes.softRun with
    | some j => decide (j.link = l ∧ j.cid = cid)
    | none => false)

/-- Idle soft decoders of a region take what they can. -/
def State.nextSofts (s : State) (p : Nat) : State := foldS (fun (s : State) (i : Nat) => s.nextSoft (8 * p + i)) s (List.range 8)

/-- The soft decoder of a tile gives back the codeword it works on, which is decoded again from its start (R428, R431). -/
def State.softBack (s : State) (t : Nat) : State :=
  let x := (s.tile t).lanes
  match x.softRun with
  | none => s
  | some j =>
    let s := s.setLanes t { x with softRun := none }
    let u := tileOfLink j.link
    let y := (s.tile u).lanes
    (s.setLanes u { y with softQ := { j with stolen := false } :: y.softQ }).nextSofts (regionOfTile t)

/-- Every idle lane of a tile takes what it can. -/
def State.nextAll (s : State) (t : Nat) : State :=
  let s := ((s.nextRx t).nextEx t).nextSoft t
  let s := foldS (fun (s : State) (l : Nat) => s.nextCx t l) s (List.range 4)
  foldS (fun (s : State) (l : Nat) => s.nextDg t l) s (List.range 2)

/-- Post a job of tile `t`'s core (R264, R338): false when the engine queue is full. -/
def State.postJob (s : State) (t : Nat) (e : Engine) (j : Job) : Bool × State :=
  let x := s.tile t
  let full := match e with
    | .cipher => decide (32 ≤ x.crypt.cxQ.length)
    | .reducer => decide (16 ≤ x.lanes.rxQ.length)
    | .expander => decide (16 ≤ x.lanes.exQ.length)
    | .digest => decide (16 ≤ x.crypt.dgQ.length)
  if full then (false, s)
  else
    let s := match e with
      | .cipher => s.setCrypt t { x.crypt with cxQ := x.crypt.cxQ ++ [j] }
      | .reducer => s.setLanes t { x.lanes with rxQ := x.lanes.rxQ ++ [j] }
      | .expander => s.setLanes t { x.lanes with exQ := x.lanes.exQ ++ [j] }
      | .digest => s.setCrypt t { x.crypt with dgQ := x.crypt.dgQ ++ [j] }
    let k := s.core t
    (true, (s.setCore t { k with engOut := k.engOut + 1 }).nextAll t)

/-! ### Rows -/

/-- REDUCER_JOB_END (R341). -/
def execReducerJobEnd (t : Nat) (cqOk : Bool) (s : State) : Answer := answering cqOk s fun s =>
  match (s.tile t).lanes.rxRun with
  | none => .next s
  | some j =>
    let s := s.setLanes t { (s.tile t).lanes with rxRun := none }
    .next ((s.endLane true t j).nextRx t)

/-- EXPANDER_JOB_END (R341). -/
def execExpanderJobEnd (t : Nat) (cqOk : Bool) (s : State) : Answer := answering cqOk s fun s =>
  match (s.tile t).lanes.exRun with
  | none => .next s
  | some j =>
    let s := s.setLanes t { (s.tile t).lanes with exRun := none }
    .next ((s.endLane false t j).nextEx t)

/-- CIPHER_JOB_END (R365). -/
def execCipherJobEnd (t lane : Nat) (cqOk : Bool) (s : State) : Answer := answering cqOk s fun s =>
  let c := (s.tile t).crypt
  match mget none c.cxRun lane with
  | none => .next s
  | some j =>
    let s := s.setCrypt t { c with cxRun := mset none c.cxRun lane none }
    .next ((s.endCipher t j).nextCx t lane)

/-- A digest lane is retired (R428). -/
def State.retireDigest (s : State) (t lane : Nat) : State :=
  let c := (s.tile t).crypt
  if bit c.dgRetired lane then s
  else
    let s := (s.setCrypt t { c with dgRetired := setBit c.dgRetired lane true }).cellGone 7 (2 * t + lane) (t / 8) t noLink
    foldS (fun (s : State) (e : Nat × Nat) => s.nextDg e.1 e.2) s ((t :: peersOf t).flatMap (fun u => [(u, 0), (u, 1)]))

/-- DIGEST_JOB_END (R373, R374); `wordA` and `wordB` say that comparator A and B report the truth. -/
def execDigestJobEnd (t lane : Nat) (wordA wordB : Bool) (cqOk : Bool) (s : State) : Answer := answering cqOk s fun s =>
  let c := (s.tile t).crypt
  match mget none c.dgRun lane with
  | none => .next s
  | some j =>
    let d := j.desc
    let s := s.setCrypt t { c with dgRun := mset none c.dgRun lane none }
    let (e, s) := s.digestRun t j (cLen d)
    let (code, words, s) := match e with | some c => (c, (0, 0), s) | none => s.digestFinish t j wordA wordB
    let n := if code = 0 then cLen d else if code = 2 then 0 else j.done
    let cmp := decide (code = 0) && dCompare d
    let fault := cmp && decide (wordA ≠ wordB)
    let y := (s.tile t).crypt
    let again := match y.dgFaultAt with | some a => fault && decide (s.now < a + 1000000000) | none => false
    let y' : Crypt := { y with
      dgText := y.dgText + n
      dgDone := if code = 0 then satAdd 0xFFFFFF y.dgDone 1 else y.dgDone
      dgErr := if code = 0 then y.dgErr else satAdd 255 y.dgErr 1
      dgMatch := if cmp = true ∧ words = compareWords true true then satAdd 0xFFFF y.dgMatch 1 else y.dgMatch
      dgFault := if fault then satAdd 0xFFF y.dgFault 1 else y.dgFault
      dgFaultAt := if fault then some s.now else y.dgFaultAt }
    let s := s.setCrypt t y'
    let s := if fault then s.raise (32 * t + 26) else s
    let r := natLe 4 n ++ [BitVec.ofNat 8 code, 1, 0, 0] ++ natLe 4 words.1 ++ natLe 4 words.2
    let s := (s.putRecord (j.home t) unitDigest j.inst 14 (dStatus d) r).jobEvent j
    let s := if again then s.retireDigest t lane else s
    .next (s.nextDg t lane)

/-- CIPHER_SEGMENT_BOUNDARY (R350, R357): 4,096 bytes more of the lane's job are done; with `checkFails` 1 a block was
computed again, with 2 the lane fails and its job goes back from its last saved state. A lane whose tile's queue holds a job,
no lane being idle, saves its job and takes the oldest. -/
def execCipherSegmentBoundary (t lane checkFails : Nat) (s : State) : Answer :=
  let c := (s.tile t).crypt
  match mget none c.cxRun lane with
  | none => .next s
  | some j =>
    let mis : Crypt := { c with cxMis := satAdd 0xFFFF c.cxMis 1, cxMisLane := BitVec.ofNat 4 (2 ^ lane) }
    if 2 ≤ checkFails then
      let y : Crypt := { mis with cxFailed := setBit c.cxFailed lane true, cxRun := mset none c.cxRun lane none,
                                  cxQ := c.cxQ ++ [{ j with done := j.savedDone }] }
      let s := if j.fail ≠ 0 then s else s.setCtx j.inst (cCtx j.desc) { j.savedRec with st := 2 }
      let s := ((s.setCrypt t y).cellGone 4 (4 * t + lane) (t / 8) t noLink).raise (32 * t + 25)
      .next (foldS (fun (s : State) (l : Nat) => s.nextCx t l) s (List.range 4))
    else
      let s := if checkFails = 0 then s else s.setCrypt t mis
      if cLen j.desc ≤ j.done + 4096 then .next s
      else match s.cipherRun t j (j.done + 4096) with
        | (some _, _) => .next s
        | (none, s) =>
          let j := { j with done := j.done + 4096 }
          let c := (s.tile t).crypt
          let idle := (List.range 4).any (fun l => c.cxIdle l && decide (l < s.cxLanes t))
          if s.cxLanes t ≤ lane then
            let k := s.ctxRec j.inst (cCtx j.desc)
            let s := s.setCtx j.inst (cCtx j.desc) { k with st := 2 }
            let s := s.setCrypt t { c with cxQ := j :: c.cxQ, cxRun := mset none c.cxRun lane none }
            .next (foldS (fun (s : State) (l : Nat) => s.nextCx t l) s (List.range 4))
          else match c.cxQ with
          | n :: r =>
            if idle = true ∨ bit c.cxEn lane = false then .next (s.setCrypt t { c with cxRun := mset none c.cxRun lane (some j) })
            else
              let k := s.ctxRec j.inst (cCtx j.desc)
              let s := s.setCtx j.inst (cCtx j.desc) { k with st := 2 }
              .next ((s.setCrypt t { c with cxQ := r ++ [j], cxSwitch := satAdd 4294967295 c.cxSwitch 1 }).putCx t lane n)
          | [] => .next (s.setCrypt t { c with cxRun := mset none c.cxRun lane (some j) })

/-- DIGEST_SEGMENT_BOUNDARY (R373). -/
def execDigestSegmentBoundary (t lane : Nat) (s : State) : Answer :=
  let c := (s.tile t).crypt
  match mget none c.dgRun lane with
  | none => .next s
  | some j =>
    if cLen j.desc ≤ j.done + 4096 then .next s
    else match s.digestRun t j (j.done + 4096) with
      | (some _, _) => .next s
      | (none, s) =>
        let j := { j with done := j.done + 4096 }
        let c := (s.tile t).crypt
        if s.dgLanes t ≤ lane then
          let k := s.digRec j.inst (dCtx j.desc)
          let s := s.setDig j.inst (dCtx j.desc) { k with st := 2 }
          let s := s.setCrypt t { c with dgQ := j :: c.dgQ, dgRun := mset none c.dgRun lane none }
          .next (foldS (fun (s : State) (l : Nat) => s.nextDg t l) s (List.range 2))
        else match c.dgQ with
        | n :: r =>
          if bit c.dgEn lane = false ∨ (List.range 2).any (fun l => c.dgIdle l && decide (l < s.dgLanes t) && decide (s.snooping t / 2 ^ l % 2 = 0)) = true then
            .next (s.setCrypt t { c with dgRun := mset none c.dgRun lane (some j) })
          else
            let k := s.digRec j.inst (dCtx j.desc)
            let s := s.setDig j.inst (dCtx j.desc) { k with st := 2 }
            .next ((s.setCrypt t { c with dgQ := r ++ [j] }).putDg t lane n)
        | [] => .next (s.setCrypt t { c with dgRun := mset none c.dgRun lane (some j) })

/-- DECODER_KNOWN_ANSWER_TEST (R428): two failures in a row retire the hard-decision decoder of a link, which degrades it
(R166) and whose codewords go to the soft decoder, or the soft decoder of a tile, whose codewords go to region peers. -/
def execDecoderKnownAnswerTest (soft : Bool) (n : Nat) (pass : Bool) (s : State) : Answer :=
  if soft then
    let x := (s.tile n).lanes
    let f := if pass then 0 else x.katSoft + 1
    let s := s.setLanes n { x with katSoft := f, softRetired := x.softRetired || decide (2 ≤ f) }
    .next (if 2 ≤ f ∧ x.softRetired = false then ((s.softBack n).nextSofts (n / 8)).cellGone 3 n (n / 8) n noLink else s)
  else
    let x := s.link n
    let f := if pass then 0 else x.katFails + 1
    let s := s.setLink n { x with katFails := f, hardRetired := x.hardRetired || decide (2 ≤ f), degraded := x.degraded || decide (2 ≤ f) }
    let s := if 2 ≤ f ∧ x.hardRetired = false then
        foldS (fun (s : State) (e : Nat × Option Climb) => s.softPost n e.1) (s.cellGone 2 n (regionOfLink n) (tileOfLink n) n) x.climbs
      else s
    .next s

/-- LANE_KNOWN_ANSWER_TEST (R428), run while the lane is idle: two failures in a row retire a reducer or expander lane, one a
digest lane, and region peers take its queued jobs at once. -/
def execLaneKnownAnswerTest (t : Nat) (lane : TestLane) (pass : Bool) (s : State) : Answer :=
  let x := (s.tile t).lanes
  match lane with
  | .expander =>
    if x.exRun.isSome then .next s
    else
      let f := if pass then 0 else x.katEx + 1
      let s := s.setLanes t { x with katEx := f, exRetired := x.exRetired || decide (2 ≤ f) }
      if 2 ≤ f ∧ x.exRetired = false then
        .next (foldS (fun (s : State) (u : Nat) => s.nextEx u) (s.cellGone 6 t (t / 8) t noLink) (peersOf t))
      else .next s
  | .reducer =>
    if x.rxRun.isSome then .next s
    else
      let f := if pass then 0 else x.katRx + 1
      let s := s.setLanes t { x with katRx := f, rxRetired := x.rxRetired || decide (2 ≤ f) }
      if 2 ≤ f ∧ x.rxRetired = false then
        .next (foldS (fun (s : State) (u : Nat) => s.nextRx u) (s.cellGone 5 t (t / 8) t noLink) (peersOf t))
      else .next s
  | .digest l =>
    if pass = true ∨ (mget none (s.tile t).crypt.dgRun l).isSome then .next s else .next (s.retireDigest t l)

end Sys2Proof.Machine
end

