-- ==== Sys2Proof/Machine/Faults.lean ====
section
/-! DEFINITION. Faults (19): tile quiesce and restart (R430 to R434), region faults (R436), chip faults (R437), hard faults of
scratchpad words and of the map store (R320, R323, R428), and the ledger's checks (R441, R442). -/

namespace Sys2Proof.Machine

/-! ### Chip fault (R437) -/

/-- A chip fault: fetching stops; unless the host queue engine or the PCIe endpoint failed, every started command fails with
INTERNAL_ERROR, DETAIL being the event's number; `ID_READY` is cleared, AER reports it, health records it, and the steps of
R131 run. -/
def State.chipFault (s : State) (unit cause region : Nat) : State :=
  if s.stew.boot = .chipFault then s
  else
    let s := { s with hq := { s.hq with stopFetch := true } }
    let s := (s.health! 0x40 5 noRegion 0xFF noLink (BitVec.ofNat 64 (unit + (if unit = 7 then 256 * region else 0)))
      (BitVec.ofNat 32 cause))
    let detail : DWord := BitVec.ofNat 64 (s.health.nEvents % 65536)
    let s := if unit = 4 ∨ unit = 5 then s
      else foldS (fun (s : State) (e : Nat × Option Op) => match s.op (e.1 / 32) (e.1 % 32) with
        | some o => if o.started then s.failData true (e.1 / 32) (e.1 % 32) 0x4B detail else s
        | none => s) s s.hq.ops
    let s := { s with ld := { s.ld with runs := [] }, stew := { s.stew with boot := .chipFault } }
    let s := (s.setReady (s.hq.idReady &&& 0xFFFF0000)).emit .aer
    s.holdup .chip

/-- CHIP_FAULT (R437). -/
def execChipFault (c : ChipCause) (cqOk : Bool) (s : State) : Answer := answering cqOk s fun s => .next (s.chipFault c.unit c.cause c.region)

/-! ### Tile faults (R430 to R434) -/

/-- Insert an item into a ready queue by its order of acceptance. -/
def insertItem (x : Item) : List Item → List Item
  | [] => [x]
  | y :: r => if x.seq < y.seq then x :: y :: r else y :: insertItem x r

/-- A segment as a re-dispatched item finds it: with the grains its input bank holds, at its first stage (R431, R434). -/
def SegSt.restart (g : SegSt) (first proc : Nat) : SegSt :=
  if g.ph = 0 then g
  else if g.seg < proc then
    { g with ph := 1, core := none, stage := first, recs := g.inp, raw := false, work := [], acc := [], room := 0, dig := [] }
  else { g with ph := 1, core := none }

/-- End the item on a core without a fault record and return it to its region's ready queue, in its order of entry; its
posted engine work is cancelled (R248, R431). An item whose RUN has stopped ends. -/
def State.requeueItem (s : State) (t : Nat) : State :=
  match (s.core t).item with
  | none => s
  | some x =>
    let s := s.cancelWork t x.seq
    let alive := match x.run with
      | some k => (match s.runOf k with
        | some r => r.closing.isNone && (decide (x.kind ≠ .segment) || (r.seg? x.rng x.seg).isSome)
        | none => false)
      | none => true
    if alive = false then
      let s := (s.returnBanks t x true).2.leaveCore t x
      match x.run with | some k => s.finishRun k true | none => s
    else
      let s := match x.run, x.kind with
        | some k, .segment => s.modRun k (fun r => match r.range? x.rng, r.seg? x.rng x.seg with
          | some y, some g => r.setSeg (g.restart (pipeFirst r.pipe) y.proc)
          | _, _ => r)
        | _, _ => s
      let s := if x.banks = 0 then s else s.freeBanks t (x.banks - 1)
      let s := (s.coreHandovers t true).freeCore t
      let p := x.region
      let r := s.region p
      s.setRegion p { r with ready := insertItem { x with holds := decide (x.banks ≠ 0) } r.ready }

/-- The running lane jobs of a tile return to the front of their engine queues (R431). -/
def State.returnJobs (s : State) (t : Nat) : State :=
  let l := (s.tile t).lanes
  let c := (s.tile t).crypt
  let s := s.setTile t { s.tile t with
    lanes := { l with rxRun := none, exRun := none }
    crypt := { c with cxRun := [], dgRun := [] } }
  let put := fun (s : State) (j : Job) (f : Tile → Job → Tile) =>
    let h := j.home t
    s.setTile h (f (s.tile h) { j with stolen := false })
  let s := match l.rxRun with
    | some j => put s j (fun x j => { x with lanes := { x.lanes with rxQ := j :: x.lanes.rxQ } })
    | none => s
  let s := match l.exRun with
    | some j => put s j (fun x j => { x with lanes := { x.lanes with exQ := j :: x.lanes.exQ } })
    | none => s
  let s := foldS (fun (s : State) (e : Nat × Option Job) => match e.2 with
    | some j => put s j (fun x j => { x with crypt := { x.crypt with cxQ := j :: x.crypt.cxQ } })
    | none => s) s c.cxRun
  foldS (fun (s : State) (e : Nat × Option Job) => match e.2 with
    | some j => put s j (fun x j => { x with crypt := { x.crypt with dgQ := j :: x.crypt.dgQ } })
    | none => s) s c.dgRun

/-- Every lane of a region takes what it can. -/
def State.regionLanes (s : State) (p : Nat) : State :=
  foldS (fun (s : State) (i : Nat) => s.nextAll (8 * p + i)) s (List.range 8)

/-- Steps 1 to 4 of R431: dispatch to the tile stops, its item, the item its slice holds and its jobs return to their
queues, and region peers take them. -/
def State.stopTile (s : State) (t cause : Nat) : State :=
  let s := s.setTile t { s.tile t with quiesced := true, cause := cause, ahead := none, restarting := false }
  ((((s.requeueItem t).returnJobs t).softBack t).regionLanes (regionOfTile t))

/-- Quiesces of a tile within the last hour. -/
def Tile.recent (x : Tile) (now : Nat) : List Nat := x.quiesces.filter (fun a => decide (now < a + 3600000000000))

/-- A tile fault: the tile is quiesced, region source 1 is raised, and health records it (R430, R431). -/
def State.quiesceTile (s : State) (t cause : Nat) : State :=
  if 64 ≤ t ∨ (s.tile t).quiesced = true then s
  else
    let times := s.now :: (s.tile t).recent s.now
    let s := (s.stopTile t cause).setTile t { (s.stopTile t cause).tile t with quiesces := times }
    let p := regionOfTile t
    (s.raise (0x800 + 32 * p + 1)).health! 0x10 1 p t noLink (BitVec.ofNat 64 cause) (BitVec.ofNat 32 times.length)

/-- A tile is retired: it stays quiesced until a device reset (R428, R433). -/
def State.retireTile (s : State) (t cause : Nat) : State :=
  if (s.tile t).retired then s
  else
    let s := if (s.tile t).quiesced then s else s.stopTile t cause
    let s := s.setTile t { s.tile t with quiesced := true, retired := true, restarting := false }
    s.health! 0x12 1 (regionOfTile t) t noLink (BitVec.ofNat 64 cause) (BitVec.ofNat 32 ((s.tile t).recent s.now).length)

/-- HEARTBEAT_MISSED: the third heartbeat in a row is missed (R430). -/
def execHeartbeatMissed (t : Nat) (cqOk : Bool) (s : State) : Answer := answering cqOk s fun s => .next (s.quiesceTile t 1)

/-- TILE_PARITY_ERROR (R430; causes 2 to 5 of R525). -/
def execTileParityError (t : Nat) (u : TileUnit) (s : State) : Answer :=
  .next (s.quiesceTile t (match u with | .core => 2 | .slice => 3 | .crossbar => 4 | .intc => 5))

/-- What a tile's restart resets: core, slice, stream crossbar, lanes and interrupt controller; DELIVERED sources return to
RAISED (R423, R433). Queued jobs stay, and retired cells stay out of use (R428). -/
def Tile.restart (x : Tile) : Tile :=
  let l := x.lanes
  let c := x.crypt
  { x with
    core := { prevInst := x.core.prevInst, image := x.core.image }
    lanes := { rxQ := l.rxQ, exQ := l.exQ, rxRetired := l.rxRetired, exRetired := l.exRetired, softRetired := l.softRetired, softQ := l.softQ
               rxChains := l.rxChains, exChains := l.exChains }
    crypt := { cxQ := c.cxQ, dgQ := c.dgQ, cxFailed := c.cxFailed, dgRetired := c.dgRetired }
    intc := { src := x.intc.src.map (fun e => (e.1, match e.2 with | .delivered => SrcState.raised | y => y)) }
    confLost := []
    confWin := []
    restarting := true }

/-- The reset of a tile clears the LK_COUNT registers of its links (R169). -/
def State.clearLinkCounts (s : State) (t : Nat) : State :=
  foldS (fun (s : State) (o : Nat) =>
    s.setLink (8 * t + o) { s.link (8 * t + o) with resends := 0, hunts := 0, recoveries := 0 }) s (List.range 8)

/-- TILE_RESTART: step 4 of the quiesce has ended. The tile is restarted and its lanes tested, or it is retired: when the
restart fails, or at its third quiesce within 1 h (R433). -/
def execTileRestart (t : Nat) (ok : Bool) (s : State) : Answer :=
  let x := s.tile t
  if x.quiesced = false ∨ x.retired = true ∨ x.restarting = true then .next s
  else if 3 ≤ (x.recent s.now).length then .next (s.retireTile t 8)
  else if ok = false then .next (s.retireTile t 7)
  else .next ((s.setTile t x.restart).clearLinkCounts t)

/-- TILE_RESTART_DONE: the restart ends, and region source 2 is raised (R433). -/
def execTileRestartDone (t : Nat) (s : State) : Answer :=
  let x := s.tile t
  if x.restarting = false then .next s
  else
    let s := s.setTile t { x with quiesced := false, restarting := false, idleSince := s.now }
    let p := regionOfTile t
    let s := { s with health := { s.health with tileRestarts := s.health.tileRestarts + 1 } }
    let s := (s.raise (0x800 + 32 * p + 2)).health! 0x11 1 p t noLink (BitVec.ofNat 64 x.cause)
      (BitVec.ofNat 32 (x.recent s.now).length)
    .next (s.regionLanes p)

/-! ### Region faults (R436) -/

/-- A region fault: its ready bit is cleared, its running items return to its queue, and its crossbar restarts. The second
within 1 h is a chip fault (R436, R525). -/
def State.regionFault (s : State) (p cause : Nat) : State :=
  let r := s.region p
  let again := match r.faultAt with | some a => decide (s.now < a + 3600000000000) | none => false
  if again then s.chipFault 7 5 p
  else
    let s := s.setRegion p { r with faultAt := some s.now, restarting := true }
    let s := s.setReady (setBit s.hq.idReady (8 + p) false)
    let s := foldS (fun (s : State) (i : Nat) => s.requeueItem (8 * p + i)) s (List.range 8)
    let s := if cause = 1 ∨ cause = 2 then s.raise (0x800 + 32 * p) else s
    s.health! 0x30 4 p 0xFF noLink (BitVec.ofNat 64 cause) 0

/-- REGION_FAULT (R436). -/
def execRegionFault (p cause : Nat) (cqOk : Bool) (s : State) : Answer := answering cqOk s fun s =>
  if 8 ≤ p ∨ (s.region p).restarting = true then .next s else .next (s.regionFault p cause)

/-- STALE bands of a region are erased now that it is ready. -/
def State.eraseStale (s : State) (p : Nat) : State :=
  foldS (fun (s : State) (e : Nat × Band) => if e.2.st = .stale ∧ s.st.sanitizing = false ∧
      !(s.jr.acts.any (fun a => decide (a.2 = JAct.bandStale e.1))) then s.tryErase e.1 else s) s (s.listedBands p)

/-- REGION_RESTART_DONE: the region's ready bit is set again and what it held goes on; a restart that fails is a chip fault
(R436). -/
def execRegionRestartDone (p : Nat) (ok : Bool) (s : State) : Answer :=
  let r := s.region p
  if r.restarting = false then .next s
  else if ok = false then .next ((s.setRegion p { r with restarting := false }).chipFault 7 4 p)
  else
    let s := s.setRegion p { r with restarting := false }
    let s := { s with health := { s.health with regionRestarts := s.health.regionRestarts + 1 } }
    let s := (s.setReady (setBit s.hq.idReady (8 + p) true)).eraseStale p
    .next ((s.pump true).pumpRuns true)

/-! ### Words (R320, R323, R428) -/

/-- HARD_FAULT_CHECK: the corrected word is read again, with syndrome `again`; the same syndrome means a hard fault
(R320). A tile that a retired bank leaves with fewer than 3 scan banks is retired (R428). -/
def execHardFaultCheck (t b : Nat) (again : BitVec 7) (s : State) : Answer :=
  let x := s.bank t b
  match x.checkWord with
  | none => .next s
  | some (w, synd) =>
    let s := s.setBank t b { x with checkWord := none }
    if again ≠ synd then .next s
    else
      let s := s.hardWord t b w
      .next (if (s.bank t b).retired = true ∧ x.retired = false ∧ s.scanBanks t < 3 then s.retireTile t 9 else s)

/-- MAP_STORE_SCRUB: the map store's scrubber reads its next word, which reads with syndrome `synd`: a correctable word is
corrected and counted, an uncorrectable one is a chip fault (R323, R428). -/
def execMapStoreScrub (synd : BitVec 7) (s : State) : Answer :=
  match eccDecode synd with
  | .clean => .next s
  | .bad =>
    .next ((({ s with health := { s.health with ueSram := s.health.ueSram + 1 } }).raise 0x900).chipFault 2 1 0)
  | _ => .next { s with health := { s.health with corrSram := s.health.corrSram + 1 } }

/-! ### The ledger (R441, R442) -/

/-- The references to both generations of a slot (R352). -/
def Slot.held (x : Slot) : Nat := (match x.cur with | some g => g.refs | none => 0) + (match x.old with | some g => g.refs | none => 0)

/-- What the books show as held of a quantity (R441, R525). Link credits are numbered 2 · link + channel, key slots with the 4,096
cipher slots first. -/
def State.books (s : State) (quantity index : Nat) : Nat :=
  match quantity with
  | 1 =>
    let x := s.link (index / 2)
    ((if index % 2 = 0 then x.initial.1 else x.initial.2) + 4096 - x.avail (2 * (index % 2))) % 4096
  | 2 => s.stagedIn index
  | 3 => s.hq.ops.length
  | 4 => (s.region index).ready.length + (s.region index).timers.length
  | 5 => s.ld.flows.length
  | 6 => ((List.range 32).filter (fun i => bit (s.queue index).tags i)).length
  | 7 => (if index < Config.cipherSlots then s.cslot index else s.hslot (index - Config.cipherSlots)).held
  | 8 => ((s.region index).spilled.length + 127) / 128
  | 9 => s.parityHeld index
  | _ => 0

/-- The level a ledger mismatch is recorded at: the unit that keeps the books (R442). -/
def ledgerLevel (quantity : Nat) : Nat := if quantity = 1 then 2 else if quantity = 2 ∨ quantity = 4 ∨ quantity = 8 ∨ quantity = 9 then 4 else 5

/-- A link port is reset: it trains from DETECT (R442). -/
def State.resetPort (s : State) (l : Nat) : State :=
  let x := s.link l
  s.putLink l { ({} : Link) with
    st := .detect, trainAt := s.now, desc := x.desc, dies := x.dies, presetTx := x.presetTx, presetRx := x.presetRx
    resends := x.resends, hunts := x.hunts, recoveries := x.recoveries, cmds := x.cmds, climbs := x.climbs, queue := x.queue
    wlPages := x.wlPages, dieStatus := x.dieStatus, features := x.features
    hardRetired := x.hardRetired, katFails := x.katFails, load := x.load, degraded := x.degraded }

/-- A slot without `n` references of its generations, the retained one first (R352). -/
def Slot.dropRefs (x : Slot) (n : Nat) : Slot :=
  let o := match x.old with | some g => Nat.min n g.refs | none => 0
  let old := x.old.map (fun (g : Gen) => { g with refs := g.refs - o })
  { x with
    cur := x.cur.map (fun (g : Gen) => { g with refs := g.refs - (n - o) })
    old := match old with | some g => if g.refs = 0 then none else some g | none => none }

/-- The tags of a queue that nothing holds: no outstanding command, no completion held or not consumed (R36, R41). -/
def State.strayTags (s : State) (q : Nat) : List Nat :=
  let x := s.queue q
  (List.range 32).filter (fun i => bit x.tags i && (s.op q i).isNone && !(x.cqTags.any (fun a => decide (a.toNat = i))) &&
    !(x.held.any (fun h => decide (h.cpl.tag.toNat = i))))

/-- Return `n` leaked units to the free pool: credits, tags, key references and flow contexts, which the books count (R442). What
the books find by looking at its owners cannot leak. -/
def State.returnLeak (s : State) (quantity index n : Nat) : State :=
  match quantity with
  | 1 => let x := s.link (index / 2)
    (s.putLink (index / 2) (x.charge (2 * (index % 2)) (4096 - n))).pumpLink (index / 2)
  | 5 => { s with ld := { s.ld with flows := s.ld.flows.filter (fun e => match e.2 with | some f => (s.runOf f.run).isSome | none => false) } }
  | 6 => s.setQueue index { s.queue index with tags := ((s.strayTags index).take n).foldl (fun m i => setBit m i false) (s.queue index).tags }
  | 7 => if index < Config.cipherSlots then s.setCslot index ((s.cslot index).dropRefs n)
    else s.setHslot (index - Config.cipherSlots) ((s.hslot (index - Config.cipherSlots)).dropRefs n)
  | _ => s

/-- LEDGER_CHECK: a recount finds `held` units of a quantity. A leak is returned to the free pool; units held beyond the
books are a fault of the unit that keeps them (R442). -/
def execLedgerCheck (quantity index held : Nat) (s : State) : Answer :=
  let b := s.books quantity index
  if quantity = 0 ∨ 9 < quantity ∨ held = b then .next s
  else
    let diff : Word := BitVec.ofInt 32 ((held : Int) - (b : Int))
    let region := if ledgerLevel quantity = 4 then index else noRegion
    let link := if quantity = 1 then index / 2 else noLink
    let s := { s with health := { s.health with mismatches := s.health.mismatches + 1 } }
    let s := s.health! 0x80 (ledgerLevel quantity) region 0xFF link (BitVec.ofNat 64 quantity) diff
    if held < b then .next (s.returnLeak quantity index (b - held))
    else if quantity = 1 then .next (s.resetPort (index / 2))
    else if ledgerLevel quantity = 4 then .next (if 8 ≤ index ∨ (s.region index).restarting = true then s else s.regionFault index 4)
    else .next (s.chipFault 9 7 0)

end Sys2Proof.Machine
end

