-- ==== Sys2Proof/Machine/Interrupts.lean ====
section
/-! DEFINITION. The interrupt controllers (18): doorbells, the delivery commit point, masks, acknowledgements, the target
table's lock, and the pending events that a core or the steward writes. -/

namespace Sys2Proof.Machine

/-- INT_DOORBELL: a doorbell write by the steward or a unit (R417, R418). -/
def execIntDoorbell (ctl : Nat) (v : Word) (s : State) : Answer := .next (s.doorbell ctl (bits v 0 12))

/-- The pending bit of a controller: `TL_EVP.IRQ` for a tile core; the steward's own bit lies with its firmware. -/
def State.setPending (s : State) (c : Nat) : State :=
  if c < 64 then
    let k := s.core c
    if k.item.isSome then s.setCore c { k with evp := k.evp ||| 32, evSeen := s.ld.fences } else s
  else { s with stew := { s.stew with clockOff := false } }

/-- Whether `INT_CMASK` masks a priority. -/
def IntC.masks (x : IntC) (prio : Nat) : Bool := bit x.cmask prio

/-- DELIVERY_COMMIT: a RAISED source that is not masked becomes DELIVERED and sets the pending bit (R419 to R421). Under
WAKE_OVERRIDE a source that only `INT_CMASK` masks sets the pending bit of a stopped core without committing (R424). -/
def execDeliveryCommit (ctl src : Nat) (s : State) : Answer :=
  let x := s.intc ctl
  if mget .idle x.src src ≠ .raised ∨ s.fullMask ctl = true then .next s
  else if x.masks (s.srcPrio src) then
    if s.sleepMode ctl = 2 ∧ (if ctl < 64 then (s.core ctl).clockOff else s.stew.clockOff) = true then
      .next ((s.setIntc ctl { x with override := true }).setPending ctl)
    else .next s
  else .next ((s.setIntc ctl { x with src := mset .idle x.src src .delivered }).setPending ctl)

/-- INT_CMASK: the new mask; it returns no DELIVERED source to RAISED (R420). -/
def execIntCmask (ctl : Nat) (v : Word) (s : State) : Answer :=
  .next (s.setIntc ctl { s.intc ctl with cmask := v.extractLsb' 0 4 })

/-- Acknowledge a source: DELIVERED to IDLE. While any source is still DELIVERED the pending bit stays set (R422). -/
def State.ackSource (s : State) (ctl n : Nat) : State :=
  let x := s.intc ctl
  let s := if mget .idle x.src n = .delivered then s.setIntc ctl { x with src := mset .idle x.src n .idle } else s
  if (s.intc ctl).src.any (fun e => decide (e.2 = .delivered)) then s.setPending ctl else s

/-- INT_ACK (R422). -/
def execIntAck (ctl : Nat) (v : Word) (s : State) : Answer := .next (s.ackSource ctl (bits v 0 12))

/-- LOCK: every target register is locked until the next device reset (R416). -/
def execLock (s : State) : Answer := .next { s with intLock := true }

/-- A write to `TL_EVP`: bits written 1 are cleared; IRQ acknowledges the source the core read last (R241, R422). -/
def State.writeEvp (s : State) (t : Nat) (v : Word) : State :=
  let k := s.core t
  let s := s.setCore t { k with evp := k.evp &&& ~~~(v &&& 0x7F), topRead := if bit v 5 then none else k.topRead }
  if bit v 5 then
    match k.topRead with
    | some n => s.ackSource t n
    | none => if (s.intc t).src.any (fun e => decide (e.2 = .delivered)) then s.setPending t else s
  else s

/-- TL_EVP_WRITE (R241, R422). -/
def execTlEvpWrite (t : Nat) (v : Word) (s : State) : Answer := .next (s.writeEvp t v)

/-- A write to `INT_STAT`: OVERRIDE and LOST clear on 1. -/
def State.writeIntStat (s : State) (ctl : Nat) (v : Word) : State :=
  let x := s.intc ctl
  s.setIntc ctl { x with override := x.override && !bit v 0, lost := x.lost && !bit v 1 }

end Sys2Proof.Machine
end

