-- ==== Sys2Proof/Machine/Operands.lean ====
section
/-! DEFINITION. Pytan operands (09, 10): encodings and their legality (R234 to R238, R250, R251), the core's address space
(R227 to R231), what hazard distances show of a register or byte (R266), and reading and writing an operand. -/

namespace Sys2Proof.Machine

/-! ### Encodings (R234 to R238, R250, R251) -/

/-- Bytes of a width. -/
def wbytes : Width → Nat
  | .b => 1
  | .h => 2
  | .w => 4
  | .d => 8

/-- The widths an instruction allows. -/
inductive Widths where
  | all | wOnly | dOnly | bOnly
deriving DecidableEq, Repr

/-- What the instruction table says of an opcode: operand fields used, widths, and how many condition values from 0 up. -/
structure OpInfo where
  d : Bool := false
  s1 : Bool := false
  s2 : Bool := false
  widths : Widths := .all
  conds : Nat := 1
deriving DecidableEq, Repr

def opD12 : OpInfo := { d := true, s1 := true, s2 := true }
def opD1 : OpInfo := { d := true, s1 := true }
def opNone : OpInfo := { widths := .wOnly }
def opStr : OpInfo := {}

/-- The instruction table (R251), by opcode. -/
def opInfo (op : Nat) : Option OpInfo :=
  if op = 0x01 ∨ op = 0x06 ∨ op = 0x0C ∨ op = 0x1E ∨ op = 0x1F then some opD1
  else if (0x02 ≤ op ∧ op ≤ 0x05) ∨ (0x08 ≤ op ∧ op ≤ 0x0B) ∨ (0x10 ≤ op ∧ op ≤ 0x14) ∨ (0x18 ≤ op ∧ op ≤ 0x1C) ∨ op = 0x20 then
    some opD12
  else if op = 0x1D then some { opD1 with conds := 3 }
  else if 0x21 ≤ op ∧ op ≤ 0x23 then some { opD12 with conds := 2 }
  else if op = 0x24 then some { opD1 with widths := .wOnly }
  else if op = 0x30 ∨ op = 0x31 then some { s1 := true, widths := .wOnly }
  else if op = 0x32 then some { opNone with conds := 16 }
  else if op = 0x33 then some { s1 := true, s2 := true, conds := 2 }
  else if op = 0x34 then some { opNone with conds := 2 }
  else if op = 0x35 ∨ op = 0x36 ∨ op = 0x40 ∨ op = 0x43 then some opNone
  else if op = 0x38 ∨ op = 0x3B ∨ op = 0x3D then some opStr
  else if op = 0x39 ∨ op = 0x3A then some { opStr with conds := 3 }
  else if op = 0x3C then some { opStr with widths := .bOnly }
  else if op = 0x41 then some { s1 := true, conds := 3 }
  else if op = 0x42 then some { s1 := true, widths := .dOnly, conds := 2 }
  else if op = 0x48 then some { s1 := true, widths := .wOnly }
  else if op = 0x49 then some { s1 := true, widths := .wOnly, conds := 4 }
  else if op = 0x4A then some { opD1 with widths := .wOnly }
  else none

def Widths.ok : Widths → Width → Bool
  | .all, _ => true
  | .wOnly, x => decide (x = .w)
  | .dOnly, x => decide (x = .d)
  | .bOnly, x => decide (x = .b)

/-- Whether a string instruction (R258). -/
def isString (op : Nat) : Bool := decide (0x38 ≤ op ∧ op ≤ 0x3D)
/-- JMP, CALL, SKIP, SKIPBIT and RPT, which no delay slot may hold (R254). -/
def isControl (op : Nat) : Bool := decide (0x30 ≤ op ∧ op ≤ 0x34)

/-- Whether an operand needs an extension word (R236). -/
def opdExt : Opd → Bool
  | .disp _ _ | .idx _ _ _ _ _ | .abs _ | .imm _ | .pcRel _ => true
  | _ => false

/-- Whether an operand lies in memory. -/
def opdIsMem : Opd → Bool
  | .ind _ | .disp _ _ | .idx _ _ _ _ _ | .postInc _ | .preDec _ | .abs _ | .pcRel _ => true
  | _ => false

/-- Whether a used operand is legal as a source (R236). -/
def opdSrcOk : Opd → Bool
  | .idx _ _ _ _ r => decide (r = 0)
  | _ => true
/-- Whether a used operand is legal as D (R236, R238, R252). -/
def opdDstOk : Opd → Bool
  | .idx _ _ _ _ r => decide (r = 0)
  | .imm _ | .timeLo | .timeHi | .pcRel _ => false
  | _ => true
/-- Operands whose address ADR can take (R252). -/
def opdAdrOk : Opd → Bool
  | .ind _ | .disp _ _ | .idx _ _ _ _ _ | .abs _ | .pcRel _ => true
  | _ => false

/-- A field that an instruction does not use must hold 0x3F (R235). -/
def unusedOk (used : Bool) (o : Opd) : Bool := used || decide (o = .zero)
def pyUnusedOk (x : PyI) (i : OpInfo) : Bool :=
  unusedOk i.d x.d && unusedOk i.s1 x.s1 && unusedOk i.s2 x.s2

/-- The causes of fault code 1 other than unused fields (R268). -/
def pyDefined (x : PyI) (op : Nat) (i : OpInfo) : Bool :=
  i.widths.ok x.width && decide (x.cond.toNat < i.conds) &&
  (!i.d || opdDstOk x.d) && (!i.s1 || opdSrcOk x.s1) && (!i.s2 || opdSrcOk x.s2) &&
  (if op = 0x24 then opdAdrOk x.s1 else true) && (if op = 0x4A then opdIsMem x.d else true)

/-- Whether an instruction is legal (fault code 1). -/
def pyLegal (x : PyI) (op : Nat) : Bool :=
  match opInfo op with
  | some i => pyUnusedOk x i && pyDefined x op i
  | none => false

/-- Words of an instruction (R234). -/
def pyWords (x : PyI) (i : OpInfo) : Nat :=
  1 + (if i.d && opdExt x.d then 1 else 0) + (if i.s1 && opdExt x.s1 then 1 else 0) + (if i.s2 && opdExt x.s2 then 1 else 0)

/-- The length of an instruction in bytes. -/
def pyLen (x : PyI) (op : Nat) : Nat := 4 * pyWords x ((opInfo op).getD {})

/-! ### What an instruction's evaluation answers -/

/-- The evaluation of part of an instruction: a value with the state (error records kept) and the working copy of the
core; a fault with its code, operand and data address; or nothing yet, because a bank is not ready. -/
inductive Ev (α : Type) where
  | ok (a : α) (s : State) (k : Core)
  | fault (code operand addr : Nat) (s : State)
  | stall

def Ev.bind {α β : Type} (x : Ev α) (f : α → State → Core → Ev β) : Ev β :=
  match x with
  | .ok a s k => f a s k
  | .fault c o a s => .fault c o a s
  | .stall => .stall

/-! ### Hazard distances (R266) -/

/-- What a consumer issued as number `c` at distance `d` sees of a value with its recent changes: the value before the
oldest change that is not `d` issues back. Changes of the same instruction are seen at once (R239). -/
def seenOf {α : Type} (c d : Nat) (past : List (Past α)) (cur : α) : α :=
  if past.any (fun p => decide (p.issue = c)) then cur
  else match (past.filter (fun p => decide (c < p.issue + d))).getLast? with
    | some p => p.old
    | none => cur

/-- Keep the changes that can still matter. Newest first. -/
def prune {α : Type} (c : Nat) (past : List (Past α)) : List (Past α) := past.filter (fun p => decide (c < p.issue + 4))

def Core.areg (k : Core) (n : BitVec 3) : Word := mget 0 k.a n.toNat
/-- An as a base or index (distance 2). -/
def Core.abase (k : Core) (n : BitVec 3) : Word := seenOf k.issued 2 (mget [] k.pastA n.toNat) (k.areg n)
/-- Change An. -/
def Core.setA (k : Core) (n : BitVec 3) (v : Word) : Core :=
  { k with
    a := mset 0 k.a n.toNat v
    pastA := mset [] k.pastA n.toNat (⟨k.issued, k.areg n⟩ :: prune k.issued (mget [] k.pastA n.toNat)) }
def Core.lkSeen (k : Core) : Word := seenOf k.issued 2 k.pastLk k.lk
def Core.setLk (k : Core) (v : Word) : Core := { k with lk := v, pastLk := ⟨k.issued, k.lk⟩ :: prune k.issued k.pastLk }
def Core.rcSeen (k : Core) : Word := seenOf k.issued 3 k.pastRc k.rc
def Core.setRc (k : Core) (v : Word) : Core := { k with rc := v, pastRc := ⟨k.issued, k.rc⟩ :: prune k.issued k.pastRc }
/-- FL.E (R225, R241). -/
def Core.e (k : Core) : Bool := decide (k.evp &&& k.ev ≠ 0)
/-- FL.E as SKIP.EV, WFE, WAITT.E and RPT.E see it (distance 2). -/
def Core.eSeen (k : Core) : Bool := seenOf k.issued 2 k.pastE k.e
def Core.noteE (k : Core) : Core := { k with pastE := ⟨k.issued, k.e⟩ :: prune k.issued k.pastE }
/-- FL as a word (R225). -/
def Core.fl (k : Core) : Nat :=
  (if k.z then 1 else 0) + (if k.n then 2 else 0) + (if k.c then 4 else 0) + (if k.v then 8 else 0) + (if k.e then 16 else 0)

/-- A byte as the core sees it past its recent writes (distance 3). -/
def Core.byteSeen (k : Core) (a : Nat) (cur : Byte) : Byte :=
  let mine := k.pastM.filterMap (fun p => if p.old.1 = a then some (⟨p.issue, p.old.2⟩ : Past Byte) else none)
  seenOf k.issued 3 mine cur

/-! ### The address space (R227 to R231) -/

/-- Where an access falls. -/
inductive Where where
  | bank (b : Nat)
  | code
  | data
  | tileReg (off : Nat)
  | window (w off : Nat)
deriving DecidableEq, Repr

/-- The place of an access of `n` bytes at `a`; none is a window violation. A descriptor or response of more than 8 bytes in DRAM
is accessed in words (assumption 79). -/
def State.placeOf (s : State) (t : Nat) (k : Core) (write : Bool) (a n : Nat) : Option Where :=
  if a < 0x1E0000 then
    if a / bankBytes = (a + n - 1) / bankBytes then some (.bank (a / bankBytes)) else none
  else if a < 0x1F0000 then
    let len := match k.image with
      | some (i, h) => (match s.imageOf i h with | some (b, _, _) => b.length | none => 0)
      | none => 0
    if write = true then none
    else if a + n ≤ codeBase + len then some .code
    else if codeBase + len = 0x1F0000 ∧ a + n ≤ 0x200000 then some .code else none
  else if a < 0x200000 then if a + n ≤ 0x200000 then some .data else none
  else if 0x1000000 ≤ a ∧ a + n ≤ 0x1001000 then
    if n = 4 ∧ a % 4 = 0 then some (.tileReg (a - 0x1000000)) else none
  else if 0x40000000 ≤ a ∧ a < 0x80000000 then
    let w := (a - 0x40000000) / 0x10000000
    let off := a % 0x10000000
    if a % (if n ≤ 8 then n else 4) = 0 ∧ off + n ≤ ((mget [] s.ld.winDispatched t).getD w 0) * 1048576 then some (.window w off) else none
  else none

/-- The stored contents of a window of an instance. -/
def winKey (inst w : Nat) : Nat := 4 * inst + w
def State.winByte (s : State) (key off : Nat) : Byte := mget 0 (mget [] s.ld.wins key) off

/-- A word of a window as core `t` reads it (R233): while another core's write to it is not settled for the reader, it may
be the old or the new value, by a free choice. -/
def State.winWord (s : State) (t seen key word : Nat) : Word × State :=
  let cur : Word := s.winByte key (4 * word + 3) ++ s.winByte key (4 * word + 2) ++ s.winByte key (4 * word + 1) ++ s.winByte key (4 * word)
  let open_ := s.ld.unsettled.find? (fun u => decide (u.win = key ∧ u.word = word ∧ u.writer ≠ t) &&
    (match u.fence with | none => true | some f => decide (seen < f)))
  match open_ with
  | none => (cur, s)
  | some u =>
    let (n, s) := s.draw
    (if Config.freeChoice n then cur else u.old, s)

/-- Read bytes of a window. -/
def State.readWindow (s : State) (t seen key off n : Nat) : Bytes × State :=
  let w0 := off / 4
  let r := foldS (fun (acc : Bytes × State) (i : Nat) =>
    let (v, s) := acc.2.winWord t seen key (w0 + i)
    (acc.1 ++ natLe 4 v.toNat, s)) (([] : Bytes), s) (List.range ((off + n - 1) / 4 - w0 + 1))
  (slice r.1 (off % 4) n, r.2)

/-- Write bytes of a window: kept at once, and noted as unsettled for the other cores until this core's next FENCE. -/
def State.writeWindow (s : State) (t key off : Nat) (d : Bytes) : State :=
  let w0 := off / 4
  let words := (List.range ((off + d.length - 1) / 4 - w0 + 1)).map (fun i => w0 + i)
  let old := fun (w : Nat) => (s.winByte key (4 * w + 3) ++ s.winByte key (4 * w + 2) ++ s.winByte key (4 * w + 1) ++ s.winByte key (4 * w) : Word)
  let fresh := words.filter (fun w => !(s.ld.unsettled.any (fun u => decide (u.writer = t ∧ u.win = key ∧ u.word = w ∧ u.fence = none))))
  let cells := foldS (fun (m : List Host.Cell) (e : Byte × Nat) => mset 0 m (off + e.2) e.1) (mget [] s.ld.wins key)
    (d.zip (List.range d.length))
  { s with ld := { s.ld with
      wins := mset [] s.ld.wins key cells
      unsettled := s.ld.unsettled ++ fresh.map (fun w => { writer := t, win := key, word := w, old := old w }) } }

/-! ### Reading memory -/

/-- Whether a bank can be accessed now: its group is awake and it is not being zeroed (R308, R314). -/
def State.bankReady (s : State) (t b : Nat) : Bool := s.groupAwake t b && (s.bank t b).zeroing.isNone

/-- Read `n` bytes at address `a` for operand `o` through the port of `master` (R227 to R231, R266, R269). -/
def State.coreRead (s : State) (t : Nat) (k : Core) (o master a n : Nat) : Ev Bytes :=
  let seen := fun (b : Bytes) => (b.zip (List.range b.length)).map (fun (e : Byte × Nat) => k.byteSeen (a + e.2) e.1)
  match s.placeOf t k false a n with
  | none => .fault 4 o a s
  | some .code =>
    if s.groupAwake t 15 = false then .stall
    else match s.readSpan t a n master with
      | (some b, s) => .ok (seen b) s k
      | (none, s) => .fault 6 o a s
  | some (.tileReg off) =>
    let v := if off = 0x10 then k.ev else if off = 0x14 then k.evp else s.readTile t off
    let k := if off = 0xE08 then { k with topRead := s.intTop t } else k
    .ok (natLe 4 v.toNat) s k
  | some (.window w off) =>
    let (b, s) := s.readWindow t k.seen (winKey (k.instOf.getD 0) w) off n
    .ok (seen b) s k
  | some (.bank b) =>
    if s.bankReady t b = false then .stall
    else if (s.bank t b).admitsCore k = false then .fault 5 o a s
    else match s.readSpan t a n master with
      | (some b, s) => .ok (seen b) s k
      | (none, s) => .fault 6 o a s
  | some .data =>
    if s.groupAwake t 15 = false then .stall
    else match s.readSpan t a n master with
      | (some b, s) => .ok (seen b) s k
      | (none, s) => .fault 6 o a s

/-! ### Writing memory -/

/-- Whether a core may write a value into a bank's owner register (R230, R307). -/
def State.ownerWriteOk (s : State) (t : Nat) (k : Core) (off : Nat) (v : Word) : Bool :=
  let b := (off - 0x800) / 64
  decide (0x800 ≤ off ∧ off < 0xBC0 ∧ (off - 0x800) % 64 = 0) && (s.bank t b).admitsCore k &&
  [0, 1, 3, 4, 5].contains (ownKind v).toNat && decide (k.instOf = some (ownInst v).toNat)

/-- The bytes at a scratchpad address as they stand, without any effect. -/
def State.peek (s : State) (t a n : Nat) : Bytes :=
  match (s.readSpan t a n 10).1 with
  | some b => b
  | none => List.replicate n 0

/-- The words that a write fills only in part must read well first (R312, R318). -/
def State.fillOk (s : State) (t a n : Nat) : Bool × State :=
  let w0 := a / 4
  foldS (fun (acc : Bool × State) (i : Nat) =>
    let base := 4 * (w0 + i)
    if acc.1 = false ∨ (a ≤ base ∧ base + 4 ≤ a + n) then acc
    else match acc.2.readWord t ((w0 + i) / 32768) ((w0 + i) % 32768) 10 with
      | (some _, s) => (true, s)
      | (none, s) => (false, s)) (true, s) (List.range ((a + n - 1) / 4 - w0 + 1))

/-- Note the bytes before a write, for reads that come too soon (R266). -/
def Core.noteM (k : Core) (a : Nat) (old : Bytes) : Core :=
  { k with pastM := ((old.zip (List.range old.length)).map (fun (e : Byte × Nat) => (⟨k.issued, (a + e.2, e.1)⟩ : Past (Nat × Byte)))).reverse ++
      prune k.issued k.pastM }

/-- Write bytes to scratchpad for the core. -/
def State.coreStore (s : State) (t : Nat) (k : Core) (o a : Nat) (d : Bytes) : Ev Unit :=
  match s.fillOk t a d.length with
  | (false, s) => .fault 6 o a s
  | (true, s) =>
    let k := k.noteM a (s.peek t a d.length)
    .ok () (s.writeSpan t a d 10).2 k

/-- Write bytes at address `a` for operand `o` (R227 to R231). `TL_EV`, `TL_EVP` and owner registers of owned banks are the
only tile registers a core may write (R230, R307). -/
def State.coreWrite (s : State) (t : Nat) (k : Core) (o a : Nat) (d : Bytes) : Ev Unit :=
  match s.placeOf t k true a d.length with
  | none => .fault 4 o a s
  | some .code => .fault 4 o a s
  | some (.tileReg off) =>
    let v : Word := BitVec.ofNat 32 (leNat d)
    if off = 0x10 then .ok () s { k.noteE with ev := v &&& 0x7F }
    else if off = 0x14 then
      let s := (s.setCore t { s.core t with evp := k.evp, topRead := k.topRead }).writeEvp t v
      .ok () s { k.noteE with evp := (s.core t).evp, topRead := (s.core t).topRead }
    else if s.ownerWriteOk t k off v then .ok () (s.writeOwner t ((off - 0x800) / 64) v true) k
    else .fault 4 o a s
  | some (.window w off) =>
    let key := winKey (k.instOf.getD 0) w
    let old := (List.range d.length).map (fun i => s.winByte key (off + i))
    .ok () (s.writeWindow t key off d) (k.noteM a old)
  | some (.bank b) =>
    if s.bankReady t b = false then .stall
    else if (s.bank t b).admitsCore k = false then .fault 5 o a s
    else s.coreStore t k o a d
  | some .data => if s.groupAwake t 15 = false then .stall else s.coreStore t k o a d

/-! ### Operands (R225, R237 to R239) -/

/-- The address of a memory operand and the core after its side effect. -/
def Core.address (k : Core) (n : Nat) : Opd → Word × Core
  | .ind r => (k.abase r, k)
  | .disp r d => (k.abase r + d, k)
  | .idx r x sc d _ => (k.abase r + d.signExtend 32 + (k.abase x <<< sc.toNat), k)
  | .postInc r => (k.abase r, k.setA r (k.abase r + BitVec.ofNat 32 n))
  | .preDec r => (k.abase r - BitVec.ofNat 32 n, k.setA r (k.abase r - BitVec.ofNat 32 n))
  | .abs a => (a, k)
  | .pcRel d => (k.pc + d, k)
  | _ => (0, k)

/-- Keep the low `n` bytes. -/
def lowBytes (n v : Nat) : Nat := v % 2 ^ (8 * n)

/-- The value of a source operand `o` (1 or 2) at `n` bytes. -/
def State.source (s : State) (t : Nat) (k : Core) (o n : Nat) (x : Opd) : Ev Nat :=
  match x with
  | .reg r => .ok (lowBytes n (k.areg r).toNat) s k
  | .lk => .ok (lowBytes n k.lkSeen.toNat) s k
  | .rc => .ok (lowBytes n k.rc.toNat) s k
  | .fl => .ok (lowBytes n k.fl) s k
  | .imm v => .ok (if n = 8 then (v.signExtend 64).toNat else lowBytes n v.toNat) s k
  | .timeLo => .ok (lowBytes n (if n = 8 then s.time64.toNat else s.time64.toNat % 4294967296)) s { k with shadow := s.time64 }
  | .timeHi => .ok (lowBytes n (k.shadow.toNat / 4294967296)) s k
  | .zero => .ok 0 s k
  | m =>
    let (a, k) := k.address n m
    (s.coreRead t k o (if o = 1 then 6 else 11) a.toNat n).bind (fun b s k => .ok (leNat b) s k)

/-- Write a result of `n` bytes to D (R225, R226, R238). Flags are the caller's. -/
def State.dest (s : State) (t : Nat) (k : Core) (n v : Nat) (x : Opd) : Ev Unit :=
  match x with
  | .reg r => .ok () s (k.setA r (BitVec.ofNat 32 v))
  | .lk => .ok () s (k.setLk (BitVec.ofNat 32 v))
  | .rc => .ok () s (k.setRc (BitVec.ofNat 32 v))
  | .fl => .ok () s { k with z := v.testBit 0, n := v.testBit 1, c := v.testBit 2, v := v.testBit 3 }
  | .zero => .ok () s k
  | m =>
    let (a, k) := k.address n m
    s.coreWrite t k 3 a.toNat (natLe n v)

end Sys2Proof.Machine
end

