-- ==== Sys2Proof/Machine/CamCmds.lean ====
section
/-! DEFINITION. The CAM's commands (16): the host's CAM operations (R393, R394), CAM_GRANT (R388, R389), the start and end
of searches (R385, R395), moves (R387, R390, R391), and parity failures with the placing of a failed segment's entries
(R428, R429). -/

namespace Sys2Proof.Machine

/-- The request block of a CAM command (R393). -/
structure CamReq where
  key : BitVec 128
  mask : BitVec 128
  ctx : Nat
  prio : Nat
  pos : Nat
  result : DWord
deriving DecidableEq, Repr

def camReq (b : Bytes) : CamReq :=
  { key := BitVec.ofNat 128 (fieldLe b 0 16), mask := BitVec.ofNat 128 (fieldLe b 16 16), ctx := fieldLe b 32 2
    prio := fieldLe b 34 2, pos := fieldLe b 36 4, result := BitVec.ofNat 64 (fieldLe b 40 8) }

/-- The place a request would write; the device stores KEY AND MASK (R380). -/
def CamReq.place (r : CamReq) : Place :=
  { valid := true, key := r.key &&& r.mask, mask := r.mask, ctx := r.ctx, prio := r.prio, result := r.result }

/-- An entry in the layout of the request block, as READ returns it. -/
def Place.block (x : Place) (pos : Nat) : Bytes :=
  natLe 16 x.key.toNat ++ natLe 16 x.mask.toNat ++ natLe 2 x.ctx ++ natLe 2 x.prio ++ natLe 4 pos ++ natLe 8 x.result.toNat

/-- The CAM command of an entry with sub-operation `n`. -/
def isCam (n : Nat) (e : Sqe) : Bool := decide (Sqe.opcode e = 0x0C ∧ Sqe.subop e = n)

/-- Step 5 of R524: LENGTH must be 48. -/
def camOwn (e : Sqe) : Option Code :=
  if (flagsOk e && dptrOk e && decide (Sqe.length e = 48)) then none else some 0x11

/-- Whether an earlier CAM command of the queue is still outstanding (R394). -/
def State.camEarlier (s : State) (q : Nat) (o : Op) : Bool :=
  (List.range 32).any (fun t => match s.op q t with
    | some a => decide (a.order < o.order ∧ Sqe.opcode a.sqe = 0x0C)
    | none => false)

/-- Run a CAM command on its request block, once no earlier one of its queue is outstanding. The context is checked
first, then PRIO in an AZ128 region (R381, R393, R524). -/
def State.camCommand (s : State) (n q tag : Nat) (block : HostRead) (change : Bool) (run : State → Inst → CamReq → State) : Answer :=
  .next (s.startCmd q tag (isCam n) (fun e _ => camOwn e) true (fun _ o =>
    let x := s.inst o.inst
    if s.camEarlier q o = true ∨ (change = true ∧ (s.cam.changing = true ∨ s.cam.placing ≠ [])) then s
    else
      let s := s.dmaRead q tag
      match block with
      | .fault a => (s.setOp q tag (some o)).fail true q tag 0x42 a 0
      | .ok b =>
        let r := camReq b
        if x.hasCam r.ctx = false then s.refuse q tag 0x1F
        else if x.camAz128 = true ∧ r.prio ≠ 0 then s.refuse q tag 0x11
        else run (s.setOp q tag (some o)) x r))

/-- CAM_SEARCH: the search joins the requests of the host queue engine's port (R385, R393). -/
def execCamSearch (q tag : Nat) (block : HostRead) (cqOk : Bool) (s : State) : Answer := answering cqOk s fun s =>
  s.camCommand 0 q tag block false (fun s _ r =>
    let l := mget [] s.cam.waiting 8
    if (l ++ s.cam.flying).any (fun (y : Search) => decide (y.cmd = some (q, tag))) then s
    else
      let me : Search := { key := r.key, ctx := r.ctx, inst := (s.queue q).inst, cmd := some (q, tag), startAt := s.now }
      { s with cam := { s.cam with waiting := mset [] s.cam.waiting 8 (l ++ [me]) } })

/-- Entries lost: health event 0x04 names the instance and their number (R429, R525). -/
def State.camLost (s : State) (inst n : Nat) : State :=
  if n = 0 then s else s.health! 0x04 0 noRegion noRegion noLink (BitVec.ofNat 64 inst) (BitVec.ofNat 32 n)

/-- Complete the command that the moves of the CAM served. -/
def State.camFinish (s : State) (cmd : Option (Nat × Nat)) (result : DWord) : State :=
  match cmd with
  | some (q, tag) => s.succeed q tag 0x00 result
  | none => s

/-- The last move of a change has been made: entries that waited for room are written, a grant takes effect with the old
region free, and the command completes (R386, R389, R392). -/
def State.camApply (s : State) : State :=
  let c := s.cam
  let s := { s with cam := { c with moves := [], onMoved := [], pendCmd := none, pendResult := 0, grant := none } }
  let s := foldS (fun (s : State) (e : Nat × Place) =>
    let (ok, cam) := s.cam.write e.1 e.2
    let s := { s with cam := cam }
    if ok then s else match s.hq.insts.find? (fun i => i.2.hasCam e.2.ctx) with
      | some (i, _) => s.camLost i 1
      | none => s) s c.onMoved
  let s := match c.grant with
    | some (i, y) =>
      let x := s.inst i
      let s := s.setInst i { x with
        camBase := y.camBase, camCount := y.camCount, camQuota := y.camQuota, camAz128 := y.camAz128
        camStart := y.camStart, camLen := y.camLen, camGap := y.camGap }
      let level := fun (p : Place) =>
        if p.valid = true ∧ y.camAz128 = true ∧ y.camBase ≤ p.ctx ∧ p.ctx < y.camBase + y.camCount then { p with prio := 0 } else p
      { s with cam := { s.cam with places := mmap {} level s.cam.places } }
    | none => s
  s.camFinish c.pendCmd c.pendResult

/-- Begin a change: its moves are made one by one by CAM_MOVE; with none it takes effect at once. -/
def State.camChange (s : State) (cmd : Option (Nat × Nat)) (result : DWord) (moves : List (Nat × Nat)) (put : List (Nat × Place))
    (grant : Option (Nat × Inst)) : State :=
  let s := { s with cam := { s.cam with moves := moves, onMoved := put, pendCmd := cmd, pendResult := result, grant := grant } }
  if moves = [] then s.camApply else s

/-- Clear the entries under some indices. -/
def State.camClearAt (s : State) (l : List Nat) : State :=
  { s with cam := l.foldl (fun c k => c.clear k) s.cam }

/-- CAM_INSERT (R390, R391, R393). -/
def execCamInsert (q tag : Nat) (block : HostRead) (cqOk : Bool) (s : State) : Answer := answering cqOk s fun s =>
  s.camCommand 1 q tag block true (fun s x r =>
    let l := s.cam.regionEntries x
    let e := r.place
    if x.camAz128 then
      let n := l.length
      if n < r.pos then s.refuse q tag 0x11
      else if x.camQuota ≤ n then s.refuse q tag 0x2C
      else
        let up := (List.range (n - r.pos)).map (fun j => (x.camStart + n - 1 - j, x.camStart + n - j))
        s.camChange (some (q, tag)) 0 up [(x.camStart + r.pos, e)] none
    else if l.any (fun f => f.2.same e) then s.refuse q tag 0x11
    else if x.camQuota ≤ l.length then s.refuse q tag 0x2C
    else match s.cam.nativeRoom x e with
      | none => s.refuse q tag 0x2C
      | some (k, moves) => s.camChange (some (q, tag)) 0 moves [(k, e)] none)

/-- The entry a DELETE, UPDATE or READ acts on: at the position in an AZ128 region, else the equal one; its index. A
position at or above the live count is refused (R391, R393). -/
def Cam.target (c : Cam) (x : Inst) (r : CamReq) : Except Code (Option (Nat × Place)) :=
  let l := c.regionEntries x
  if x.camAz128 then
    if l.length ≤ r.pos then .error 0x11 else .ok (l.find? (fun e => decide (e.1 = x.camStart + r.pos)))
  else .ok (l.find? (fun e => e.2.same r.place))

/-- CAM_DELETE: the place is cleared; an AZ128 region closes the gap (R390, R391). -/
def execCamDelete (q tag : Nat) (block : HostRead) (cqOk : Bool) (s : State) : Answer := answering cqOk s fun s =>
  s.camCommand 2 q tag block true (fun s x r => match s.cam.target x r with
    | .error c => s.refuse q tag c
    | .ok none => s.succeed q tag 0x03 0
    | .ok (some (k, _)) =>
      let s := s.camClearAt [k]
      s.camChange (some (q, tag)) 0 (if x.camAz128 then closeGaps x.camStart (s.cam.regionEntries x) else []) [] none)

/-- CAM_UPDATE: the result is rewritten (R386, R393). -/
def execCamUpdate (q tag : Nat) (block : HostRead) (cqOk : Bool) (s : State) : Answer := answering cqOk s fun s =>
  s.camCommand 3 q tag block true (fun s x r => match s.cam.target x r with
    | .error c => s.refuse q tag c
    | .ok none => s.succeed q tag 0x03 0
    | .ok (some (k, _)) =>
      let s := match s.cam.entryAt k with
        | some (i, p) => s.setPlace i { p with result := r.result }
        | none => s
      s.succeed q tag 0x00 0)

/-- CAM_READ: the entry in the layout of the request block at APTR (R393); it waits for a change under way (R394). -/
def execCamRead (q tag : Nat) (block : HostRead) (w : HostWrite) (cqOk : Bool) (s : State) : Answer := answering cqOk s fun s =>
  s.camCommand 4 q tag block true (fun s x r => match s.cam.target x r with
    | .error c => s.refuse q tag c
    | .ok none => s.succeed q tag 0x03 0
    | .ok (some (k, p)) =>
      let a := match s.op q tag with | some o => Sqe.aptr o.sqe | none => 0
      match w with
      | .fault f => s.fail true q tag 0x42 f 0
      | .ok => (s.auxWrite q tag a (p.block (if x.camAz128 then k - x.camStart else 0))).succeed q tag 0x00 0)

/-- CAM_CLEAR: every entry of the context is deleted; an AZ128 region closes the gaps (R393). -/
def execCamClear (q tag : Nat) (block : HostRead) (cqOk : Bool) (s : State) : Answer := answering cqOk s fun s =>
  s.camCommand 5 q tag block true (fun s x r =>
    let gone := (s.cam.regionEntries x).filter (fun e => decide (e.2.ctx = r.ctx))
    let s := s.camClearAt (gone.map (·.1))
    s.camChange (some (q, tag)) (BitVec.ofNat 64 gone.length)
      (if x.camAz128 then closeGaps x.camStart (s.cam.regionEntries x) else []) [] none)

/-! ### CAM_GRANT (R83, R388, R389) -/

/-- The CAM part of an instance as CAM_GRANT would leave it; none when no free run of places is long enough, or when the
quota is below its live entries (R388). A region is made anew when its layout or its size changes. -/
def State.camGranted (s : State) (i : Nat) (e : Sqe) : Option Inst :=
  let x := s.inst i
  let az := decide (Sqe.subop e = 1)
  let quota := Sqe.field e 44 4
  let gap := s.param 0x060040 16
  let y := { x with camBase := Sqe.field e 40 2, camCount := Sqe.field e 42 2, camQuota := quota, camAz128 := az }
  let n := regionPlaces quota gap az
  if quota < (s.cam.regionEntries x).length then none
  else if az = x.camAz128 ∧ (quota = x.camQuota ∨ n = x.camLen) then some y
  else if n = 0 then some { y with camStart := 0, camLen := 0, camGap := gap }
  else (freeRun s.camRegions n 300 0).map (fun k => { y with camStart := k, camLen := n, camGap := gap })

/-- CAM_GRANT: entries whose contexts leave the range are cleared, the others move into the new region in order, and the
command completes when the last move commits. -/
def execCamGrant (q tag : Nat) (cqOk : Bool) (s : State) : Answer := answering cqOk s fun s =>
  s.custodian q tag 0x87 (fun _ => true)
    (fun e _ =>
      let i := fInstance e
      let (b, n) := (Sqe.field e 40 2, Sqe.field e 42 2)
      if custodianOk e (decide (b + n ≤ 65536)) = false then some 0x11
      else if s.hq.insts.any (fun x => decide (x.1 ≠ i) && rangesShare b n x.2.camBase x.2.camCount) = true then some 0x13
      else if (s.camGranted i e).isNone then some 0x2C else none)
    (fun e o =>
      let i := fInstance e
      if s.cam.changing = true ∨ s.cam.placing ≠ [] then s
      else match s.camGranted i e with
        | none => s.refuse q tag 0x2C
        | some y =>
          let x := s.inst i
          let s := s.setOp q tag (some o)
          let out := (s.cam.regionEntries x).filter (fun (f : Nat × Place) => decide (f.2.ctx < y.camBase ∨ y.camBase + y.camCount ≤ f.2.ctx))
          let s := s.camClearAt (out.map (·.1))
          let moves := if y.camStart = x.camStart ∧ y.camLen = x.camLen ∧ y.camAz128 = x.camAz128 then
              (if y.camAz128 then closeGaps x.camStart (s.cam.regionEntries x) else [])
            else s.cam.regionMoves x y
          s.camChange (some (q, tag)) 0 moves [] (some (i, y)))

/-! ### Searches -/

/-- The first search of a port that may start, and the port without it (R385, R429). -/
def State.portSearch (s : State) (p : Nat) : Option (Search × List Search) :=
  let l := mget [] s.cam.waiting p
  let ok := fun (x : Search) => !s.camHeld x.ctx
  (l.find? ok).map (fun x => (x, removeFirst ok l))

/-- SEARCH_START: the CAM grants one search to the next of its 9 ports in turn that has one to start; it sees the table
as it stands now (R382 to R386). -/
def execSearchStart (s : State) : Answer :=
  match ((List.range 9).map (fun d => (s.cam.nextPort + d) % 9)).find? (fun p => (s.portSearch p).isSome) with
  | none => .next s
  | some p => match s.portSearch p with
    | none => .next s
    | some (x, rest) =>
      let (r, s) := s.camLookup x.inst x.key x.ctx
      .next { s with cam := { s.cam with
        waiting := mset [] s.cam.waiting p rest
        flying := s.cam.flying ++ [{ x with resp := some r, startAt := s.now }]
        nextPort := (p + 1) % 9 } }

/-- Write the response of a CAMS at its D operand, where it lies in memory the item's instance may write now (R395). -/
def State.writeResponse (s : State) (t inst a : Nat) (b : Bytes) : State :=
  match s.placeOf t (s.core t) true a b.length with
  | some (.bank n) => if s.bankReady t n = true ∧ (s.bank t n).admitsCore (s.core t) = true then s.devWrite t a b else s
  | some .data => s.devWrite t a b
  | some (.window w off) => s.writeWindow t (winKey inst w) off b
  | _ => s

/-- SEARCH_RESPONSE: the oldest search in flight answers, 36 spine cycles after its start (R385). A CAMS response is
written into the core's bank if the bank admits the instance, and sets `TL_EVP.CAM` either way; a CAM command completes
(R384, R393, R395). -/
def execSearchResponse (w : HostWrite) (cqOk : Bool) (s : State) : Answer := answering cqOk s fun s =>
  match s.cam.flying with
  | [] => .next s
  | x :: rest =>
    let r := x.resp.getD 0
    let s := ({ s with cam := { s.cam with flying := rest } }).reach (x.startAt + 23)
    match x.core, x.cmd with
    | some (t, n, a), _ =>
      (match (s.core t).item with
      | some me => if me.seq = n then
          let s := s.writeResponse t x.inst a.toNat (natLe 16 r.toNat)
          let s := s.setCore t { s.core t with camsOut := (s.core t).camsOut - 1 }
          .next (s.event t 4)
        else .next s
      | none => .next s)
    | none, some (q, tag) =>
      (match s.op q tag with
      | some o =>
        let a := Sqe.aptr o.sqe
        let done := fun (s : State) => s.succeed q tag (if respHit r then 0x00 else 0x03) (respResult r)
        .next (if a = 0 then done s else match w with
          | .fault f => s.fail true q tag 0x42 f 0
          | .ok => done (s.auxWrite q tag a (natLe 16 r.toNat)))
      | none => .next s)
    | none, none => .next s

/-! ### Moves (R387, R390) -/

/-- CAM_MOVE: the next move of the change under way is made; with no change under way, one background move of the first
native region that has a full group (R390). While a failed segment's entries are being placed, nothing moves. -/
def execCamMove (cqOk : Bool) (s : State) : Answer := answering cqOk s fun s =>
  if s.cam.placing ≠ [] then .next s
  else match s.cam.moves with
    | (p, q) :: rest =>
      let s := { s with cam := { s.cam.move p q with moves := rest } }
      .next (if rest = [] then s.camApply else s)
    | [] =>
      match s.hq.insts.findSome? (fun e => s.cam.rebalance e.2) with
      | some (p, q) => .next { s with cam := s.cam.move p q }
      | none => .next s

/-! ### Segment failures (R428, R429) -/

/-- The entries of a table of places, by instance: how many each instance has among them. -/
def State.camOwners (s : State) (l : List Place) : List (Nat × Nat) :=
  (s.hq.insts.map (fun e => (e.1, (l.filter (fun p => e.2.hasCam p.ctx)).length))).filter (fun e => decide (0 < e.2))

/-- Entries are lost: one health event for each instance. -/
def State.camLostAll (s : State) (l : List Place) : State :=
  foldS (fun (s : State) (e : Nat × Nat) => s.camLost e.1 e.2) s (s.camOwners l)

/-- Take a segment out of service: its live entries wait in the overflow directory to be placed again, or are lost when no
DRAM is fitted (R398, R429). -/
def State.segmentFails (s : State) (seg : Nat) : State :=
  let mine := fun (e : Nat × Place) => decide (e.1 / Config.camSegPlaces = seg)
  let live := s.cam.places.filter (fun e => mine e && e.2.valid && !e.2.shadow)
  let s := { s with cam := { s.cam with
    inService := setBit s.cam.inService seg false
    places := s.cam.places.filter (fun e => !mine e) } }
  let s := s.cellGone 8 seg noRegion noRegion noLink
  if s.hq.dramPresent then
    { s with cam := { s.cam with
        directory := live.foldl (fun d e => mset {} d e.1 { e.2 with old := some (e.2.index e.1) }) s.cam.directory
        placing := s.cam.placing ++ [seg] } }
  else s.camLostAll (live.map (·.2))

/-- CAM_PARITY_SCAN: the background scan has checked the array; `failing` is a place whose parity bit is wrong. The place
is rewritten from the overflow directory; a second failure in its segment within 1 s takes the segment out of service
(R428). Without DRAM there is no directory to rewrite it from, and its entry is lost. -/
def execCamParityScan (failing : Option Nat) (s : State) : Answer :=
  match failing with
  | none => .next s
  | some i =>
    let seg := i / Config.camSegPlaces
    if s.cam.scanEn = false ∨ Config.camPlaces ≤ i ∨ bit s.cam.inService seg = false then .next s
    else
      let last := mget 0 s.cam.failAt seg
      let again := decide (last ≠ 0 ∧ s.now + 1 < last + 1000000000)
      let s := { s with cam := { s.cam with
        parity := satAdd 65535 s.cam.parity 1
        errSeg := BitVec.ofNat 4 seg
        errValid := true
        failAt := mset 0 s.cam.failAt seg (s.now + 1) } }
      let s := s.raise 0x90B
      if again then .next (s.segmentFails seg)
      else
        let p := s.place i
        if s.hq.dramPresent = true ∨ p.valid = false then .next s
        else .next ((s.setPlace i {}).camLostAll [p])

/-- CAM_SEGMENT_PLACING_DONE: the entries of a failed segment stand in free places outside it, each under its old index;
one that finds no place is lost. Searches held for them go on (R429). -/
def execCamSegmentPlacingDone (seg : Nat) (s : State) : Answer :=
  if s.cam.placing.contains seg = false then .next s
  else
    let mine := s.cam.directory.filter (fun e => decide (e.1 / Config.camSegPlaces = seg))
    let c := { s.cam with
      placing := s.cam.placing.filter (fun x => decide (x ≠ seg))
      directory := s.cam.directory.filter (fun e => decide (e.1 / Config.camSegPlaces ≠ seg)) }
    let (c, lost) := mine.foldl (fun (acc : Cam × List Place) e =>
      match acc.1.freePlace (Config.camPlaces + 1) 0 with
      | some i => ({ acc.1 with places := mset {} acc.1.places i e.2 }, acc.2)
      | none => (acc.1, acc.2 ++ [e.2])) (c, ([] : List Place))
    .next ((({ s with cam := c }).camLostAll lost).pumpRuns true)

end Sys2Proof.Machine
end

