-- ==== Sys2Proof/Machine/Encoding.lean ====
section
/-! DEFINITION. Pytan instruction words as they lie in an image (R234 to R238). -/

namespace Sys2Proof.Machine

/-- Whether a specifier takes an extension word (R236). -/
def specExt (s : Nat) : Bool := decide (s / 8 = 2 ∨ s / 8 = 3 ∨ s / 8 = 6 ∨ s = 0x38 ∨ s = 0x3E)

/-- An operand from its specifier and extension word. -/
def decodeOpd (s : Nat) (e : Word) : Opd :=
  let r : BitVec 3 := BitVec.ofNat 3 s
  match s / 8 with
  | 0 => .reg r
  | 1 => .ind r
  | 2 => .disp r e
  | 3 => .idx r (e.extractLsb' 16 3) (e.extractLsb' 19 2) (e.extractLsb' 0 16) (e.extractLsb' 21 11)
  | 4 => .postInc r
  | 5 => .preDec r
  | 6 => .abs e
  | _ => match s % 8 with
    | 0 => .imm e
    | 1 => .lk
    | 2 => .rc
    | 3 => .fl
    | 4 => .timeLo
    | 5 => .timeHi
    | 6 => .pcRel e
    | _ => .zero

/-- A decoded instruction: opcode, fields, length in bytes, first word. -/
structure Decoded where
  op : Nat
  x : PyI
  len : Nat
  word : Word
deriving DecidableEq, Repr

/-- The word at an offset of an image. -/
def imgWord (b : Bytes) (off : Nat) : Word := BitVec.ofNat 32 (fieldLe b off 4)

/-- Decode the instruction at an offset; none when it runs past `top`. Fields the opcode does not use keep their
specifier, with no extension word. -/
def decodeAt (b : Bytes) (top off : Nat) : Option Decoded :=
  if top < off + 4 then none
  else
    let w := imgWord b off
    let op := bits w 24 8
    let i := (opInfo op).getD {}
    let sd := bits w 16 6
    let s1 := bits w 10 6
    let s2 := bits w 4 6
    let nd := if i.d && specExt sd then 1 else 0
    let n1 := if i.s1 && specExt s1 then 1 else 0
    let n2 := if i.s2 && specExt s2 then 1 else 0
    let len := 4 * (1 + nd + n1 + n2)
    let width := match bits w 22 2 with
      | 0 => Width.b
      | 1 => Width.h
      | 2 => Width.w
      | _ => Width.d
    if top < off + len then none
    else
      let x : PyI := {
        width := width
        d := decodeOpd sd (if nd = 1 then imgWord b (off + 4) else 0)
        s1 := decodeOpd s1 (if n1 = 1 then imgWord b (off + 4 + 4 * nd) else 0)
        s2 := decodeOpd s2 (if n2 = 1 then imgWord b (off + 4 + 4 * nd + 4 * n1) else 0)
        cond := w.extractLsb' 0 4 }
      some { op := op, x := x, len := len, word := w }

/-- The end of an image's code (R271). -/
def codeEnd (b : Bytes) : Nat := 16 + 4 * fieldLe b 6 2 + fieldLe b 8 4
/-- The start of its code. -/
def codeStart (b : Bytes) : Nat := 16 + 4 * fieldLe b 6 2

/-- The length of the instruction at a PC of a core's image; 4 where none decodes. -/
def State.lenAt (s : State) (k : Core) (pc : Nat) : Nat :=
  match k.image with
  | some (i, h) => (match s.imageOf i h with
    | some (b, _, _) => (match decodeAt b (codeEnd b) (pc - codeBase) with | some d => d.len | none => 4)
    | none => 4)
  | none => 4

end Sys2Proof.Machine
end

