-- ==== Sys2Proof/Machine/Flags.lean ====
section
/-! DEFINITION. What Pytan operations compute (R250 to R253): results and flags at a width of `n` bytes, on values below
2^(8n). -/

namespace Sys2Proof.Machine

/-- The flags an instruction sets; none leaves a flag as it is. -/
structure FlagUp where
  z : Option Bool := none
  n : Option Bool := none
  c : Option Bool := none
  v : Option Bool := none
deriving DecidableEq, Repr

/-- Apply a flag change. -/
def Core.flags (k : Core) (f : FlagUp) : Core :=
  { k with z := f.z.getD k.z, n := f.n.getD k.n, c := f.c.getD k.c, v := f.v.getD k.v }

/-- Width in bits. -/
def wbits (n : Nat) : Nat := 8 * n
/-- The most significant bit at a width. -/
def msb (n v : Nat) : Bool := v.testBit (8 * n - 1)
/-- A value as a signed number at a width. -/
def sval (n v : Nat) : Int := if msb n v then (v : Int) - 2 ^ (8 * n) else v
/-- A signed number as a value at a width. -/
def wrap (n : Nat) (i : Int) : Nat := (i % 2 ^ (8 * n)).toNat

/-- Z and N of a result. -/
def flZN (n v : Nat) : FlagUp := { z := some (decide (v = 0)), n := some (msb n v) }
/-- Z and N, with C and V given. -/
def flAll (n v : Nat) (c o : Bool) : FlagUp := { flZN n v with c := some c, v := some o }
/-- Z and N, C and V cleared. -/
def flLogic (n v : Nat) : FlagUp := flAll n v false false
/-- Z, with N cleared. -/
def flCount (v : Nat) : FlagUp := { z := some (decide (v = 0)), n := some false }

/-- Sum with carry in: carry out of the exact sum, overflow of the signed one (R225, R251). -/
def addOp (n a b cin : Nat) : Nat × FlagUp :=
  let r := (a + b + cin) % 2 ^ (8 * n)
  (r, flAll n r (decide (2 ^ (8 * n) ≤ a + b + cin)) (decide (sval n r ≠ sval n a + sval n b + cin)))

/-- Difference with borrow in; C is 1 on borrow. -/
def subOp (n a b bin : Nat) : Nat × FlagUp :=
  let r := wrap n ((a : Int) - b - bin)
  (r, flAll n r (decide (a < b + bin)) (decide (sval n r ≠ sval n a - sval n b - bin)))

/-- A count for a shift, rotate or bit: S2 modulo the width in bits. -/
def shCount (n b : Nat) : Nat := b % (8 * n)

/-- Shift left: C is the last bit out, 0 for a count of 0. -/
def shlOp (n a b : Nat) : Nat × FlagUp :=
  let k := shCount n b
  let r := a * 2 ^ k % 2 ^ (8 * n)
  (r, flAll n r (if k = 0 then false else a.testBit (8 * n - k)) false)

def shrOp (n a b : Nat) : Nat × FlagUp :=
  let k := shCount n b
  let r := a / 2 ^ k
  (r, flAll n r (if k = 0 then false else a.testBit (k - 1)) false)

def sarOp (n a b : Nat) : Nat × FlagUp :=
  let k := shCount n b
  let r := wrap n (sval n a / 2 ^ k)
  (r, flAll n r (if k = 0 then false else a.testBit (k - 1)) false)

/-- Rotate left: C is the last bit rotated; a rotate by 0 rotates none and gives 0. -/
def rolOp (n a b : Nat) : Nat × FlagUp :=
  let k := shCount n b
  let r := (a * 2 ^ k + a / 2 ^ (8 * n - k)) % 2 ^ (8 * n)
  (r, flAll n r (if k = 0 then false else r.testBit 0) false)

def rorOp (n a b : Nat) : Nat × FlagUp :=
  let k := shCount n b
  let r := (a / 2 ^ k + a * 2 ^ (8 * n - k)) % 2 ^ (8 * n)
  (r, flAll n r (if k = 0 then false else msb n r) false)

def setbOp (n a b : Nat) : Nat × FlagUp := let r := a ||| 2 ^ shCount n b; (r, flZN n r)
def flpbOp (n a b : Nat) : Nat × FlagUp := let r := a ^^^ 2 ^ shCount n b; (r, flZN n r)
def clrbOp (n a b : Nat) : Nat × FlagUp :=
  let r := if a.testBit (shCount n b) then a - 2 ^ shCount n b else a
  (r, flZN n r)

/-- The field of FLDU and FLDS: p = S2[5:0], l = S2[13:8]; bits above the width read 0. -/
def fldRaw (a b : Nat) : Nat := a / 2 ^ (b % 64) % 2 ^ (b / 256 % 64)
def flduOp (n a b : Nat) : Nat × FlagUp := let r := fldRaw a b % 2 ^ (8 * n); (r, flZN n r)
def fldsOp (n a b : Nat) : Nat × FlagUp :=
  let l := b / 256 % 64
  let f := fldRaw a b
  let r := if l = 0 then 0 else wrap n (if f.testBit (l - 1) then (f : Int) - 2 ^ l else f)
  (r, flZN n r)

/-- Sign-extension from a width to a width. -/
def widenOp (n a m : Nat) : Nat × FlagUp :=
  let r := wrap n (sval m (a % 2 ^ (8 * m)))
  (r, flZN n r)

/-- Ones in the low `k` bits of a value. -/
def ones : Nat → Nat → Nat
  | 0, _ => 0
  | k + 1, a => (if a.testBit k then 1 else 0) + ones k a
def popcOp (n a : Nat) : Nat × FlagUp := let r := ones (8 * n) a; (r, flCount r)
/-- Leading zeros of the low `k` bits. -/
def lead : Nat → Nat → Nat
  | 0, _ => 0
  | k + 1, a => if a.testBit k then 0 else 1 + lead k a
def clzOp (n a : Nat) : Nat × FlagUp := let r := lead (8 * n) a; (r, flCount r)

def mulOp (n a b : Nat) : Nat × FlagUp := let r := a * b % 2 ^ (8 * n); (r, flLogic n r)
def mulhOp (n a b : Nat) (sgn : Bool) : Nat × FlagUp :=
  let r := if sgn then wrap n (sval n a * sval n b / 2 ^ (8 * n)) else a * b / 2 ^ (8 * n)
  (r, flLogic n r)
/-- Whether a is below b. -/
def below (n a b : Nat) (sgn : Bool) : Bool := if sgn then decide (sval n a < sval n b) else decide (a < b)
def minOp (n a b : Nat) (sgn : Bool) : Nat × FlagUp := let r := if below n b a sgn then b else a; (r, flZN n r)
def maxOp (n a b : Nat) (sgn : Bool) : Nat × FlagUp := let r := if below n a b sgn then b else a; (r, flZN n r)

/-- The conditions of SKIP (R253), FL.E given. -/
def Core.holds (k : Core) (e : Bool) (cond : Nat) : Bool :=
  match cond with
  | 0 => k.z
  | 1 => !k.z
  | 2 => k.c
  | 3 => !k.c
  | 4 => k.n
  | 5 => !k.n
  | 6 => k.v
  | 7 => !k.v
  | 8 => !k.c && !k.z
  | 9 => k.c || k.z
  | 10 => decide (k.n = k.v)
  | 11 => decide (k.n ≠ k.v)
  | 12 => !k.z && decide (k.n = k.v)
  | 13 => k.z || decide (k.n ≠ k.v)
  | 14 => true
  | _ => e

end Sys2Proof.Machine
end

