-- ==== Sys2Proof/Machine/Pytan.lean ====
section
/-! DEFINITION. The Pytan instructions (10): issue, skipping, delay slots, repeats, waits and posts. -/

namespace Sys2Proof.Machine

/-! ### Issue (R249, R254 to R258, R269) -/

/-- Why an instruction cannot issue, where its words can be fetched: the first cause, its code and operand. -/
def State.issueFault (s : State) (k : Core) (op : Nat) (x : PyI) : Option (Nat × Nat) :=
  let pc := k.pc.toNat
  let img := match k.image with | some (i, h) => s.imageOf i h | none => none
  match img with
  | none => some (4, 4)
  | some (b, _, land) =>
    if (k.indirect = true ∧ k.delay = none ∧ land.contains (pc - codeBase) = false) ∨ pc % 4 ≠ 0 ∨ pc < codeBase ∨
        codeBase + b.length < pc + pyLen x op then some (4, 4)
    else if k.rpt.isSome ∧ isString op = false then some (3, 0)
    else if pyLegal x op = false then some (1, 0)
    else if k.delay.isSome ∧ isControl op = true then some (2, 0)
    else none

/-- The core after an instruction: past it, or at the target of a transfer whose delay slot it was (R254). -/
def Core.advance (k : Core) (slot : Option Word) (len : Nat) : Core :=
  match slot with
  | some t => { k with pc := t, delay := none, rpt := none }
  | none => { k with pc := k.pc + BitVec.ofNat 32 len, rpt := none }

/-- The PC a fault reports: the instruction's, or its RPT prefix's. -/
def Core.faultPc (k : Core) : Word := match k.rpt with | some (p, _) => p | none => k.pc

/-- Skip an instruction: it counts as issued and does nothing else (R257). -/
def Core.skipOver (k : Core) (len : Nat) : Core :=
  { k with pc := k.pc + BitVec.ofNat 32 len, skip := false, rpt := none, issued := k.issued + 1 }

/-- Fetch the words of the instruction at the PC of core `t` from the code area, as master 15 (R300, R302, R316); false when
one is uncorrectable. -/
def State.fetch (s : State) (t op : Nat) (x : PyI) : Bool × State :=
  let w := ((s.core t).pc.toNat - 0x1E0000) / 4
  foldS (fun (acc : Bool × State) (i : Nat) =>
    match acc with
    | (false, s) => (false, s)
    | (true, s) => match s.readWord t 15 (w + i) 15 with
      | (some _, s) => (true, s)
      | (none, s) => (false, s)) (true, s) (List.range (pyLen x op / 4))

/-- The fetch of an instruction of core `t`, then `go`: a window violation comes before it, an uncorrectable word of it before
the causes of decoding (R268, R269). In retention the code area makes the fetch wait (R314). -/
def State.fetchThen (s : State) (t op : Nat) (x : PyI) (go : State → State) : State :=
  let pc := (s.core t).faultPc
  match s.issueFault (s.core t) op x with
  | some (4, o) => s.faultItem t 4 o 0 pc
  | cause =>
    if s.groupAwake t 15 = false then s
    else match s.fetch t op x, cause with
      | (false, s), _ => s.faultItem t 6 4 0 pc
      | (true, s), some (c, o) => s.faultItem t c o 0 pc
      | (true, s), none => go s

/-- Issue an instruction that is not skipped: owner writes come due, then its body runs on a working copy of the core. -/
def State.issueNow (s : State) (t op : Nat) (x : PyI) (body : State → Core → Ev Unit) : State :=
  s.fetchThen t op x fun s =>
    let k := s.core t
    let s1 := s.setCore t { k with issued := k.issued + 1, lastPc := k.faultPc, indirect := k.indirect && k.delay.isSome }
    let s1 := s1.coreHandovers t false
    match body s1 (s1.core t) with
    | .stall => s
    | .fault c o a s' => s'.faultItem t c o a k.faultPc
    | .ok () s' k' => s'.setCore t (k'.advance k.delay (pyLen x op))

/-- Issue the next instruction of core `t` (R249). With a skip pending it is skipped whole; where an RPT prefix was skipped
alone, the instruction after it runs. -/
def State.issue (s : State) (t op : Nat) (x : PyI) (body : State → Core → Ev Unit) : State :=
  let k := s.core t
  match k.mode, k.item with
  | .running, some _ =>
    if k.clockOff then s
    else if k.skip then
      if k.rpt.isSome ∧ isString op = false then
        (s.setCore t { k with skip := false, rpt := none, issued := k.issued + 1 }).issueNow t op x body
      else s.setCore t (k.skipOver (pyLen x op))
    else s.issueNow t op x body
  | _, _ => s

/-- Let `f` act on the state with the working core in place, and go on with what it leaves. -/
def withCore (t : Nat) (s : State) (k : Core) (f : State → State) : Ev Unit :=
  let s := f (s.setCore t k)
  .ok () s (s.core t)

/-- An instruction that computes D from S1 and S2: operands S1, S2, D in order, the destination last (R239, R250). -/
def State.compute (s : State) (t op : Nat) (x : PyI) (f : Nat → Nat → Nat → Nat → Nat × FlagUp) : State :=
  let n := wbytes x.width
  s.issue t op x (fun s k =>
    (s.source t k 1 n x.s1).bind (fun a s k =>
      (s.source t k 2 n x.s2).bind (fun b s k =>
        let r := f n a b (if k.c then 1 else 0)
        (s.dest t k n r.1 x.d).bind (fun _ s k => .ok () s (if x.d = .fl then k else k.flags r.2)))))

/-! ### Arithmetic and logic -/

/-- MOV: D = S1. -/
def execMov (c : Nat) (x : PyI) (s : State) : Answer := .next (s.compute c 0x01 x (fun n a _ _ => (a, flZN n a)))
/-- ADD: D = S1 + S2. -/
def execAdd (c : Nat) (x : PyI) (s : State) : Answer := .next (s.compute c 0x02 x (fun n a b _ => addOp n a b 0))
/-- ADDC: D = S1 + S2 + C. -/
def execAddc (c : Nat) (x : PyI) (s : State) : Answer := .next (s.compute c 0x03 x (fun n a b cy => addOp n a b cy))
/-- SUB: D = S1 − S2. -/
def execSub (c : Nat) (x : PyI) (s : State) : Answer := .next (s.compute c 0x04 x (fun n a b _ => subOp n a b 0))
/-- SUBC: D = S1 − S2 − C. -/
def execSubc (c : Nat) (x : PyI) (s : State) : Answer := .next (s.compute c 0x05 x (fun n a b cy => subOp n a b cy))
/-- NEG: D = 0 − S1. -/
def execNeg (c : Nat) (x : PyI) (s : State) : Answer := .next (s.compute c 0x06 x (fun n a _ _ => subOp n 0 a 0))
/-- AND. -/
def execAnd (c : Nat) (x : PyI) (s : State) : Answer := .next (s.compute c 0x08 x (fun n a b _ => (a &&& b, flLogic n (a &&& b))))
/-- OR. -/
def execOr (c : Nat) (x : PyI) (s : State) : Answer := .next (s.compute c 0x09 x (fun n a b _ => (a ||| b, flLogic n (a ||| b))))
/-- XOR. -/
def execXor (c : Nat) (x : PyI) (s : State) : Answer := .next (s.compute c 0x0A x (fun n a b _ => (a ^^^ b, flLogic n (a ^^^ b))))
/-- ANDN: D = S1 AND NOT S2. -/
def execAndn (c : Nat) (x : PyI) (s : State) : Answer :=
  .next (s.compute c 0x0B x (fun n a b _ => let r := a &&& (2 ^ (8 * n) - 1 - b); (r, flLogic n r)))
/-- NOT. -/
def execNot (c : Nat) (x : PyI) (s : State) : Answer :=
  .next (s.compute c 0x0C x (fun n a _ _ => let r := 2 ^ (8 * n) - 1 - a; (r, flLogic n r)))
/-- SHL. -/
def execShl (c : Nat) (x : PyI) (s : State) : Answer := .next (s.compute c 0x10 x (fun n a b _ => shlOp n a b))
/-- SHR. -/
def execShr (c : Nat) (x : PyI) (s : State) : Answer := .next (s.compute c 0x11 x (fun n a b _ => shrOp n a b))
/-- SAR. -/
def execSar (c : Nat) (x : PyI) (s : State) : Answer := .next (s.compute c 0x12 x (fun n a b _ => sarOp n a b))
/-- ROL. -/
def execRol (c : Nat) (x : PyI) (s : State) : Answer := .next (s.compute c 0x13 x (fun n a b _ => rolOp n a b))
/-- ROR. -/
def execRor (c : Nat) (x : PyI) (s : State) : Answer := .next (s.compute c 0x14 x (fun n a b _ => rorOp n a b))
/-- SETB. -/
def execSetb (c : Nat) (x : PyI) (s : State) : Answer := .next (s.compute c 0x18 x (fun n a b _ => setbOp n a b))
/-- CLRB. -/
def execClrb (c : Nat) (x : PyI) (s : State) : Answer := .next (s.compute c 0x19 x (fun n a b _ => clrbOp n a b))
/-- FLPB. -/
def execFlpb (c : Nat) (x : PyI) (s : State) : Answer := .next (s.compute c 0x1A x (fun n a b _ => flpbOp n a b))
/-- FLDU. -/
def execFldu (c : Nat) (x : PyI) (s : State) : Answer := .next (s.compute c 0x1B x (fun n a b _ => flduOp n a b))
/-- FLDS. -/
def execFlds (c : Nat) (x : PyI) (s : State) : Answer := .next (s.compute c 0x1C x (fun n a b _ => fldsOp n a b))
/-- WIDEN: from the width of condition [1:0]. -/
def execWiden (c : Nat) (x : PyI) (s : State) : Answer := .next (s.compute c 0x1D x (fun n a _ _ => widenOp n a (2 ^ x.cond.toNat)))
/-- POPC. -/
def execPopc (c : Nat) (x : PyI) (s : State) : Answer := .next (s.compute c 0x1E x (fun n a _ _ => popcOp n a))
/-- CLZ. -/
def execClz (c : Nat) (x : PyI) (s : State) : Answer := .next (s.compute c 0x1F x (fun n a _ _ => clzOp n a))
/-- MUL. -/
def execMul (c : Nat) (x : PyI) (s : State) : Answer := .next (s.compute c 0x20 x (fun n a b _ => mulOp n a b))
/-- MULH. -/
def execMulh (c : Nat) (x : PyI) (s : State) : Answer := .next (s.compute c 0x21 x (fun n a b _ => mulhOp n a b (bit x.cond 0)))
/-- MIN. -/
def execMin (c : Nat) (x : PyI) (s : State) : Answer := .next (s.compute c 0x22 x (fun n a b _ => minOp n a b (bit x.cond 0)))
/-- MAX. -/
def execMax (c : Nat) (x : PyI) (s : State) : Answer := .next (s.compute c 0x23 x (fun n a b _ => maxOp n a b (bit x.cond 0)))
/-- ADR: the effective address of S1, with no access (R252). -/
def execAdr (c : Nat) (x : PyI) (s : State) : Answer :=
  .next (s.issue c 0x24 x (fun s k => let (a, k) := k.address 4 x.s1; s.dest c k 4 a.toNat x.d))
/-- NOP. -/
def execNop (c : Nat) (x : PyI) (s : State) : Answer := .next (s.issue c 0x35 x (fun s k => .ok () s k))

/-! ### Control transfer (R253 to R258) -/

/-- Whether a transfer is an immediate jump (R256). -/
def isImm : Opd → Bool
  | .imm _ => true
  | _ => false

/-- JMP: the transfer takes effect after the delay slot. -/
def execJmp (c : Nat) (x : PyI) (s : State) : Answer :=
  .next (s.issue c 0x30 x (fun s k => (s.source c k 1 4 x.s1).bind (fun a s k =>
    .ok () s { k with delay := some (BitVec.ofNat 32 a), indirect := !isImm x.s1 })))

/-- CALL: as JMP; LK takes the address after the delay slot (R255). -/
def execCall (c : Nat) (x : PyI) (s : State) : Answer :=
  .next (s.issue c 0x31 x (fun s k => (s.source c k 1 4 x.s1).bind (fun a s k =>
    let slot := k.pc.toNat + pyLen x 0x31
    let k := k.setLk (BitVec.ofNat 32 (slot + s.lenAt k slot))
    .ok () s { k with delay := some (BitVec.ofNat 32 a), indirect := !isImm x.s1 })))

/-- SKIP (R253). -/
def execSkip (c : Nat) (x : PyI) (s : State) : Answer :=
  .next (s.issue c 0x32 x (fun s k => .ok () s { k with skip := k.holds k.eSeen x.cond.toNat }))

/-- SKIPBIT (R251). -/
def execSkipbit (c : Nat) (x : PyI) (s : State) : Answer :=
  let n := wbytes x.width
  .next (s.issue c 0x33 x (fun s k => (s.source c k 1 n x.s1).bind (fun a s k =>
    (s.source c k 2 n x.s2).bind (fun b s k =>
      .ok () s { k with skip := decide (a.testBit (shCount n b) = bit x.cond 0) }))))

/-- RPT: a prefix; it issues with the string instruction that follows it (R249, R258). A skipped one is skipped with it. -/
def State.prefixRpt (s : State) (t : Nat) (x : PyI) : State :=
  let k := s.core t
  match k.mode, k.item with
  | .running, some _ =>
    let next : Core := { k with pc := k.pc + 4, rpt := some (k.pc, bit x.cond 0) }
    if k.clockOff then s
    else if k.skip then
      if k.rpt.isSome then s.setCore t { next with skip := false, issued := k.issued + 1 } else s.setCore t next
    else s.fetchThen t 0x34 x fun s => s.setCore t { s.core t with pc := k.pc + 4, rpt := some (k.pc, bit x.cond 0), indirect := false }
  | _, _ => s
def execRpt (c : Nat) (x : PyI) (s : State) : Answer := .next (s.prefixRpt c x)

/-! ### String instructions (R251, R252, R258 to R260) -/

/-- Bump an address register past an element. -/
def Core.bump (k : Core) (r : BitVec 3) (n : Nat) : Core := k.setA r (k.abase r + BitVec.ofNat 32 n)

/-- Run elements while `n` is left: `one` processes an element and answers whether the repeat stops after it. RC counts
down with `rep`. -/
def repeatElems (one : State → Core → Ev Bool) (rep : Bool) : Nat → State → Core → Ev Unit
  | 0, s, k => .ok () s k
  | m + 1, s, k =>
    (one s k).bind (fun stop s k =>
      let k := if rep then { k with rc := BitVec.ofNat 32 m } else k
      if stop then .ok () s k else repeatElems one rep m s k)

/-- A string instruction, alone or repeated (R259). RPT.E stops between elements while FL.E is 1. -/
def State.stringOp (s : State) (t op : Nat) (x : PyI) (one : State → Core → Ev Bool) : State :=
  s.issue t op x (fun s k =>
    match k.rpt with
    | none => repeatElems one false 1 s k
    | some (_, e) =>
      let n := k.rcSeen.toNat
      if n = 0 ∨ (e = true ∧ k.eSeen = true) then .ok () s k
      else repeatElems one true n s (k.setRc k.rcSeen))

/-- Whether a compare stops the repeat (R259). -/
def cmpStops (x : PyI) (a b : Nat) : Bool :=
  decide (x.cond = 1 ∧ a ≠ b) || decide (x.cond = 2 ∧ a = b)

/-- SCOPY: [A5] = [A4]. -/
def execScopy (c : Nat) (x : PyI) (s : State) : Answer :=
  let n := wbytes x.width
  .next (s.stringOp c 0x38 x (fun s k =>
    (s.coreRead c k 1 6 (k.abase 4).toNat n).bind (fun b s k =>
      (s.coreWrite c k 3 (k.abase 5).toNat b).bind (fun _ s k => .ok false s ((k.bump 4 n).bump 5 n)))))

/-- SCOMP: compare [A4] − [A5]. -/
def execScomp (c : Nat) (x : PyI) (s : State) : Answer :=
  let n := wbytes x.width
  .next (s.stringOp c 0x39 x (fun s k =>
    (s.coreRead c k 1 6 (k.abase 4).toNat n).bind (fun a s k =>
      (s.coreRead c k 2 11 (k.abase 5).toNat n).bind (fun b s k =>
        .ok (cmpStops x (leNat a) (leNat b)) s (((k.bump 4 n).bump 5 n).flags (subOp n (leNat a) (leNat b) 0).2)))))

/-- SSEEK: compare [A4] − A0. -/
def execSseek (c : Nat) (x : PyI) (s : State) : Answer :=
  let n := wbytes x.width
  .next (s.stringOp c 0x3A x (fun s k =>
    (s.coreRead c k 1 6 (k.abase 4).toNat n).bind (fun a s k =>
      let v := lowBytes n (k.areg 0).toNat
      .ok (cmpStops x (leNat a) v) s ((k.bump 4 n).flags (subOp n (leNat a) v 0).2))))

/-- SFILL: [A5] = A0. -/
def execSfill (c : Nat) (x : PyI) (s : State) : Answer :=
  let n := wbytes x.width
  .next (s.stringOp c 0x3B x (fun s k =>
    (s.coreWrite c k 3 (k.abase 5).toNat (natLe n (k.areg 0).toNat)).bind (fun _ s k => .ok false s (k.bump 5 n))))

/-- SMAP: [A5] = the byte at A1 + [A4]. -/
def execSmap (c : Nat) (x : PyI) (s : State) : Answer :=
  .next (s.stringOp c 0x3C x (fun s k =>
    (s.coreRead c k 1 6 (k.abase 4).toNat 1).bind (fun a s k =>
      (s.coreRead c k 2 11 (k.abase 1 + BitVec.ofNat 32 (leNat a)).toNat 1).bind (fun b s k =>
        (s.coreWrite c k 3 (k.abase 5).toNat b).bind (fun _ s k => .ok false s ((k.bump 4 1).bump 5 1))))))

/-- SCRC: A0 takes the CRC-32C of itself and the bytes at [A4] (R252). -/
def execScrc (c : Nat) (x : PyI) (s : State) : Answer :=
  let n := wbytes x.width
  .next (s.stringOp c 0x3D x (fun s k =>
    (s.coreRead c k 1 6 (k.abase 4).toNat n).bind (fun b s k =>
      let v := foldS crc32cByte (k.areg 0) b
      let k := (k.bump 4 n).setA 0 v
      .ok false s (k.flags { z := some (decide (v = 0)) }))))

/-! ### Waits (R246, R261, R263, R265) -/

/-- DONE (R246): the end takes effect at DONE_TAKES_EFFECT. -/
def execDone (c : Nat) (x : PyI) (s : State) : Answer := .next (s.issue c 0x36 x (fun s k => .ok () s { k with mode := .done }))

/-- WFE (R261); leaving it on an event lets the item see what was fenced before the event was sent (R233). -/
def execWfe (c : Nat) (x : PyI) (s : State) : Answer :=
  .next (s.issue c 0x40 x (fun s k =>
    if k.eSeen then .ok () s { k with seen := Nat.max k.seen k.evSeen } else .ok () s { k with mode := .wfe }))

/-- WFE_WAKE: an enabled event is pending. -/
def execWfeWake (c : Nat) (s : State) : Answer :=
  let k := s.core c
  if k.mode = .wfe ∧ k.e = true then
    .next (s.setCore c { k with mode := .running, clockOff := false, seen := Nat.max k.seen k.evSeen })
  else .next s

/-- WAITT: S1 is a 64-bit device time (R263). -/
def execWaitt (c : Nat) (x : PyI) (s : State) : Answer :=
  .next (s.issue c 0x42 x (fun s k => (s.source c k 1 8 x.s1).bind (fun a s k =>
    if a ≤ s.time64.toNat then .ok () s (k.flags { z := some true })
    else if bit x.cond 0 = true ∧ k.eSeen = true then .ok () s (k.flags { z := some false })
    else .ok () s { k with mode := .waitt a (bit x.cond 0) })))

/-- WAITT_WAKE: device time has reached S1, or an event ends WAITT.E before it. -/
def execWaittWake (c : Nat) (s : State) : Answer :=
  let k := s.core c
  match k.mode with
  | .waitt due e =>
    if e = true ∧ k.e = true ∧ s.now < due then
      .next (s.setCore c ({ k with mode := .running, clockOff := false }.flags { z := some false }))
    else .next ((s.reach due).setCore c ({ k with mode := .running, clockOff := false }.flags { z := some true }))
  | _ => .next s

/-- FENCE (R265). -/
def execFence (c : Nat) (x : PyI) (s : State) : Answer := .next (s.issue c 0x43 x (fun s k => .ok () s { k with mode := .fence }))

/-- FENCE_DONE: the core's DRAM writes before it are settled for every reader that learns of the FENCE (R233, R265). -/
def execFenceDone (c : Nat) (s : State) : Answer :=
  let k := s.core c
  if k.mode = .fence then
    let n := s.ld.fences + 1
    let u := s.ld.unsettled.map (fun (u : Unsettled) => if u.writer = c ∧ u.fence = none then { u with fence := some n } else u)
    let s := { s with ld := { s.ld with fences := n, unsettled := u } }
    .next (s.setCore c { k with mode := .running })
  else .next s

/-! ### Events and posts (R262, R264, R277, R278) -/

/-- An event to one core: only if it runs an item of the sender's instance (R262). -/
def State.sendSev (s : State) (t inst : Nat) : State :=
  if (s.core t).instOf = some inst then s.event t 1 else s

/-- SEV. -/
def execSev (c : Nat) (x : PyI) (s : State) : Answer :=
  .next (s.issue c 0x41 x (fun s k => (s.source c k 1 (wbytes x.width) x.s1).bind (fun a s k =>
    let inst := k.instOf.getD 0
    withCore c s k (fun s =>
      if x.cond = 0 then s.sendSev (a % 64) inst
      else if x.cond = 1 then foldS (fun (s : State) (i : Nat) => s.sendSev (8 * (a % 8) + i) inst) s (List.range 8)
      else if a / 256 % 256 = 0 then s.wakeTag (regionOfTile c) inst (a % 256) else s))))

/-- An item as a core posts it (R277, R278). -/
def postedItem (d : BitVec 256) (t : Nat) (me : Item) : Item :=
  let p := bits d 72 3
  { entry := d.extractLsb' 0 32, arg := d.extractLsb' 32 32, inst := me.inst
    prio := if p < 1 then 1 else if 6 < p then 6 else p
    pin := bit d 75, timed := bit d 77, wake := bit d 78, affv := true
    handle := bits d 128 16, affinity := if bit d 79 then bits d 144 6 else t
    wtag := bits d 152 8, due := bits d 192 64, kind := .posted, run := me.run }

/-- Whether Ladle takes a posted item now: room, and the instance's limit (R223, R264, R280). -/
def State.takesPost (s : State) (x : Item) : Bool :=
  s.canAccept x && decide (s.itemsOf x.inst < s.param 0x050003 4096)

/-- Accept a posted item: it belongs to the RUN of its poster. -/
def State.acceptPost (s : State) (x : Item) : State :=
  let s := match x.run with
    | some k => s.modRun k (fun r => { r with items := r.items + 1 })
    | none => s
  s.accept x

/-- POST: Z and C tell what became of it; the spec states no C for an accepted one. -/
def execPost (c : Nat) (x : PyI) (s : State) : Answer :=
  .next (s.issue c 0x48 x (fun s k => (s.source c k 1 4 x.s1).bind (fun a s k =>
    (s.coreRead c k 1 6 a 32).bind (fun b s k =>
      let it := postedItem (BitVec.ofNat 256 (leNat b)) c (k.item.getD {})
      if k.heldPost.isSome then .ok () s (k.flags { z := some false, c := some true })
      else if s.takesPost it then
        let (n, s) := s.draw
        withCore c s (k.flags { z := some true, c := some (Config.freeChoice n) }) (fun s => s.acceptPost it)
      else .ok () s { k.flags { z := some false, c := some false } with heldPost := some it }))))

/-- POST_ACCEPTED: Ladle takes the POST a core holds, and the core sees `TL_EVP.POST` (R264, R294, R296). -/
def execPostAccepted (c : Nat) (s : State) : Answer :=
  let k := s.core c
  match k.heldPost with
  | some it =>
    if s.takesPost it then .next (((s.setCore c { k with heldPost := none }).acceptPost it).event c 64) else .next s
  | none => .next s

/-- The engine of a condition. -/
def engineOf (n : Nat) : Engine := match n with
  | 0 => .cipher
  | 1 => .reducer
  | 2 => .expander
  | _ => .digest

/-- ENG: post an engine descriptor (R264). -/
def execEng (c : Nat) (x : PyI) (s : State) : Answer :=
  .next (s.issue c 0x49 x (fun s k => (s.source c k 1 4 x.s1).bind (fun a s k =>
    (s.coreRead c k 1 6 a (if x.cond = 0 then 48 else 32)).bind (fun b s k =>
      let me := k.item.getD {}
      let j : Job := { desc := BitVec.ofNat 384 (leNat b), inst := me.inst, core := some c, item := me.seq, enq := s.now }
      let (ok, s) := (s.setCore c k).postJob c (engineOf x.cond.toNat) j
      .ok () s ((s.core c).flags { z := some ok })))))

/-- The DMA-visible fields of a search request (R395): key and context. -/
def camsKey (b : Bytes) : BitVec 128 := BitVec.ofNat 128 (leNat (b.take 16))
def camsCtx (b : Bytes) : Nat := fieldLe b 16 2

/-- Whether the response may be written at an address: checked at issue, as a write of 16 bytes. -/
def State.respPlace (s : State) (t : Nat) (k : Core) (a : Nat) : Option Nat :=
  match s.placeOf t k true a 16 with
  | none => some 4
  | some .code => some 4
  | some (.tileReg _) => some 4
  | some (.bank b) => if (s.bank t b).admitsCore k then none else some 5
  | _ => none

/-- CAMS: a search with the request at S1; at most 8 are outstanding (R264, R381, R395). A context outside the instance's
range is answered without a search and counted. -/
def execCams (c : Nat) (x : PyI) (s : State) : Answer :=
  .next (s.issue c 0x4A x (fun s k => (s.source c k 1 4 x.s1).bind (fun a s k =>
    (s.coreRead c k 1 6 a 32).bind (fun b s k =>
      let (d, k) := k.address 4 x.d
      match s.respPlace c k d.toNat with
      | some code => .fault code 3 d.toNat s
      | none =>
        if 8 ≤ k.camsOut then .ok () s (k.flags { z := some false })
        else
          let me := k.item.getD {}
          let p := regionOfTile c
          let out := !(s.inst me.inst).hasCam (camsCtx b)
          let q : Search := { key := camsKey b, ctx := camsCtx b, inst := me.inst, core := some (c, me.seq, d), startAt := s.now
                              resp := if out then some (s.noMatch me.inst) else none }
          let s := if out then { s with health := { s.health with camWindow := mmod 0 s.health.camWindow me.inst (· + 1) } } else s
          let cam := if out then { s.cam with flying := s.cam.flying ++ [q] }
            else { s.cam with waiting := mset [] s.cam.waiting p (mget [] s.cam.waiting p ++ [q]) }
          .ok () { s with cam := cam } { k.flags { z := some true } with camsOut := k.camsOut + 1 }))))

/-- The PC of a watchdog fault: that of the instruction that waits, else of the next one (R268, R270). -/
def Core.stallPc (k : Core) : Word := if k.mode = .running ∧ k.heldPost.isNone = true then k.faultPc else k.lastPc

/-- WATCHDOG: an item has run for the limit since its dispatch (R247). -/
def execWatchdog (c : Nat) (cqOk : Bool) (s : State) : Answer := answering cqOk s fun s =>
  let k := s.core c
  match k.item with
  | none => .next s
  | some x =>
    let runs : Bool := match k.mode with
      | .idle => false
      | .loading => false
      | .done => match x.run with
        | some r => (match s.runOf r with
          | some y => (match y.seg? x.rng x.seg with
            | some g => decide (x.kind ≠ .segment ∨ g.ph = 2)
            | none => decide (x.kind ≠ .segment))
          | none => true)
        | none => true
      | _ => true
    if runs = true then .next ((s.reach (k.dispatched + s.watchdogNs)).faultItem c 7 0 0 k.stallPc) else .next s

end Sys2Proof.Machine
end

