-- ==== Sys2Proof/Machine/DramCmds.lean ====
section
/-! DEFINITION. The DRAM controllers (17): bursts as they return, correction and scrubbing, refresh, retraining, mirrors and the
loss of a subchannel. -/

namespace Sys2Proof.Machine

/-! ### Subchannels -/

def Chan.setSub (x : Chan) (n : Nat) (y : SubCh) : Chan := if n = 0 then { x with sub0 := y } else { x with sub1 := y }
def State.subch (s : State) (c n : Nat) : SubCh := (s.chan c).sub n
def State.setSubch (s : State) (c n : Nat) (y : SubCh) : State := s.setChan c ((s.chan c).setSub n y)

/-- The channel that holds the other copy (R410). -/
def mirrorOf (c : Nat) : Nat := (c + 2) % 4

/-! ### Bursts as the lines carry them (R399) -/

/-- Word `k` of a burst. -/
def burstWord (d : BitVec 512) (k : Nat) : Word := d.extractLsb' (32 * k) 32

/-- A request's burst: rank, bank, row and column. -/
def reqBurst (q : DramReq) : Nat × Nat × Nat × Nat := (q.rank, q.bank, q.row, q.col)

/-- The parity of a number's bits. -/
def oddBits (n : Nat) : Bool := (List.range 32).foldl (fun b i => Bool.xor b (n.testBit i)) false

/-- AP of beat `k`: the XOR of every bit of rank, bank group, bank, row and column, and of bit 0 of `k` (R399). -/
def reqAp (q : DramReq) (k : Nat) : Bool :=
  Bool.xor (Bool.xor (Bool.xor (oddBits q.rank) (oddBits q.bank)) (Bool.xor (oddBits q.row) (oddBits q.col))) (k.testBit 0)

/-- What the lines carry in beat `k` of a write: DQ, the check bits, which are the complement of the right ones where the word is to
stay bad (R402), and AP. -/
def reqBeat (q : DramReq) (w : Word) (bad : Bool) (k : Nat) : BitVec 40 :=
  BitVec.ofBool (reqAp q k) ++ (if bad then ~~~(eccCheck w) else eccCheck w) ++ w

/-- A word that a burst gave: what its beat says (R316, R400). -/
structure Beat where
  word : Word
  synd : BitVec 7
  apMis : Bool
deriving DecidableEq, Repr

/-- Read beat `k` of a burst. -/
def reqRead (q : DramReq) (b : BitVec 40) (k : Nat) : Beat :=
  let w := b.extractLsb' 0 32
  { word := w, synd := eccCheck w ^^^ b.extractLsb' 32 7, apMis := bit b 39 != reqAp q k }

/-- The word after correction (R316, R317). -/
def Beat.fixed (b : Beat) : Word :=
  match eccDecode b.synd with
  | .data i => b.word ^^^ BitVec.ofNat 32 (2 ^ i)
  | _ => b.word

/-- An access to a bank: the counter follows whether it goes to the row the last access opened, and decides whether the row
stays open (R406). -/
def DBank.access (x : DBank) (row : Nat) : DBank :=
  let n := if x.last = some row then Nat.min 3 (x.counter + 1) else x.counter - 1
  { counter := n, last := some row, isOpen := decide (2 ≤ n) }

/-- The bank of a request. -/
def reqBank (q : DramReq) : Nat := 64 * q.rank + q.bank

/-- A request's column access (R406). -/
def State.dramAccess (s : State) (c n : Nat) (q : DramReq) : State :=
  let y := s.subch c n
  s.setSubch c n { y with banks := mmod {} y.banks (reqBank q) (fun (b : DBank) => b.access q.row) }

/-- A burst is written with its words, those in `bad` kept uncorrectable: an armed flip acts on beat 0 and is disarmed (R402,
`DC_FLIP`, R321). -/
def State.writeBurst (s : State) (c n : Nat) (q : DramReq) (words : List Word) (bad : List Bool) : State :=
  let x := s.chan c
  let lines := (words.zip bad).zipIdx.map (fun e => reqBeat q e.1.1 e.1.2 e.2)
  let lines := match lines, x.flipArm with
    | b :: r, true => (b ^^^ (BitVec.ofBool x.flipAp ++ x.flipMask ++ (0 : Word))) :: r
    | l, _ => l
  ((s.setChan c { x with flipArm := false }).dramAccess c n q).emit (.dramBurst c n q.rank q.bank q.row q.col lines)

/-! ### The queues of a subchannel (R404) -/

/-- Whether a request is a write. -/
def reqWrites (q : DramReq) : Bool := match q.access with | .write .. => true | .read _ => false

/-- Whether it covers its whole burst. -/
def reqWhole (q : DramReq) : Bool := match q.access with | .write m _ _ => decide (m = BitVec.allOnes 64) | .read _ => false

/-- Contents that have a second copy (R410, R412). -/
def reqMirrored (q : DramReq) : Bool :=
  match q.access with
  | .write _ _ m => m
  | .read (.cache _ _) => false
  | .read _ => true

/-- The newest write to a burst among those that have entered or wait to. -/
def SubCh.lastWrite (y : SubCh) (q : DramReq) : Option DramReq :=
  ((y.writes.map (·.req)) ++ y.outside).reverse.find? (fun (x : DramReq) => reqWrites x && decide (reqBurst x = reqBurst q))

/-- Requests enter the queues in order while those have room for 64 reads and 64 writes (R404). -/
def SubCh.intake (y : SubCh) : Nat → SubCh
  | 0 => y
  | k + 1 => match y.outside with
    | [] => y
    | q :: r =>
      let e : DramQ := { req := q, no := y.arrivals }
      if reqWrites q then
        if 64 ≤ y.writes.length then y
        else SubCh.intake { y with outside := r, writes := y.writes ++ [e], arrivals := y.arrivals + 1 } k
      else if 64 ≤ y.reads.length then y
      else SubCh.intake { y with outside := r, reads := y.reads ++ [e], arrivals := y.arrivals + 1 } k

/-- Admit what can be, and see whether writes go first: from 48 of them until 16 are left (R404). -/
def SubCh.settle (y : SubCh) : SubCh :=
  let y := y.intake y.outside.length
  { y with draining := if 48 ≤ y.writes.length then true else if y.writes.length ≤ 16 then false else y.draining }

/-- Two queues as one, in order of arrival. -/
def byArrival : Nat → List DramQ → List DramQ → List DramQ
  | 0, a, b => a ++ b
  | _, [], b => b
  | _, a, [] => a
  | k + 1, x :: a, y :: b => if x.no ≤ y.no then x :: byArrival k a (y :: b) else y :: byArrival k (x :: a) b

/-- Requests queued, in order of arrival. -/
def SubCh.queued (y : SubCh) : List DramQ := byArrival (y.reads.length + y.writes.length) y.reads y.writes

/-- Whether a queued request may issue: none older is for its burst (R404). -/
def SubCh.inTurn (y : SubCh) (e : DramQ) : Bool :=
  (y.reads ++ y.writes).all (fun d => decide (reqBurst d.req = reqBurst e.req → e.no ≤ d.no))

/-- Whether its row is open in its bank (R404, R406). -/
def SubCh.rowHit (y : SubCh) (e : DramQ) : Bool :=
  let b := mget {} y.banks (reqBank e.req)
  b.isOpen && decide (b.last = some e.req.row)

/-- The request to issue next (R404): one bypassed by 64 younger ones; a write while writes go first; a row hit; the oldest. -/
def SubCh.next (y : SubCh) : Option DramQ :=
  let l := y.queued
  match l.find? (fun e => decide (64 ≤ e.passed)) with
  | some e => some e
  | none =>
    let l := l.filter (fun e => y.inTurn e && (!y.draining || reqWrites e.req))
    match l.find? y.rowHit with
    | some e => some e
    | none => l.head?

/-- A request of arrival number `no` issues: every older one has been bypassed once more (R404). -/
def SubCh.passOver (y : SubCh) (no : Nat) : SubCh :=
  let f := fun (e : DramQ) => if e.no < no then { e with passed := e.passed + 1 } else e
  { y with
    reads := y.reads.map f, writes := y.writes.map f
    scrubWait := y.scrubWait.map (fun e => if e.1 ≤ no then (e.1, e.2 + 1) else e) }

/-- A request leaves its queue and issues. -/
def SubCh.issue (y : SubCh) (e : DramQ) : SubCh :=
  (SubCh.passOver { y with
    reads := y.reads.filter (fun d => decide (d.no ≠ e.no)), writes := y.writes.filter (fun d => decide (d.no ≠ e.no)) } e.no).settle

/-- A request comes to a subchannel: a read that finds a queued write of its whole burst takes that write's data (R404). -/
def State.dramEnter (s : State) (c n : Nat) (q : DramReq) : State :=
  let y := s.subch c n
  match reqWrites q, y.lastWrite q with
  | false, some { access := .write m d _, .. } =>
    if m = BitVec.allOnes 64 then s.emit (.dramForward c n d)
    else s.setSubch c n (SubCh.settle { y with outside := y.outside ++ [q] })
  | _, _ => s.setSubch c n (SubCh.settle { y with outside := y.outside ++ [q] })

/-! ### Loss of both copies (R412) -/

/-- Two items of a region's Stockpot share are lost with both copies; their RUNs fail with INTERNAL_ERROR (R412). -/
def State.stockpotLost (s : State) (p i : Nat) : State :=
  let gone := (s.region p).spilled.drop (2 * i) |>.take 2
  let s := s.setRegion p { s.region p with
    spilled := (s.region p).spilled.take (2 * i) ++ (s.region p).spilled.drop (2 * i + 2) }
  foldS (fun (s : State) (x : Item) => match x.run with
    | none => s
    | some k =>
      let s := s.modRun k (fun r => let r : RunSt := { r with items := r.items - 1 }
                                    if x.kind = .segment then r.dropSeg x.rng x.seg else r)
      (s.stopRun k .failed 0x4B (BitVec.ofNat 64 (s.health.nEvents % 65536)) 5).finishRun k true) s gone

/-- What the loss of both copies of a burst does to its reader (R268, R412); a cached grain's copy is dropped, and the grain is read
from flash. -/
def State.bothLost (s : State) (r : DramReader) : State :=
  match r with
  | .core t o a => s.faultItem t 6 o a (s.core t).faultPc
  | .stockpot p i => s.stockpotLost p i
  | .directory i =>
    let p := mget {} s.cam.directory i
    if p.valid then ({ s with cam := { s.cam with directory := merase s.cam.directory i } }).camLostAll [p] else s
  | .journal => s
  | .cache ti g => s.uncache ti g 1

/-! ### Requests and the mirror (R410) -/

/-- Whether a subchannel can serve a request now. -/
def SubCh.serves (y : SubCh) : Bool := y.inService && !y.training && !y.selfRefresh

/-- A request of a subchannel: mirrored writes go to both copies; mirrored reads go to the other copy while this one is out of
service or retraining (R409, R410); what no copy can serve ends uncorrectable (R411). -/
def State.dramAsk (s : State) (c n : Nat) (q : DramReq) : State :=
  let y := s.subch c n
  let z := s.subch (mirrorOf c) n
  match q.access with
  | .write _ _ m =>
    let s := if y.inService then s.dramEnter c n q else s
    if m && z.inService then s.dramEnter (mirrorOf c) n q else s
  | .read r =>
    if y.serves || (y.inService && !(reqMirrored q && z.serves)) then s.dramEnter c n q
    else if reqMirrored q && z.inService then (s.emit (.dramMirror (mirrorOf c) n)).dramEnter (mirrorOf c) n q
    else s.bothLost r

/-- Take the reads that `p` picks out of a subchannel's queues, and ask for them anew. -/
def State.dramMove (s : State) (c n : Nat) (p : DramReq → Bool) : State :=
  let y := s.subch c n
  let go := (y.reads.map (·.req)).filter p ++ y.outside.filter (fun q => !reqWrites q && p q)
  let s := s.setSubch c n { y with
    reads := y.reads.filter (fun e => !p e.req), outside := y.outside.filter (fun q => reqWrites q || !p q) }
  foldS (fun (s : State) (q : DramReq) => s.dramAsk c n q) s go

/-! ### Retraining (R409) -/

/-- Begin the retraining of a subchannel: one subchannel of a channel at a time, the other waits. Requests wait with it, but for
mirrored reads, which the other copy serves. -/
def State.retrain (s : State) (c n : Nat) : State :=
  let y := s.subch c n
  if y.inService = false ∨ y.training = true then s
  else if (s.subch c (1 - n)).training then s.setSubch c n { y with retrain := true }
  else
    let s := s.setSubch c n { y with training := true, retrain := false }
    if (s.subch (mirrorOf c) n).serves then s.dramMove c n reqMirrored else s

/-- A write to `DC_CTRL`. -/
def State.writeDcCtrl (s : State) (c : Nat) (v : Word) : State :=
  let s := s.setChan c { s.chan c with scrubEn := bit v 0 }
  let s := if bit v 1 then s.retrain c 0 else s
  if bit v 2 then s.retrain c 1 else s

/-- DC_RETRAIN_WRITE: a write to `DC_CTRL`, whose RETRAIN bits retrain subchannels now (R409). -/
def execDcRetrainWrite (ch : Nat) (v : Word) (s : State) : Answer := .next (s.writeDcCtrl ch v)

/-! ### Loss of a subchannel (R411) -/

/-- The number of a channel and a subchannel in a health event (assumption 22). -/
def subArg (c n : Nat) : DWord := BitVec.ofNat 64 (c + 4294967296 * n)

/-- The pages a lost subchannel held are copied to free pages of the other pairs, and pages that find none run unmirrored (R411). -/
def State.pagesLost (s : State) (c n pairs : Nat) : State :=
  let held := (s.keptPages + pairs - 1) / pairs
  let free := s.dramPages - (s.keptPages - held)
  if held ≤ free then s
  else
    let s := s.setChan c { s.chan c with unmirrored := true }
    let s := s.setChan (mirrorOf c) { s.chan (mirrorOf c) with unmirrored := true }
    s.health! 0x51 3 noRegion 0xFF noLink (subArg c n) (BitVec.ofNat 32 ((held - free) / 2))

/-- A subchannel goes out of service: its queued requests are reissued to the mirror copy or, for unmirrored contents, end
uncorrectable, its mirrored pages are copied to free pages of the other pairs, and pages that find none run unmirrored (R411). -/
def State.subchannelLost (s : State) (c n : Nat) : State :=
  let y := s.subch c n
  if y.inService = false then s
  else
    let wasUp := s.pairUp (c % 2) n
    let pairs := s.pairsUp
    let s := s.setSubch c n { y with
      inService := false, training := false, retrain := false, writes := [], outside := y.outside.filter (fun q => !reqWrites q)
      draining := false, scrubWait := none }
    let s := s.health! 0x50 3 noRegion 0xFF noLink (subArg c n) 0
    let s := s.emit (.dramMirror (mirrorOf c) n)
    let s := s.dramMove c n (fun _ => true)
    (if wasUp then s.pagesLost c n pairs else s).trimCache

/-- DRAM_RETRAIN_DONE: the subchannel is back in service, or a failed retraining takes it out; the channel's other
subchannel then takes its turn (R409, R411). -/
def execDramRetrainDone (ch sub : Nat) (ok : Bool) (s : State) : Answer :=
  let y := s.subch ch sub
  if y.inService = false ∨ y.training = false then .next s
  else
    let s := if ok then s.setSubch ch sub { y with training := false, trainTemp := y.temp } else s.subchannelLost ch sub
    .next (if (s.subch ch (1 - sub)).retrain then s.retrain ch (1 - sub) else s)

/-- DQS_OSCILLATOR_DRIFT: a drift beyond the step of entry 0x01_0023 retrains the subchannel (R409). -/
def execDqsOscillatorDrift (ch sub drift : Nat) (s : State) : Answer :=
  .next (if s.param 0x010023 8 < drift then s.retrain ch sub else s)

/-! ### Bursts that return (R400 to R403) -/

/-- Whether a word with a syndrome is correctable, and whether it is uncorrectable (R316). -/
def synCorrects (y : BitVec 7) : Bool := match eccDecode y with | .clean => false | .bad => false | _ => true
def synBad (y : BitVec 7) : Bool := decide (eccDecode y = .bad)

/-- Record an error of a beat in `DC_LASTERR`. -/
def Chan.note (x : Chan) (sub rank row k : Nat) (b : Beat) (unc : Bool) : Chan :=
  { x with
    errSub := decide (sub = 1), errRank := decide (rank = 1), errBeat := BitVec.ofNat 4 k, errSynd := b.synd, errAp := b.apMis
    errUnc := unc, errRow := BitVec.ofNat 17 row }

/-- One correction: counted, and a drop in the bucket of its subchannel and rank, which overflows at the threshold (R401). -/
def State.dramCorrection (s : State) (c sub rank : Nat) : State :=
  let x := s.chan c
  let y := x.sub sub
  let old := if rank = 0 then y.buckets.1 else y.buckets.2
  let n := Nat.min 255 (old + 1)
  let y := { y with buckets := if rank = 0 then (n, y.buckets.2) else (y.buckets.1, n) }
  let past := decide (s.param 0x010022 32 ≤ n) && !x.ovf
  let s := s.setChan c { x.setSub sub y with cecnt := satAdd 65535 x.cecnt 1, ovf := x.ovf || past }
  let s := { s with health := { s.health with corrDram := s.health.corrDram + 1 } }
  if past then s.raise (0x902 + c) else s

/-- One uncorrectable word (R401). -/
def State.dramBad (s : State) (c sub rank row k : Nat) (b : Beat) : State :=
  let s := s.setChan c { (s.chan c).note sub rank row k b true with ue := true }
  { s with health := { s.health with ueDram := s.health.ueDram + 1 } }

/-- What beat `k` of a burst with no address error adds. -/
def State.beatOf (s : State) (c sub rank row k : Nat) (b : Beat) : State :=
  let s := if b.apMis then (s.setChan c ((s.chan c).note sub rank row k b (synBad b.synd))).dramCorrection c sub rank else s
  if synBad b.synd then s.dramBad c sub rank row k b
  else if synCorrects b.synd then (s.setChan c ((s.chan c).note sub rank row k b false)).dramCorrection c sub rank
  else s

/-- The uncorrectable words of a burst: all of them where AP mismatches on all 16 beats (R400). -/
def badWords (beats : List Beat) : List Bool :=
  let wrong := decide (beats.length = 16) && beats.all (fun b => b.apMis)
  beats.map (fun b => wrong || synBad b.synd)

/-- Judge a burst (R400, R401). What is corrected is written back unless a write to the burst is queued. An uncorrectable burst counts
towards the rate that takes its subchannel out of service (R411). -/
def State.judgeBurst (s : State) (c sub : Nat) (q : DramReq) (beats : List Beat) : State :=
  let s := s.dramAccess c sub q
  let ks := beats.zipIdx
  let bad := badWords beats
  let s :=
    if decide (beats.length = 16) && beats.all (fun b => b.apMis) then
      let s := foldS (fun (s : State) (e : Beat × Nat) => s.dramBad c sub q.rank q.row e.2 e.1) s ks
      (s.setChan c { s.chan c with addrErr := true }).raise 0x90A
    else
      let s := foldS (fun (s : State) (e : Beat × Nat) => s.beatOf c sub q.rank q.row e.2 e.1) s ks
      if beats.any (fun b => b.apMis || synCorrects b.synd) && ((s.subch c sub).lastWrite q).isNone then
        s.writeBurst c sub q (beats.map (·.fixed)) bad
      else s
  if bad.any id = false then s
  else
    let s := s.raise (0x906 + c)
    let y := s.subch c sub
    let times := s.now :: y.ueTimes.filter (fun t => decide (s.now < t + 1000000000))
    let s := s.setSubch c sub { y with ueTimes := times }
    if 16 < times.length then s.subchannelLost c sub else s

/-- The burst of a partial write once it has been read: the written bytes take their places, and a bad word that is not wholly
written stays bad (R402). -/
def State.mergeBurst (s : State) (c sub : Nat) (q : DramReq) (covered : BitVec 64) (data : BitVec 512) (beats : List Beat) : State :=
  let merged := beats.zipIdx.map (fun e =>
    (List.range 4).foldl (fun (w : Word) i => if bit covered (4 * e.2 + i) then
      (w &&& ~~~(BitVec.ofNat 32 (255 * 256 ^ i))) ||| (burstWord data e.2 &&& BitVec.ofNat 32 (255 * 256 ^ i)) else w) e.1.fixed)
  let bad := (badWords beats).zipIdx.map (fun e => e.1 && !((List.range 4).all (fun i => bit covered (4 * e.2 + i))))
  s.writeBurst c sub q merged bad

/-- A read's burst has been judged. Where it is uncorrectable on channel 0 or 1 and the other copy's subchannel is in service, the
reader is served from that copy, which is written back; cached grains have no other copy (R410 to R412). -/
def State.readerServed (s : State) (c sub : Nat) (q : DramReq) (r : DramReader) (bad : Bool) : State :=
  if bad = false then s
  else if decide (c < 2) && reqMirrored q && (s.subch (mirrorOf c) sub).serves then
    (s.emit (.dramMirror (mirrorOf c) sub)).emit (.dramWriteBack c sub)
  else s.bothLost r

/-- Issue the requests of a subchannel in the order of R404 up to the first that reads its burst, which is the burst that returns. A
partial write stands in its queue until its burst is merged, so what its read corrects is not written back apart (R401, R402). -/
def State.dramServe (s : State) (c sub : Nat) (beats : List (BitVec 40)) : Nat → State
  | 0 => s
  | k + 1 => match (s.subch c sub).next with
    | none => s
    | some e =>
      let q := e.req
      let issued := fun (s : State) => s.setSubch c sub ((s.subch c sub).issue e)
      let got := beats.zipIdx.map (fun b => reqRead q b.1 b.2)
      match q.access with
      | .read r => ((issued s).judgeBurst c sub q got).readerServed c sub q r ((badWords got).any id)
      | .write m d _ =>
        if reqWhole q then
          ((issued s).writeBurst c sub q ((List.range 16).map (burstWord d)) (List.replicate 16 false)).dramServe c sub beats k
        else
          let s := s.judgeBurst c sub q got
          if (s.subch c sub).inService then (issued s).mergeBurst c sub q m d got else s

/-- The scrubber's read has been bypassed by 64 younger requests: it goes next (R403, R404). -/
def SubCh.scrubDue (y : SubCh) : Bool := match y.scrubWait with | some e => decide (64 ≤ e.2) | none => false

/-- DRAM_READ_RETURN: the requests asked since the last enter the queues; the controller issues them in its order, and the burst that
returns is judged (R400 to R404, R410 to R412). Nothing issues during a retraining, in self-refresh, or while the scrubber's read has
been bypassed by 64 younger requests (R403, R405). -/
def execDramReadReturn (ch sub : Nat) (asked : List DramReq) (beats : List (BitVec 40)) (s : State) : Answer :=
  let s := foldS (fun (s : State) (q : DramReq) => s.dramAsk ch sub q) s asked
  let y := s.subch ch sub
  if y.serves = false ∨ y.scrubDue = true then .next s
  else .next (s.dramServe ch sub beats (y.reads.length + y.writes.length + y.outside.length))

/-- DRAM_SCRUB: the scrubber's next burst is corrected or recorded; it affects no requester (R403). It has the lowest place: it waits
while requests are queued, until 64 of them have bypassed it. -/
def execDramScrub (ch sub rank bank row col : Nat) (beats : List (BitVec 40)) (s : State) : Answer :=
  let y := s.subch ch sub
  if (s.chan ch).scrubEn = false ∨ y.serves = false then .next s
  else
    let w := y.scrubWait.getD (y.arrivals, 0)
    if (y.reads ≠ [] ∨ y.writes ≠ []) ∧ w.2 < 64 then .next (s.setSubch ch sub { y with scrubWait := some w })
    else
      let q : DramReq := { rank := rank, bank := bank, row := row, col := col, access := .read .journal }
      let got := beats.zipIdx.map (fun b => reqRead q b.1 b.2)
      let y := y.passOver w.1
      .next ((s.setSubch ch sub { y with scrubAt := y.scrubAt + 1, scrubWait := none }).judgeBurst ch sub q got)

/-! ### Refresh, MR4, calibration, idle rows (R406 to R408) -/

/-- DRAM_REFRESH: a refresh command to a rank; in self-refresh the device refreshes itself (R407). -/
def execDramRefresh (ch sub rank : Nat) (s : State) : Answer :=
  let y := s.subch ch sub
  if y.inService = false ∨ y.selfRefresh = true ∨ 2 ≤ rank then .next s
  else .next (s.setSubch ch sub { y with refreshes := y.refreshes + 1 })

/-- MR4_READ: the rank's refresh rate follows; a temperature 10 °C from that of the last training retrains the subchannel
(R407, R409). -/
def execMr4Read (ch sub rank rate temp : Nat) (s : State) : Answer :=
  let y := s.subch ch sub
  if y.inService = false ∨ y.selfRefresh = true then .next s
  else
    let moved := decide (y.trainTemp + 10 ≤ temp ∨ temp + 10 ≤ y.trainTemp)
    let s := s.setSubch ch sub { y with
      refreshRate := if rank = 0 then (rate, y.refreshRate.2) else (y.refreshRate.1, rate), temp := temp }
    .next (if moved then s.retrain ch sub else s)

/-- ZQ_CALIBRATION (R408). -/
def execZqCalibration (ch sub : Nat) (s : State) : Answer :=
  let y := s.subch ch sub
  if y.inService = false then .next s else .next (s.setSubch ch sub { y with zqDone := y.zqDone + 1 })

/-- ROW_IDLE_CLOSE: an open row with no request for 2 µs is closed (R406). -/
def execRowIdleClose (ch sub rank bank : Nat) (s : State) : Answer :=
  let y := s.subch ch sub
  if (mget {} y.banks (64 * rank + bank)).isOpen = false then .next s
  else .next (s.setSubch ch sub { y with banks := mmod {} y.banks (64 * rank + bank) (fun (b : DBank) => { b with isOpen := false }) })

/-! ### Training at bring-up (R397, R398, R408) -/

/-- Results of training, one subchannel after another: number 2 c + s. A subchannel comes into service at the speed it
trained at; the channel's SPEED is its slowest. -/
def State.trained (s : State) (results : List (Nat × TrainResult)) : State :=
  foldS (fun (s : State) (e : Nat × TrainResult) =>
    let c := e.1 / 2
    let y := s.subch c (e.1 % 2)
    match e.2 with
    | .ok v =>
      let first := !(((s.chan c).sub 0).inService || ((s.chan c).sub 1).inService)
      let s := s.setSubch c (e.1 % 2) { y with inService := true, training := false, trainTemp := y.temp }
      s.setChan c { s.chan c with speed := if first ∨ v.toNat < (s.chan c).speed.toNat then v else (s.chan c).speed }
    | .failed => s.health! 0x50 3 noRegion 0xFF noLink (subArg c (e.1 % 2)) 0) s results

/-- Whether both subchannels of a populated channel failed (R408). -/
def State.chanFailed (s : State) (c : Nat) : Bool :=
  bit s.dram.chMask c && !((s.subch c 0).inService || (s.subch c 1).inService)

end Sys2Proof.Machine
end

