-- ==== Sys2Proof/Machine/PowerOps.lean ====
section
/-! DEFINITION. Power states (22): when the device is idle, how P1 to P3 are entered and left (R483 to R487), tile clocks and
rails (R488 to R491), and throttling steps (R492 to R494). -/

namespace Sys2Proof.Machine

/-! ### Idleness (R483) -/

/-- An item of levels 0 to 6. -/
def Item.front (x : Item) : Bool := decide (x.level ≤ 6)

/-- A tile's lanes have work. -/
def Tile.laneWork (x : Tile) : Bool :=
  !(x.lanes.rxQ.isEmpty && x.lanes.rxRun.isNone && x.lanes.exQ.isEmpty && x.lanes.exRun.isNone && x.crypt.cxQ.isEmpty &&
    x.crypt.cxRun.isEmpty && x.crypt.dgQ.isEmpty && x.crypt.dgRun.isEmpty)

/-- Background work is due. -/
def State.backgroundDue (s : State) : Bool :=
  s.st.moves.any (fun e => e.2.isSome) || !s.st.moveReq.isEmpty || !s.st.mergeReq.isEmpty || !s.st.verifies.isEmpty ||
  !s.st.repairs.isEmpty || s.st.slcs.any (fun e => match e.2 with | some x => decide (x.phase ≠ 0 ∨ x.f < x.w) | none => false) ||
  s.st.bands.any (fun e => decide (e.2.st = .closed ∧ (e.2.role = 0 ∨ e.2.role = 1)))

/-- The device is idle (R483). -/
def State.deviceIdle (s : State) : Bool :=
  !(s.hq.queues.any (fun e => decide (e.2.st = .active) && decide (e.2.unfetched ≠ 0 ∨ e.2.tags ≠ 0))) &&
  !(s.ld.regions.any (fun e => e.2.ready.any Item.front || e.2.spilled.any Item.front ||
      e.2.timers.any (fun x => x.front && decide (s.tickOf x.due ≤ s.now / s.tickNs)))) &&
  !(s.tiles.any (fun e => (match e.2.core.item with | some x => x.front | none => false) || e.2.laneWork)) &&
  !(s.links.any (fun e => !e.2.cmds.isEmpty || !e.2.queue.isEmpty)) && !s.backgroundDue

/-- An idle timer, in ns: entries 0x07_0010 to 0x07_0012; in D3hot those of P1 and P2 count as 0 (R482, R483). -/
def State.idleTimer (s : State) (n : Nat) : Nat :=
  if n < 3 ∧ s.hq.pcie = .d3hot then 0
  else 1000 * s.param (0x07000F + n) (if n = 1 then 50 else if n = 2 then 20000 else 2000000)

/-- Whether the device may enter power state `n` from the one before it. -/
def State.mayEnter (s : State) (n : Nat) (before : PState) : Bool :=
  decide (s.pw.st = before) && !s.pw.leaving && s.pw.entering.isNone && s.deviceIdle && decide (s.jr.holdStep = 0) &&
  decide (s.stew.boot = .firmware) && decide (s.pw.idleAt + s.idleTimer n ≤ s.now + s.idleTimer n)

/-- Ask links in some states for a low-power state (R167). A link that holds a frame or has a command outstanding is not
asked. -/
def State.askLinks (s : State) (from_ : List LState) (goal : LState) (code : Byte) (arg : Nat) : State :=
  foldS (fun (s : State) (e : Nat × Link) =>
    if from_.contains e.2.st ∧ e.2.held = [] ∧ e.2.cmds = [] then
      (s.putLink e.1 { s.link e.1 with req := some goal }).sendCtl e.1 code arg
    else s) s s.links

/-- The tile that stays awake in a region in P2: the lowest-numbered that is not retired (R482). -/
def State.awakeTile (s : State) (p : Nat) : Nat :=
  match (List.range 8).find? (fun i => !(s.tile (8 * p + i)).retired) with | some i => 8 * p + i | none => 8 * p

/-- Ask for the retention of every bank group of the tiles that satisfy `p` (R314, R482). -/
def State.retainTiles (s : State) (p : Nat → Bool) : State :=
  foldS (fun (s : State) (t : Nat) => if p t then s.setTile t { s.tile t with retain := 0xF, clockMhz := 800 } else s) s (List.range 64)

/-- Every rank in or out of self-refresh (R407). -/
def State.selfRefreshAll (s : State) (on : Bool) : State :=
  foldS (fun (s : State) (i : Nat) =>
    let y := s.subch (i / 2) (i % 2)
    if y.inService then s.setSubch (i / 2) (i % 2) { y with selfRefresh := on } else s) s (List.range 8)

/-- The entry to P2 ends: tiles are retained, DRAM refreshes itself (R482). -/
def State.p2Enter (s : State) : State :=
  let s := (s.retainTiles (fun t => decide (t ≠ s.awakeTile (regionOfTile t)))).selfRefreshAll true
  { s with pw := { s.pw with st := .p2, entering := none, flushed := false } }

/-- Go on with an entry to P2 (R484): once staging and tails are programmed, the journal is flushed with a HOLDUP entry; once that is
persisted, the links are asked for SLEEP, those in STANDBY once WAKE has brought them back; once all are in SLEEP, P2 is entered. -/
def State.p2Go (s : State) : State :=
  if s.pw.entering ≠ some .p2 ∨ s.rescuing = true ∨ s.jr.holdStep ≠ 0 then s
  else
    let s := if s.pw.flushed then s else { s with pw := { s.pw with flushed := true } }.holdFlush
    if s.jr.buf ≠ [] ∨ s.jr.flying ≠ [] ∨ s.links.any (fun e => decide (e.2.st = .standby)) then s
    else
      let s := foldS (fun (s : State) (e : Nat × Link) =>
        if e.2.st = .active ∧ e.2.held = [] ∧ e.2.cmds = [] ∧ e.2.req ≠ some .sleeping then
          (s.putLink e.1 { s.link e.1 with req := some .sleeping }).sendCtl e.1 cSLEEP 0
        else s) s s.links
      if s.links.any (fun e => decide (e.2.st = .active)) then s else s.p2Enter

/-! ### Clocks and rails (R488 to R491) -/

/-- The ceiling of a tile clock under throttling steps, MHz (R493). -/
def ceilingMhz (steps : Nat) : Nat :=
  if steps < 2 then 2000 else if steps = 2 then 1900 else if steps ≤ 10 then 1800 else Nat.max 800 (1800 - 100 * (steps - 10))

/-- The rail code a tile clock needs (R489). -/
def railCode (mhz : Nat) : Nat := if mhz ≤ 1000 then 0 else if mhz ≤ 1400 then 1 else if mhz ≤ 1800 then 2 else 3

/-- The lowest code that covers every tile of a region. -/
def State.railNeed (s : State) (p : Nat) : Nat := (List.range 8).foldl (fun n i => Nat.max n (railCode (s.tile (8 * p + i)).clockMhz)) 0

/-- Lower a region's request to what its tiles need (R491). -/
def State.lowerRail (s : State) (p : Nat) : State :=
  let r := s.region p
  if s.railNeed p < r.vreq.toNat then s.setRegion p { r with vreq := BitVec.ofNat 2 (s.railNeed p) } else s

/-- A tile has work: an item or a lane job, queued or running (R488). -/
def State.tileBusy (s : State) (t : Nat) : Bool :=
  (s.core t).item.isSome || (s.tile t).laneWork || (s.region (regionOfTile t)).ready.any (fun x => decide (x.affinity = t))

/-- Hold every tile clock of a region to its ceiling, then lower the request (R491, R493, R494). Lanes that steps have taken out
or given back are seen to. -/
def State.applySteps (s : State) (p : Nat) : State :=
  let s := foldS (fun (s : State) (i : Nat) =>
    let t := 8 * p + i
    let c := ceilingMhz (s.stepsOf t)
    if c < (s.tile t).clockMhz then s.setTile t { s.tile t with clockMhz := c } else s) s (List.range 8)
  foldS (fun (s : State) (i : Nat) => s.nextAll (8 * p + i)) (s.lowerRail p) (List.range 8)

end Sys2Proof.Machine
end

