-- ==== Sys2Proof/Machine/Journal.lean ====
section
/-! DEFINITION. The journal engine's rows (05): flushes, persisted pages, checkpoints (R127 to R130), and recovery: the
checkpoint is loaded, the journal replayed, the scanned commit groups applied, and the map made ready (R134 to R138, R454,
R456). -/

namespace Sys2Proof.Machine

/-! ### Flushes and persistence -/

/-- JOURNAL_INTERVAL: one interval has passed since the start of the previous flush (R127). -/
def execJournalInterval (s : State) : Answer :=
  if s.jr.holdStep ≠ 0 then .next s
  else .next ((s.reach (s.jr.lastFlush + s.journalIntervalNs)).flushJournal)

/-- JOURNAL_BUFFER_THRESHOLD: the buffer holds 6,144 entries (R127). -/
def execJournalBufferThreshold (s : State) : Answer :=
  if s.jr.holdStep = 0 ∧ Config.journalThreshold ≤ s.jr.buf.length then .next s.flushJournal else .next s

/-- A copy whose region cannot take it moves to the next ready region that does not hold the other one (R128). -/
def State.moveCopy (s : State) (old other : Nat) : Nat × State :=
  if s.copyReady old then (old, s)
  else match ((List.range 7).map (fun d => (old + 1 + d) % 8)).find? (fun p => s.copyReady p && decide (p ≠ other)) with
    | none => (old, s)
    | some p => (p, s.health! 0x72 4 old 0xFF noLink (BitVec.ofNat 64 old) (BitVec.ofNat 32 p))

/-- Move a copy of the journal whose region cannot take it: the band it leaves is a journal band like those written to their end,
and its new one begins with the pages being written (R128). -/
def State.moveJournal (s : State) (b : Bool) : State :=
  let (old, x) := s.jcopy b
  let (p, s) := s.moveCopy old (s.jcopy (!b)).1
  if p = old then s
  else
    let left := match x.band with | some k => [(bandKey old k, s.jr.jseq)] | none => []
    let s := { s with jr := { s.jr with jbands := s.jr.jbands ++ left, regA := if b then s.jr.regA else p, regB := if b then p else s.jr.regB } }
    (s.setJcopy b {}).pumpJournal

/-- What waited for a journal entry goes on. -/
def State.runAct (s : State) (a : JAct) : State :=
  match a with
  | .bandStale k => s.bandStale k
  | .moveBegun ti e => s.moveBegun ti e
  | .mapSwitched ti e => s.switchMap ti e
  | .slcFree k row => s.slcFree k row
  | .anchor num => s.writeAnchor num

/-- Run everything that waits for entries that are persisted now, as far as the journal buffer has room for what it journals
(R127). -/
def State.runActs (s : State) : State :=
  let upTo := s.jr.persistedTo
  let go := s.jr.acts.filter (fun a => decide (a.1 ≤ upTo))
  let s := { s with jr := { s.jr with acts := s.jr.acts.filter (fun a => decide (upTo < a.1)) } }
  foldS (fun (s : State) (a : Nat × JAct) =>
    if s.journalRoom 64 then s.runAct a.2 else { s with jr := { s.jr with acts := s.jr.acts ++ [a] } }) s go

/-- Whether the oldest page being written is programmed in both copies, or in one while the region of the other cannot take it
(R128). -/
def State.pageOver (s : State) : Bool :=
  let ends := fun (b : Bool) => s.pageDone b || !s.copyReady (s.jcopy b).1
  ends false && ends true && (s.pageDone false || s.pageDone true)

/-- JOURNAL_PAGE_PERSISTED: the oldest page being written is programmed in both copies, or in one while the region of the
other cannot take it (R128); a page waits while neither can, and a copy whose region cannot take it moves. -/
def execJournalPagePersisted (cqOk : Bool) (s : State) : Answer := answering cqOk s fun s =>
  if s.jr.flying = [] ∨ s.jr.holdStep ≠ 0 then .next s
  else if s.pageOver = false then .next ((s.moveJournal false).moveJournal true)
  else
    let s := (((s.persist Config.journalPage).moveJournal false).moveJournal true).pumpJournal
    .next ((((s.runActs).pump true).pumpBack).pumpRuns true).p2Go

/-! ### Checkpoints (R129) -/

/-- CHECKPOINT_TIMER: the time of entry 0x04_0043 has passed since the last checkpoint. -/
def execCheckpointTimer (s : State) : Answer :=
  if s.jr.ckptRun.isSome ∨ bit s.hq.idReady 3 = false then .next s
  else .next ((s.reach (s.jr.ckptAt + 1000000000 * s.param 0x040043 60)).beginCkpt)

/-- CHECKPOINT_JOURNAL_VOLUME: the journal volume of entry 0x04_0042 has been written since the last checkpoint. -/
def execCheckpointJournalVolume (s : State) : Answer :=
  if s.param 0x040042 4 * 1073741824 ≤ s.jr.written then .next s.beginCkpt else .next s

/-- CHECKPOINT_DONE: both copies are programmed, which they are not before the first rows of their bands have been read (R137). The
image holds every change journaled before the start JSEQ: one that still waits for its entry is waited for. -/
def execCheckpointDone (cqOk : Bool) (s : State) : Answer := answering cqOk s fun s =>
  match s.jr.ckptRun with
  | none => .next s
  | some (start, clean) =>
    if s.jr.holdStep ≠ 0 then .next s
    else if s.jr.ckptBands = [] then .next s.takeCkptBands
    else if s.jr.acts.any (fun a => decide (a.1 < start)) ∨ s.jr.ckptBands.any (fun k => (s.bandAt k).taken) = true ∨ s.journalRoom 16 = false then .next s
    else .next (((s.writeCheckpoint start clean).pump true).pumpBack)

/-! ### Replay (R125, R126) -/

/-- The map as replay builds it: the store, the namespaces, and EXTENT_DEAD entries that wait for their MAP_SWITCH. -/
structure Replayed where
  st : Store
  insts : SMap Inst
  dead : List (Nat × Nat × Nat) := []
  holdup : Nat := 0
deriving DecidableEq, Repr

def Replayed.slab (r : Replayed) (ti : Nat) : Slab := mget {} r.st.slabs ti
def Replayed.setSlab (r : Replayed) (ti : Nat) (x : Slab) : Replayed :=
  { r with st := { r.st with slabs := mset {} r.st.slabs ti x } }
def Replayed.setBand (r : Replayed) (k : Nat) (x : Band) : Replayed :=
  { r with st := { r.st with bands := mset {} r.st.bands k x } }

/-- A band that backed something is STALE. -/
def Replayed.endBand (r : Replayed) (k : Nat) : Replayed :=
  let y : Band := mget {} r.st.bands k
  if y.st = .opened ∨ y.st = .closed ∨ y.st = .verified then r.setBand k { y with st := .stale } else r

/-- Apply one entry: every entry sets state to an absolute value (R126). -/
def Replayed.apply (r : Replayed) (e : JEntry) : Replayed :=
  match e.body with
  | .pad => r
  | .wpAdvance ti wp wseq =>
    let r := r.setSlab ti { r.slab ti with wp := wp }
    { r with st := { r.st with wseq := Nat.max r.st.wseq wseq } }
  | .slabState ti st p b i =>
    let x := r.slab ti
    if st = .empty then
      let mv : List Nat := match mget none r.st.moves ti with
        | some m => bandKey m.dstRegion m.dstBand :: m.mids.map (fun (y : Nat × Nat × Nat) => bandKey y.1 y.2.1)
        | none => []
      let src : List Nat := if x.st = .opened ∨ x.st = .full then [bandKey x.region x.band] else []
      let r := (src ++ mv).foldl (fun (r : Replayed) (k : Nat) => r.endBand k) r
      let r := r.setSlab ti { inst := i }
      { r with st := { r.st with
          exts := r.st.exts.filter (fun y => match y.2 with | some z => decide (z.slab ≠ ti) | none => false)
          moves := mset none r.st.moves ti none } }
    else r.setSlab ti { x with st := st, region := p, band := b, inst := i }
  | .bandState b st role erases =>
    let k := bandKey e.region b
    let y : Band := mget {} r.st.bands k
    r.setBand k { y with st := st, role := role, erases := erases, own := if y.remapped then y.own else erases }
  | .logExtent pos x =>
    let r := r.setSlab x.slab { r.slab x.slab with log := true }
    { r with st := { r.st with exts := mset none r.st.exts pos (some x) } }
  | .extentDead pos ti epoch =>
    if epoch = 0 then
      (match mget none r.st.exts pos with
      | some x => if x.slab = ti then { r with st := { r.st with exts := mset none r.st.exts pos none } } else r
      | none => r)
    else { r with dead := r.dead ++ [(ti, epoch, pos)] }
  | .moveBegin ti b p w0 epoch =>
    let x := r.slab ti
    let m : Move := { srcRegion := x.region, srcBand := x.band, dstRegion := p, dstBand := b, w0 := w0, epoch := epoch, begun := true }
    let m := match mget none r.st.moves ti with
      | some o => if o.epoch = epoch then o
          else { m with srcRegion := o.srcRegion, srcBand := o.srcBand, mids := o.mids ++ (if w0 = o.w0 then [] else [(o.dstRegion, o.dstBand, o.w0)]) }
      | none => m
    let r := r.setSlab ti { x with moving := true }
    { r with st := { r.st with moves := mset none r.st.moves ti (some m), epoch := Nat.max r.st.epoch epoch } }
  | .mapSwitch ti b p wp epoch =>
    let src : List Nat := match mget none r.st.moves ti with
      | some m => bandKey m.srcRegion m.srcBand :: m.mids.map (fun (y : Nat × Nat × Nat) => bandKey y.1 y.2.1)
      | none => []
    let r := src.foldl (fun (r : Replayed) (k : Nat) => r.endBand k) r
    let mine := r.dead.filter (fun (d : Nat × Nat × Nat) => decide (d.1 = ti ∧ d.2.1 = epoch))
    let exts := mine.foldl (fun m (d : Nat × Nat × Nat) => mset none m d.2.2 none) r.st.exts
    let x := r.slab ti
    let log := exts.any (fun y => match y.2 with | some z => decide (z.slab = ti) | none => false)
    let r := r.setSlab ti { x with region := p, band := b, wp := wp, moving := false, log := log }
    { r with
      dead := r.dead.filter (fun (d : Nat × Nat × Nat) => !(decide (d.1 = ti ∧ d.2.1 = epoch)))
      st := { r.st with exts := exts, moves := mset none r.st.moves ti none } }
  | .fold b f =>
    let k := bandKey e.region b
    (match mget none r.st.slcs k with
    | some x => { r with st := { r.st with slcs := mset none r.st.slcs k (if f = x.w then none else some { x with f := f }) } }
    | none => r)
  | .remap n x =>
    let d := dbKey x.tile x.retired
    let donor : Band := mget {} r.st.bands (bandKey e.region x.replacing)
    let y : Band := mget {} r.st.bands (bandKey e.region x.retired)
    let r := r.setBand (bandKey e.region x.retired) { y with remapped := true }
    { r with st := { r.st with
        remaps := mset none r.st.remaps (Config.remapEntries * e.region + n) (some { x with erases := donor.own })
        retiredDb := if r.st.retiredDb.contains d then r.st.retiredDb else r.st.retiredDb ++ [d] } }
  | .namespace_ i create retire ti n exported =>
    let x := mget {} r.insts i
    let r := { r with st := { r.st with exported := exported } }
    if retire then r.setSlab ti { r.slab ti with st := .retired, inst := i }
    else if create then
      { r with insts := mset {} r.insts i { x with
          st := if x.st = .free then .active else x.st
          extents := if x.extents.contains (ti, n) then x.extents else x.extents ++ [(ti, n)] } }
    else
      let ex := x.extents.filter (fun y => decide (y ≠ (ti, n)))
      { r with insts := mset {} r.insts i (if ex = [] ∧ i ≠ 0 then {} else { x with extents := ex }) }
  | .checkpoint _ _ _ _ _ => r
  | .holdup t _ => { r with holdup := t }

/-- Whole groups of a journal: runs of entries with CONT, each ended by one without (R125). An unended run is left out. -/
def groupsOf : List JEntry → List JEntry → List (List JEntry)
  | [], _ => []
  | e :: r, acc => if e.cont then groupsOf r (acc ++ [e]) else (acc ++ [e]) :: groupsOf r []

/-- The entries before the first gap in JSEQ. -/
def unbroken : Nat → List JEntry → List JEntry
  | _, [] => []
  | n, e :: r => if e.jseq = n then e :: unbroken (n + 1) r else []

/-- Replay a journal from a start JSEQ over a base (R134). -/
def replay (base : Replayed) (start : Nat) (l : List JEntry) : Replayed :=
  ((groupsOf (unbroken start (l.filter (fun e => decide (start ≤ e.jseq)))) []).flatten).foldl (fun r e => r.apply e) base

/-! ### RECOVERY_START (R134 to R136) -/

/-- Whether a copy of a checkpoint reads back valid. -/
def ckptValid (x : ScanIn) (c : Ckpt) : Bool := !(x.ckptBad.contains (c.num, false)) || !(x.ckptBad.contains (c.num, true))

/-- The checkpoint to start from: the newest with a valid copy, from the one that the newest anchor record names on (R134, R456);
with no anchor the newest on flash (R457). -/
def State.startCkpt (s : State) (x : ScanIn) : Option Ckpt :=
  let l := match s.jr.anchors with
    | a :: _ => s.jr.ckpts.dropWhile (fun (c : Ckpt) => decide (c.num ≠ a.ckpt))
    | [] => s.jr.ckpts
  l.find? (fun c => ckptValid x c)

/-- Whether the last stop was clean: the checkpoint's CLEAN bit is set and no entry follows its own (R134). PAD entries,
which only fill a page, do not count. -/
def State.stopClean (s : State) (c : Ckpt) : Bool :=
  let own := fun (e : JEntry) => match e.body with | .checkpoint n _ _ _ _ => decide (n = c.num) | _ => false
  let after := (s.jr.flash.filter (fun e => decide (c.start ≤ e.jseq))).dropWhile (fun e => !own e)
  c.clean && (after.drop 1).all (fun e => decide (e.body = .pad))

/-- Whether the regions that recovery needs are ready: one that holds a valid copy of the checkpoint, or with no checkpoint every
one (R452, R457). -/
def State.recoverable (s : State) (x : ScanIn) : Bool :=
  match s.startCkpt x with
  | some c => (s.regionReady c.regA && !(x.ckptBad.contains (c.num, false))) || (s.regionReady c.regB && !(x.ckptBad.contains (c.num, true)))
  | none => (List.range 8).all (fun p => s.regionReady p)

/-- Whether every entry of journal page `n` reads back with a valid CRC in a copy (R134). -/
def State.jpageOk (s : State) (x : ScanIn) (b : Bool) (n : Nat) : Bool :=
  s.jr.flash.all (fun e =>
    let f := (x.flips.filter (fun y => decide (y.1 = b ∧ y.2.1 = e.jseq))).map (fun y => y.2.2)
    decide ((e.jseq - 1) / Config.journalPage ≠ n) || f.isEmpty || crcHolds (flipBits e.bytes f))

/-- The entries that recovery reads: those of the pages before the first that no copy gives valid (R134). -/
def State.readable (s : State) (x : ScanIn) : List JEntry :=
  s.jr.flash.takeWhile (fun e =>
    let n := (e.jseq - 1) / Config.journalPage
    x.flips.isEmpty || s.jpageOk x false n || s.jpageOk x true n)

/-- The instances of the recovered map: namespaces by checkpoint and journal, what else R454 keeps as it stood. -/
def State.recoverInsts (s : State) (r : SMap Inst) : SMap Inst :=
  mmap {} (fun (x : Inst) => x) (r.foldl (fun m e =>
    let old := s.inst e.1
    let x := if old.st = .free then e.2 else { old with extents := e.2.extents }
    mset {} m e.1 { x with pasid := none, resetOp := none }) [])

/-! ### The scan (R135) -/

/-- A valid codeword that the scan has collected: its tag, its data, and where it lies. -/
structure ScanTag where
  tag : Tag := {}
  data : Bytes := []
  region : Nat := 0
  band : Nat := 0
  at_ : Nat := 0                      -- grain position of its grain 0
deriving DecidableEq, Repr

/-- What the scan of a row has found so far: collected codewords, the newest write sequence number, whether the row ends the scan,
and whether a page of it is neither erased nor valid. -/
structure RowScan where
  got : List ScanTag := []
  last : Nat := 0
  ends : Bool := false
  torn : Bool := false
deriving DecidableEq, Repr

/-- One codeword of a row (R135): it counts where its tag's CRC is right, its write sequence number is above the last one's, and
its slab is one the band may hold. -/
def RowScan.add (a : RowScan) (may : Tag → Bool) (p b at' : Nat) : ScanCw → RowScan
  | .erased => { a with ends := true }
  | .fail => { a with ends := true, torn := true }
  | .ok d t =>
    let g := Tag.ofBits t
    if tagOk t = false ∨ g.wseq ≤ a.last ∨ may g = false then { a with ends := true, torn := true }
    else { a with got := a.got ++ [{ tag := g, data := d, region := p, band := b, at_ := at' }], last := g.wseq }

/-- Scan the rows of a band forward from one (R135); valid codewords of the last row are still collected. -/
def scanRows (x : ScanIn) (may : Tag → Bool) (p b : Nat) : Nat → Nat → RowScan → RowScan
  | 0, _, a => a
  | fuel + 1, r, a =>
    match x.rows.find? (fun (y : ScanRow) => decide (y.region = p ∧ y.band = b ∧ y.row = r)) with
    | none => { a with ends := true }
    | some y =>
      let a := (List.range 128).foldl (fun (a : RowScan) c => a.add may p b (512 * r + 4 * c) (y.cws.getD c .erased)) a
      if a.ends then a else scanRows x may p b fuel (r + 1) a

/-- Whether two rows hold the same valid codewords. -/
def sameTags (u v : ScanRow) : Bool :=
  (List.range 128).all (fun c => match u.cws.getD c .erased, v.cws.getD c .erased with
    | .ok _ t, .ok _ w => tagOk t && decide (t = w)
    | _, _ => false)

/-- The fold pointer of a band: each QLC row found valid with the tags of its SLC copy advances it (R135). -/
def foldScan (x : ScanIn) (p b : Nat) (y : SlcRec) : Nat → Nat → Nat
  | 0, f => f
  | fuel + 1, f =>
    match y.rows.find? (fun (r : Nat × Nat × Nat) => decide (r.1 = f)) with
    | none => f
    | some r =>
      let row := fun (b r : Nat) => x.rows.find? (fun (z : ScanRow) => decide (z.region = p ∧ z.band = b ∧ z.row = r))
      match row b f, row r.2.1 r.2.2 with
      | some u, some v => if sameTags u v then foldScan x p b y fuel (f + 1) else f
      | _, _ => f

/-- The last journaled pointer of an OPEN band, as a row (R134): the write pointer of its slab or of the slab that moves to it, or
the end of its newest journaled log extent; all of an SLC buffer band is scanned. -/
def State.scanFrom (s : State) (p b : Nat) : Nat :=
  match s.logOf p b with
  | some n => s.st.exts.foldl (fun m e => match e.2 with | some x => if x.logSlab = n then Nat.max m ((x.logFirst + x.count) / 512) else m | none => m) 0
  | none => match (match s.movingTo p b with | some (ti, _) => some ti | none => s.slabOf p b) with
    | some ti => (s.slab ti).wp / 512
    | none => 0

/-- The codewords a band may hold (R135). -/
def State.scanMay (s : State) (p b role : Nat) (g : Tag) : Bool :=
  let used := decide ((s.slab g.slab).st = .opened ∨ (s.slab g.slab).st = .full)
  if role = 1 then decide (g.kind = 1) && used && (match s.logOf p b with
    | some n => (match mget none s.st.logs n with | some l => (s.slabNumber l.inst g.slab).isSome | none => false)
    | none => false)
  else if role = 0 then decide (g.kind = 0) && decide ((match s.movingTo p b with | some (ti, _) => some ti | none => s.slabOf p b) = some g.slab)
  else decide (g.kind ≤ 1) && used

/-- Scan every band that is OPEN in the recovered map (R134, R135): the codewords found, and the bands whose scan ended on a page
neither erased nor valid. Fold pointers advance. -/
def State.scanBands (s : State) (x : ScanIn) : List ScanTag × List Nat × State :=
  let go := s.st.bands.filter (fun e => decide (e.2.st = .opened ∧ e.2.role ≤ 2))
  let all := go.map (fun e =>
    let p := bandRegion e.1
    let b := bandIndex e.1
    (e.1, scanRows x (s.scanMay p b e.2.role) p b 2049 (s.scanFrom p b) {}))
  let slcs := s.st.slcs.map (fun (e : Nat × Option SlcRec) => (e.1, e.2.map (fun y => { y with f := foldScan x (bandRegion e.1) (bandIndex e.1) y 2049 y.f })))
  (all.flatMap (fun e => e.2.got), (all.filter (fun e => e.2.torn)).map (·.1), { s with st := { s.st with slcs := slcs } })

/-! ### Commit groups (R136) -/

/-- A commit group that the scan found: of a slab's band, or of a log slab. -/
structure ScanGroup where
  slab : Nat
  cgid : Nat
  first : Nat
  count : Nat
  complete : Bool
  log : Option (Nat × Nat)
deriving DecidableEq, Repr

/-- Written grains of a codeword from its grain `i` on. -/
def writtenFrom (d : BitVec 16) : Nat → Nat → Nat
  | 0, _ => 0
  | fuel + 1, i => if 4 ≤ i then 0 else if (tagDesc d i).toNat / 4 = 0 then 0 else writtenFrom d fuel (i + 1) + 1

/-- The groups that follow grain `g` in a slab's band, up to the first that is not complete: `start` is the first grain of the one
being walked. -/
def slabGroups (l : List ScanTag) (ti : Nat) : Nat → Nat → Nat → Nat → List ScanGroup
  | 0, _, _, _ => []
  | fuel + 1, start, g, cg =>
    let broken : List ScanGroup := if start = g then [] else [{ slab := ti, cgid := cg, first := start, count := g - start, complete := false, log := none }]
    match l.find? (fun y => decide (y.tag.grain = g / 4 * 4)) with
    | none => broken
    | some y =>
      let n := writtenFrom y.tag.desc 4 (g % 4)
      if n = 0 then broken
      else if y.tag.last then
        { slab := ti, cgid := y.tag.cgid, first := start, count := g + n - start, complete := true, log := none } ::
          slabGroups l ti fuel (g + n) (g + n) 0
      else slabGroups l ti fuel start (g / 4 * 4 + 4) y.tag.cgid

/-- The groups that follow position `at'` in the band of log slab `n`; `cur` is the one being walked: slab, group number, first
grain, first position. -/
def logGroups (l : List ScanTag) (n : Nat) : Nat → Nat → Option (Nat × Nat × Nat × Nat) → List ScanGroup
  | 0, _, _ => []
  | fuel + 1, at', cur =>
    let broken : List ScanGroup := match cur with
      | some (ti, cg, first, pos) => [{ slab := ti, cgid := cg, first := first, count := at' - pos, complete := false, log := some (n, pos) }]
      | none => []
    match l.find? (fun y => decide (y.at_ = at' / 4 * 4)) with
    | none => broken
    | some y =>
      let m := writtenFrom y.tag.desc 4 (at' % 4)
      let here := y.tag.grain + at' % 4
      let fits := match cur with | some (ti, cg, first, pos) => decide (ti = y.tag.slab ∧ cg = y.tag.cgid ∧ first + (at' - pos) = here) | none => true
      if m = 0 ∨ fits = false then broken
      else
        let (ti, cg, first, pos) := cur.getD (y.tag.slab, y.tag.cgid, here, at')
        if y.tag.last then
          { slab := ti, cgid := cg, first := first, count := at' + m - pos, complete := true, log := some (n, pos) } :: logGroups l n fuel (at' + m) none
        else logGroups l n fuel (at' / 4 * 4 + 4) (some (ti, cg, first, pos))

/-- Insert a scanned group by commit group number, after equals. -/
def insertGroup (g : ScanGroup) : List ScanGroup → List ScanGroup
  | [] => [g]
  | h :: r => if g.cgid < h.cgid then g :: h :: r else h :: insertGroup g r

/-- The commit groups in the band copies that the scan collected, by commit group number. Codewords that a relocation wrote are
garbage (R138), and those of the SLC buffer are copies. -/
def State.scanGroups (s : State) (l : List ScanTag) : List ScanGroup :=
  let own := l.filter (fun y => y.tag.reloc.isNone && !y.tag.tail && !y.tag.rescue)
  let slabs := own.foldl (fun (acc : List Nat) y => if y.tag.kind = 0 ∧ acc.contains y.tag.slab = false then acc ++ [y.tag.slab] else acc) []
  let a := slabs.flatMap (fun ti => slabGroups (own.filter (fun y => decide (y.tag.kind = 0 ∧ y.tag.slab = ti))) ti (own.length + 1) (s.slab ti).wp (s.slab ti).wp 0)
  let b := s.st.logs.flatMap (fun e => match e.2 with
    | some g =>
      let mine := own.filter (fun y => decide (y.tag.kind = 1 ∧ y.region = g.region ∧ y.band = g.band))
      logGroups mine e.1 (mine.length + 1) g.fill none
    | none => [])
  (a ++ b).foldl (fun acc g => insertGroup g acc) []

/-- Apply the scanned commit groups: for each slab in order, as far as they are complete (R134, R136). -/
def State.applyScan (s : State) (groups : List ScanGroup) : State :=
  (foldS (fun (acc : State × List Nat) (g : ScanGroup) =>
    let s := acc.1
    let x := s.slab g.slab
    if acc.2.contains g.slab then acc
    else if g.complete = false ∨ (x.st ≠ .opened ∧ x.st ≠ .full) then (s, g.slab :: acc.2)
    else match g.log with
      | none =>
        if g.first ≤ x.wp ∧ x.wp < g.first + g.count then
          (s.setSlab g.slab { x with wp := Nat.min Config.slabGrains (g.first + g.count) }, acc.2)
        else (s, acc.2)
      | some (n, at') =>
        match s.freeExt with
        | some pos =>
          let age := s.st.extAge + 1
          let e : Extent := { slab := g.slab, first := g.first, count := g.count, logSlab := n, logFirst := at', age := age, cgid := g.cgid }
          let s := s.setSlab g.slab { s.slab g.slab with log := true }
          let logs := match mget none s.st.logs n with
            | some l => mset none s.st.logs n (some { l with fill := Nat.max l.fill (at' + g.count) })
            | none => s.st.logs
          ({ s with st := { s.st with exts := mset none s.st.exts pos (some e), extAge := age, logs := logs } }, acc.2)
        | none => (s, acc.2)) (s, ([] : List Nat)) groups).1

/-- The grains a rescue copy gives back to staging, where no band copy of them was found (R135): the ones of the slab's band, or at
the place of the log extent that holds them. Stream tails come back from the codewords flagged as tails, with the length that the
map kept for them (R134, assumption 73). -/
def State.applyRescue (s : State) (l : List ScanTag) (tails : SMap Bytes) : State :=
  let copies := l.filter (fun y => y.tag.rescue && !y.tag.tail)
  let band := l.filter (fun y => !y.tag.rescue)
  let s := foldS (fun (s : State) (y : ScanTag) =>
    foldS (fun (s : State) (i : Nat) =>
      let g := y.tag.grain + i
      let ti := y.tag.slab
      let place : Option (Nat × Nat × Nat) :=
        if y.tag.kind = 1 then (match s.liveExt ti g with
          | some (_, e) => (mget none s.st.logs e.logSlab).map (fun z => (z.region, z.band, e.logFirst + (g - e.first)))
          | none => none)
        else match mget none s.st.moves ti with
          | some m => some (m.dstRegion, m.dstBand, g)
          | none => some ((s.slab ti).region, (s.slab ti).band, g)
      let found := band.any (fun z => decide (z.tag.slab = ti ∧ z.tag.kind = y.tag.kind ∧ z.tag.wseq = y.tag.wseq ∧ z.tag.grain = y.tag.grain))
      match place with
      | none => s
      | some (p, b, at') =>
        if found ∨ (tagDesc y.tag.desc i).toNat / 4 = 0 ∨ (s.stagedAt p b at').isSome then s
        else
          let e : Staged := { slab := ti, grain := g, region := p, band := b, at_ := at', data := slice y.data (1024 * i) 1024, desc := tagDesc y.tag.desc i
                              wseq := y.tag.wseq, cgid := y.tag.cgid, last := y.tag.last, grp := g, wpAt := g, kind := y.tag.kind, reloc := y.tag.reloc, poison := y.tag.poison }
          ({ s with staged := s.staged ++ [e] }).setDesc ti g e.desc) s (List.range 4)) s copies
  foldS (fun (s : State) (y : ScanTag) =>
    let old := mget [] tails y.tag.slab
    { s with st := { s.st with tails := mset [] s.st.tails y.tag.slab (slice y.data 0 old.length), tailSeqs := mset 0 s.st.tailSeqs y.tag.slab y.tag.wseq } })
    s (l.filter (fun y => y.tag.tail))

/-- Grains lost with the supplies, but for those that the scan has given back (R123). -/
def State.stillLost (s : State) : List Staged :=
  s.jr.lost.filter (fun e => !(s.staged.any (fun x => decide (x.slab = e.slab ∧ x.grain = e.grain ∧ x.wseq = e.wseq))))

/-- Lower each slab to before its oldest commit group that was lost with the supplies: the write pointer it had then, and without
the log extents of that group and of later ones (R123, R136); a FULL slab whose pointer falls is OPEN again, with its band (R93,
R96). -/
def State.applyLost (s : State) : State :=
  let lost := s.stillLost
  let slabs := lost.foldl (fun (acc : List Nat) e => if acc.contains e.slab then acc else acc ++ [e.slab]) []
  let s := foldS (fun (s : State) (ti : Nat) =>
    match bestBy (fun (a b : Staged) => decide (a.wseq < b.wseq)) (lost.filter (fun e => decide (e.slab = ti ∧ e.reloc = none))) with
    | none => s
    | some e =>
      let s := { s with
        st := { s.st with exts := s.st.exts.filter (fun y => match y.2 with | some z => !decide (z.slab = ti ∧ e.cgid ≤ z.cgid) | none => false) }
        staged := s.staged.filter (fun y => !decide (y.slab = ti ∧ e.wseq ≤ y.wseq)) }
      let x := s.slab ti
      if x.wp ≤ e.wpAt then s
      else
        let s := s.setSlab ti { x with wp := e.wpAt, st := if x.st = .full then .opened else x.st }
        let b := s.band x.region x.band
        if x.st = .full ∧ b.st = .closed then s.setBand x.region x.band { b with st := .opened, closedAt := none } else s) s slabs
  { s with jr := { s.jr with lost := [] } }

/-- The staged grains that rescue copies held come back into staging, for the bands the map still names. Rows that had all their
pages programmed lie there; those of a torn band wait until it is relocated (R131, R137); the others are programmed anew. A row
whose way to the SLC buffer was cut short is resident there no more. -/
def State.restoreStaging (s : State) : State :=
  let row := fun (e : Staged) => s.jr.rescue.filter (fun x => decide (x.region = e.region ∧ x.band = e.band ∧ x.at_ / 512 = e.at_ / 512))
  let live := fun (e : Staged) =>
    let b := s.band e.region e.band
    decide (b.st = .opened ∨ b.st = .closed ∨ b.st = .free) && decide (b.role = 0 ∨ b.role = 1)
  let whole := fun (e : Staged) => (row e).all (fun x => x.issued && x.programmed)
  let back := s.jr.rescue.filter (fun e => live e && !whole e)
  let slcs := s.st.slcs.map (fun (e : Nat × Option SlcRec) => (e.1, e.2.bind (fun (y : SlcRec) =>
    let cut := back.filter (fun x => decide (bandKey x.region x.band = e.1) && y.rows.any (fun r => decide (r.1 = x.at_ / 512)))
    let y : SlcRec := { y with w := cut.foldl (fun w x => Nat.min w (x.at_ / 512)) y.w, rows := y.rows.filter (fun r => !cut.any (fun x => decide (x.at_ / 512 = r.1))),
                               phase := 0, left := 0, got := [] }
    if y.rows = [] then none else some y)))
  { s with
    staged := s.staged ++ back.map (fun e => { e with programmed := false, issued := (s.band e.region e.band).torn })
    st := { s.st with slcs := slcs.filter (fun e => e.2.isSome) }
    jr := { s.jr with rescue := [] } }

/-- A row that is programmed but holds grains that the recovered map does not count leaves its band torn (R136, R137; DEDUCED,
assumption 73). -/
def State.strayBands (s : State) (l : List ScanTag) : List Nat :=
  (l.filter (fun y =>
    let past := match s.logOf y.region y.band with
      | some n => (match mget none s.st.logs n with | some g => decide (g.fill ≤ y.at_) | none => false)
      | none => match (match s.movingTo y.region y.band with | some (ti, _) => some ti | none => s.slabOf y.region y.band) with
        | some ti => decide ((s.slab ti).wp ≤ y.at_ + 3) && y.tag.reloc.isNone
        | none => false
    past)).map (fun y => bandKey y.region y.band)

/-- Mark bands as torn. -/
def State.markTorn (s : State) (l : List Nat) : State := foldS (fun (s : State) (k : Nat) => s.setBandAt k { s.bandAt k with torn := true }) s l

/-- The log slabs of the recovered map: written up to their newest journaled extent (R134). -/
def recoverLogs (logs : SMap (Option LogSlab)) (exts : SMap (Option Extent)) : SMap (Option LogSlab) :=
  logs.map (fun (e : Nat × Option LogSlab) => (e.1, e.2.map (fun (l : LogSlab) => { l with
    fill := exts.foldl (fun m y => match y.2 with | some x => if x.logSlab = e.1 then Nat.max m (x.logFirst + x.count) else m | none => m) 0 })))

/-- After an unclean stop: the scan, the rescue copies, the groups found complete, and what was lost (R134 to R136). -/
def State.scanStage (s : State) (x : ScanIn) (tails : SMap Bytes) : State :=
  let (l, torn, s) := s.scanBands x
  let s := (s.applyScan (s.scanGroups l)).applyRescue l tails
  let s := s.applyLost
  let top := l.foldl (fun n y => Nat.max n y.tag.wseq) s.st.wseq
  ({ s with st := { s.st with wseq := top } }).markTorn (torn ++ s.strayBands l)

/-- RECOVERY_START: firmware runs and a region that holds a valid copy of the checkpoint is ready. The checkpoint is loaded and the
journal replayed over it; after an unclean stop the bands that were open are scanned, and the groups found complete are applied.
What the journal does not carry is taken from what lies on flash or was kept (assumption 57). -/
def execRecoveryStart (scan : ScanIn) (s : State) : Answer :=
  if s.jr.recovered = true ∨ bit s.hq.idReady 3 = true ∨ s.stew.boot ≠ .firmware ∨ s.recoverable scan = false then .next s
  else
    let c := s.startCkpt scan
    let base : Replayed := match c with
      | some k => { st := k.image, insts := k.insts }
      | none => { st := {}, insts := [(0, { st := .active, quota := 65536 })] }
    let start := match c with | some k => k.start | none => 1
    let clean := match c with | some k => s.stopClean k | none => false
    let r := if clean then base else replay base start (s.readable scan)
    let live := s.st
    let keepTails := decide (s.jr.unsafeStop = false ∧ s.jr.lost = [])
    let st := { r.st with
      descs := live.descs, geom := live.geom, logs := if clean then live.logs else recoverLogs live.logs r.st.exts
      tails := if keepTails then live.tails else [], tailSeqs := if keepTails then live.tailSeqs else []
      failedDies := live.failedDies, sanitizing := live.sanitizing, sanAt := live.sanAt, sanWait := live.sanWait, sanJournal := live.sanJournal
      formatting := live.sanitizing && live.formatting, emptying := [], paritySlot := live.paritySlot, ringUsed := live.ringUsed
      parity := live.parity, ringNext := live.ringNext, slcCur := live.slcCur, cgid := live.cgid, badDonors := live.badDonors, spares := live.spares
      wseq := Nat.max r.st.wseq live.wseq, extAge := Nat.max r.st.extAge live.extAge
      slcs := live.slcs.filter (fun e => decide ((mget {} r.st.bands e.1).st = .opened ∨ (mget {} r.st.bands e.1).st = .closed))
      moveReq := [], mergeReq := [], verifies := [], repairs := [], parityAgain := [], slcAgain := [], wear := [], refresh := [] }
    let regA := ((List.range 8).find? (fun p => s.regionReady p)).getD 0
    let s := { s with
      st := st
      hq := { s.hq with insts := s.recoverInsts r.insts }
      levels := match c with | some k => k.levels | none => s.levels
      pilotAge := match c with | some k => k.pilotAge | none => s.pilotAge
      stew := { s.stew with
        ageClock := (match c with | some k => k.ageClock | none => 0) + (s.now - s.stew.time0) / 1000000000
        ageBase := s.now, wallSaved := match c with | some k => k.wall | none => none }
      jr := { s.jr with
        recovered := true, clean := clean, jseq := Nat.max s.jr.persistedTo (start - 1), regA := regA, regB := (regA + 4) % 8
        lastHoldup := if r.holdup = 0 then s.jr.lastHoldup else r.holdup, acts := [], lastFlush := s.now, ckptAt := s.now } }
    let s := s.markTorn ((live.bands.filter (fun e => e.2.torn && decide ((s.bandAt e.1).st = .opened ∨ (s.bandAt e.1).st = .closed))).map (·.1))
    let s := if clean then { s with jr := { s.jr with lost := [] } } else s.scanStage scan live.tails
    let s := { s with st := { s.st with slabs := mmap {} (fun (x : Slab) => { x with tail := false }) s.st.slabs } }
    let s := foldS (fun (s : State) (e : Nat × Bytes) => s.setSlab e.1 { s.slab e.1 with tail := true }) s s.st.tails
    .next s.restoreStaging

/-! ### MAP_READY (R134, R137, R138, R454) -/

/-- Settle an instance that was being reset or deleted at the device reset (R454); a delete whose slabs are not all emptied yet goes
on with INSTANCE_RESET_COMPLETE. -/
def State.settleInst (s : State) (i : Nat) : State :=
  let x := s.inst i
  if x.st ≠ .resetting then s
  else if x.resetDelete then
    let s := s.emptyOfInst i
    if s.usedOf i = [] then s.finishDelete i else s
  else s.setInst i { x with st := x.prior, resetOp := none, resetDelete := false, keepKeys := false }

/-- Bands that hold a page neither erased nor valid are relocated; a log slab band is merged (R137). -/
def State.relocateCut (s : State) : State :=
  foldS (fun (s : State) (e : Nat × Band) =>
    let p := bandRegion e.1
    let b := bandIndex e.1
    if e.2.torn = false ∨ (e.2.st ≠ .opened ∧ e.2.st ≠ .closed) ∨ 2 ≤ e.2.role ∨ (s.movingTo p b).isSome = true then s
    else s.askBand p b .loss) s s.st.bands

/-- Bands that a slab, a log slab or the SLC buffer was given, and that the recovered map finds FREE because their first-row reads
had not been journaled, are read anew (R137). -/
def State.retake (s : State) : State :=
  let s := foldS (fun (s : State) (e : Nat × Slab) =>
    if (e.2.st = .opened ∨ e.2.st = .full) ∧ (s.band e.2.region e.2.band).st = .free ∧ (mget none s.st.moves e.1).isNone = true then
      let s := s.takeBand e.2.region e.2.band 0
      if e.2.st = .full then s.setBand e.2.region e.2.band { s.band e.2.region e.2.band with closedAt := some s.now } else s
    else s) s s.st.slabs
  let s := foldS (fun (s : State) (e : Nat × Option LogSlab) => match e.2 with
    | some l => if (s.band l.region l.band).st ≠ .free then s
        else if l.fill = 0 then { s with st := { s.st with logs := mset none s.st.logs e.1 none } }
        else s.takeBand l.region l.band 1
    | none => s) s s.st.logs
  { s with st := { s.st with
    slcCur := s.st.slcCur.filter (fun e => match e.2 with | some (b, _) => decide ((s.band e.1 b).st = .opened) | none => false)
    paritySlot := s.st.paritySlot.filter (fun e => match e.2 with
      | some n => decide ((s.band (bandRegion (e.1 / 2048)) (s.ringBand (bandRegion (e.1 / 2048)) (n / 4096))).st = .opened) | none => false)
    ringUsed := s.st.ringUsed.filter (fun e => decide ((s.bandAt e.1).st = .opened)) } }

/-- MAP_READY: moving slabs are settled (R138), STALE bands are erased again, resets and deletes under way end, a new
checkpoint is begun, and `ID_READY.MAP` is set. A SANITIZE under way goes on, and erases again the band whose erase was in progress
(R85). -/
def execMapReady (s : State) : Answer :=
  if s.jr.recovered = false ∨ bit s.hq.idReady 3 = true then .next s
  else
    let s := foldS (fun (s : State) (e : Nat × Inst) => s.settleInst e.1) s s.hq.insts
    let s := { s with st := { s.st with bands := mmap {} (fun (x : Band) => { x with
      st := if x.st = .erasing then .stale else x.st, erasePend := [], eraseWait := [], checking := [], readers := 0 }) s.st.bands } }
    let s := foldS (fun (s : State) (e : Nat × Option Move) => match e.2 with
      | some m => s.restartMove e.1 m (decide ((s.band m.dstRegion m.dstBand).st ≠ .free))
      | none => s) s s.st.moves
    let s := (s.retake).relocateCut
    let s := match s.st.sanWait with
      | some k => { s with st := { s.st with sanWait := none, sanAt := Nat.min s.st.sanAt k } }
      | none => s
    let s := foldS (fun (s : State) (e : Nat × Band) => if e.2.st = .stale then s.bandStale e.1 else s) s s.st.bands
    let s := if s.jr.unsafeStop then
        let s := { s with health := { s.health with unsafeShutdowns := s.health.unsafeShutdowns + 1 }, jr := { s.jr with unsafeStop := false } }
        s.health! 0x71 7 noRegion 0xFF noLink (BitVec.ofNat 64 s.jr.lastHoldup) 0
      else s
    let s := { s with stew := { s.stew with mapAt := s.now } }
    let s := s.setReady (s.hq.idReady ||| 8)
    let s := (if s.jr.clean then s else s.beginCkpt).poolChanged
    .next (((s.pump true).pumpBack).pumpRuns true)

end Sys2Proof.Machine
end

