-- ==== Sys2Proof/Machine/MediaOps.lean ====
section
/-! DEFINITION. Shared operations of media responses (07): to whom a codeword goes, what a lost one leads to, read-level
tracking (R187, R188), failures of programs, erases and dies (R197 to R199), and links that carry nothing more (R435). -/

namespace Sys2Proof.Machine

/-! ### Read-level tracking (R187, R188, R192) -/

/-- 2^((c − 8) ÷ 4) in units of 2^−64, for the codes c of RATIO (R185). -/
def ratioScaled : List Nat :=
  [4611686018427387904, 5484249825272419512, 6521908912666391106, 7755900482342532474,
   9223372036854775808, 10968499650544839023, 13043817825332782212, 15511800964685064948,
   18446744073709551616, 21936999301089678047, 26087635650665564425, 31023601929370129896,
   36893488147419103232, 43873998602179356093, 52175271301331128849, 62047203858740259793]

/-- round(16 · ratio(c) · n) (R188). -/
def ratioTimes (c n : Nat) : Nat := (16 * ratioScaled.getD c 0 * n + 9223372036854775808) / 18446744073709551616

/-- The code whose ratio lies nearest up ÷ down (R190): the number of midpoints of neighbouring ratios below it. -/
def ratioCode (up down : Nat) : Nat :=
  (List.range 15).countP (fun c => decide ((ratioScaled.getD c 0 + ratioScaled.getD (c + 1) 0) * down < 2 * 18446744073709551616 * up))

/-- A read-level entry after the counts of one boundary (R188): the entry, and the direction of a change of offset. -/
def RLevel.track (e : RLevel) (k up down : Nat) : RLevel × Option Bool :=
  let acc := e.acc + 16 * (up : Int) - (ratioTimes e.ratio down : Int)
  if acc ≥ 16 * (k : Int) then ({ e with offset := min (e.offset + 1) 63, acc := 0 }, some true)
  else if acc ≤ -16 * (k : Int) then ({ e with offset := max (e.offset - 1) (-64), acc := 0 }, some false)
  else ({ e with acc := acc }, none)

/-- Note the direction of a class's last offset change (R191). -/
def State.noteDir (s : State) (l : Nat) (m : MCmd) (cls : Nat) (up : Bool) : State :=
  { s with levelDir := mset none s.levelDir (levelKey l m.die (cwPlane m) cls (if m.slc then 0 else 1)) (some up) }

/-- Upward and downward errors counted at a boundary: the boundary, and both counts (R187). -/
abbrev Counts := Nat × Nat × Nat

/-- Apply the evidence of a codeword to the entries of its die, plane and class (R188). -/
def State.applyEvidence (s : State) (l : Nat) (m : MCmd) (ev : List Counts) : State :=
  let cls := s.cmdClass l m
  foldS (fun (s : State) (v : Counts) =>
    let (e, dir) := (s.level l m.die (cwPlane m) cls v.1).track (s.param 0x030011 64) v.2.1 v.2.2
    let s := s.setLevel l m.die (cwPlane m) cls v.1 e
    match dir with | some d => s.noteDir l m cls d | none => s) s ev

/-! ### Evidence (R187) -/

/-- The bit positions in which two byte strings differ (R179: bit n is bit n mod 8 of byte ⌊n ÷ 8⌋). -/
def diffBits (a b : Bytes) : List Nat :=
  ((a.zip b).zipIdx).flatMap (fun e => (List.range 8).filterMap (fun i => if bit (e.1.1 ^^^ e.1.2) i then some (8 * e.2 + i) else none))

/-- Bit `n` of a codeword. -/
def cwBit (b : Bytes) (n : Nat) : Bool := bit (b.getD (n / 8) 0) (n % 8)

/-- The bit that page type `t` reads of a cell in state `st`: 1 in state 0, turned over by each boundary of the type at or below the
state (R177; that the erased state reads 1 is PRESUMED, assumption 76). -/
def stateBit (map : BitVec 32) (t st : Nat) : Bool :=
  decide ((List.range st).countP (fun k => decide (bits map (2 * k) 2 = t)) % 2 = 0)

/-- A cell's true state from the corrected bits of the four pages (R187): the lowest that reads so. -/
def stateOf (map : BitVec 32) (b : Nat → Bool) : Option Nat :=
  (List.range 16).find? (fun st => (List.range 4).all (fun t => stateBit map t st == b t))

/-- The boundary an error of page type `t` is attributed to in a cell of state `st`, and whether it is upward (R187). -/
def blame (map : BitVec 32) (t st : Nat) : Option (Nat × Bool) :=
  if st < 15 ∧ bits map (2 * st) 2 = t then some (st + 1, true)
  else if 0 < st ∧ bits map (2 * (st - 1)) 2 = t then some (st, false)
  else none

/-- Counts by boundary. -/
def tally (l : List (Nat × Bool)) : List Counts :=
  ((List.range 16).map (fun b => (b, l.countP (fun e => decide (e = (b, true))), l.countP (fun e => decide (e = (b, false)))))).filter
    (fun v => decide (v.2 ≠ (0, 0)))

/-- The evidence of one page of a wordline whose four pages `ws` have been decoded (R187). -/
def pageCounts (map : BitVec 32) (ws : List WlPage) (w : WlPage) : List Counts :=
  tally ((diffBits w.hard w.cw).filterMap (fun n =>
    (stateOf map (fun t => match ws.find? (fun x => decide (x.kind = t)) with | some x => cwBit x.cw n | none => false)).bind (blame map w.kind)))

/-- The evidence of a codeword of an SLC-mode block: its one boundary lies between the erased state, which reads 1, and the other
(R187, assumption 76). -/
def slcCounts (hard cw : Bytes) : List Counts :=
  let d := diffBits hard cw
  [(0, d.countP (fun n => cwBit cw n), d.countP (fun n => !cwBit cw n))].filter (fun v => decide (v.2 ≠ (0, 0)))

/-- A codeword position of a wordline. -/
def wlKey (m : MCmd) : Nat := (((m.die * 4 + cwPlane m) * 4096 + m.block) * 512 + m.page / 4) * 4 + cwIndex m

/-- A codeword has been decoded from a sense at tracked offsets: in SLC mode it is evidence at once; else it counts, with the three
others, once all four pages of its wordline have been decoded there within 1 ms (R187). -/
def State.noteEvidence (s : State) (l : Nat) (m : MCmd) (hard cw : Bytes) : State :=
  if m.slc then s.applyEvidence l m (slcCounts hard cw)
  else
    let x := s.link l
    let w : WlPage := { pos := wlKey m, kind := m.page % 4, time := s.now, hard := hard, cw := cw }
    let near := x.wlPages.filter (fun y => decide (s.now < y.time + 1000000 ∧ (y.pos ≠ w.pos ∨ y.kind ≠ w.kind))) ++ [w]
    let ws := near.filter (fun y => decide (y.pos = w.pos))
    match x.desc, decide (ws.length = 4) with
    | some d, true =>
      foldS (fun (s : State) (y : WlPage) => s.applyEvidence l m (pageCounts d.levelMap ws y))
        (s.putLink l { x with wlPages := near.filter (fun y => decide (y.pos ≠ w.pos)) }) ws
    | _, _ => s.putLink l { x with wlPages := near }

/-- A rung-1 success sets the offsets of the page type to the shifted values (R192). -/
def State.keepShift (s : State) (l : Nat) (m : MCmd) (sub : Nat) : State :=
  let cls := s.cmdClass l m
  let shift := s.rungShift l m 1 sub
  let s' := foldS (fun (s : State) (b : Nat) =>
    let e := s.level l m.die (cwPlane m) cls b
    s.setLevel l m.die (cwPlane m) cls b { e with offset := max (-64) (min 63 (e.offset + shift)), acc := 0 }) s
    (s.pageBoundaries l m.page m.slc)
  s'.noteDir l m cls (decide (0 < shift))

/-! ### Failed dies (R199) -/

/-- Count a program, erase or die failure (R199). -/
def State.countDie (s : State) (l die : Nat) : State :=
  { s with health := { s.health with dieFails := mmod 0 s.health.dieFails (16 * l + die) (· + 1) } }

/-- Whether a band has a dieblock on a link, and on a die of it if one is named (R94, R115). -/
def State.bandOn (s : State) (k l : Nat) (die : Option Nat) : Bool :=
  let c := s.locQlc (bandRegion k) (bandIndex k) (64 * (tileOfLink l % 8))
  decide (bandRegion k = regionOfLink l ∧ c.link = l) && (match die with | some d => decide (c.die = d) | none => true)

/-! ### Who takes a codeword -/

/-- What a read has given: the data and the tag; none when it is lost. -/
abbrev CwData := Option (Bytes × BitVec 256)

/-- The place a READ_PAGE reads. -/
def readLoc (l : Nat) (m : MCmd) : Loc :=
  { link := l, die := m.die, plane := cwPlane m, block := m.block, page := m.page, cw := cwIndex m, slc := m.slc }

/-- The number of a read's codeword among the 128 of its row. -/
def rowCw (l : Nat) (m : MCmd) : Nat := 16 * (tileOfLink l % 8) + 4 * cwPlane m + cwIndex m

/-- The place of a read's codeword in the band row it belongs to (R107). -/
def State.homeOfRead (s : State) (l : Nat) (m : MCmd) : Loc :=
  let (k, r) := s.rowOfRead l m
  s.homeLoc (bandRegion k) (bandIndex k) (512 * r + 4 * rowCw l m)

/-- A corrected codeword as it is encoded for its row's QLC place, in which form the row's parity holds it; a codeword of a parity
page is taken as it is (R181, R194, assumption 72). -/
def State.qlcForm (s : State) (l : Nat) (m : MCmd) (cw : Bytes) : Bytes :=
  if (s.bandAt (s.bandAtPlace l m.die m.block)).role = 3 then cw
  else
    let a := (readLoc l m).seed
    let b := (s.homeOfRead l m).seed
    if a = b then cw
    else
      let x := cwOpen a cw
      cwEncode b x.1 (natLe 32 x.2.toNat)

/-- The digest lane of a tile that may hash a segment by snoop: enabled and idle (R377). -/
def State.snoopLane (s : State) (t : Nat) : Option Nat :=
  let c := (s.tile t).crypt
  if c.dgSnoop = false ∨ (s.tile t).quiesced = true then none
  else (List.range 2).find? (fun l => (mget none c.dgRun l).isNone && bit c.dgEn l && !bit c.dgRetired l &&
    decide (s.snooping t / 2 ^ l % 2 = 0))

/-- A codeword of a segment whose stage 0 digests the range comes through the link: a lane takes the segment with its first
codeword, one that climbed past rung 0 ends the snoop, the last one completes it (R377). -/
def State.snoopCodeword (s : State) (k i j : Nat) (late : Bool) : State :=
  match s.runOf k with
  | none => s
  | some r => match r.seg? i j with
    | none => s
    | some g =>
      if g.ph ≠ 1 ∨ (stageAt r.pipe 0).perRange = false then s
      else
        let first := decide (g.got = [])
        let lane := if g.snoop = 0 then (match (if first then s.snoopLane g.tile else none) with | some l => l + 1 | none => 9) else g.snoop
        if lane = 9 then s.putSeg k { g with snoop := 9 }
        else
          let c := (s.tile g.tile).crypt
          if late then
            (s.putSeg k { g with snoop := 9 }).setTile g.tile { s.tile g.tile with crypt := { c with dgFallback := satAdd 255 c.dgFallback 1 } }
          else if g.left = 1 then
            (s.putSeg k { g with snoop := 9 }).setTile g.tile { s.tile g.tile with crypt := { c with dgSegs := satAdd 16777215 c.dgSegs 1 } }
          else s.putSeg k { g with snoop := lane }

/-- Give a codeword, or its loss, to one of those that read it. `top` is the rung it was decoded on, `met` whether it meets
the verify margin (R103). -/
def State.deliver (s : State) (l : Nat) (m : MCmd) (top : Nat) (met : Bool) (res : CwData) (w : HostWrite) (cqOk : Bool)
    (why : Why) : State :=
  match why with
  | .hostRead q tag gs => match res with
    | some (d, t) => s.hostGrains q tag gs d (tagPoison t) w cqOk
    | none => s.hostGrains q tag gs [] true w cqOk
  | .segment k i j gs =>
    let s := s.snoopCodeword k i j (decide (top ≠ 0))
    match res with
    | some (d, t) => s.segGrains k i j gs d (tagDescs t) (tagPoison t)
    | none => s.segGrains k i j gs [] 0 true
  | .move ti row => s.moveCodeword ti row (readLoc l m) (res.map (fun r => (r.1, tagPoison r.2)))
  | .verify k => s.verifyCodeword k (tileOfLink l % 8) (met && res.isSome)
  | .foldCw k row => s.foldCodeword k row (rowCw l m) res
  | .repairCw k => s.repairCodeword k (rowCw l m % 16) res
  | _ => s

/-- Count a codeword under the highest rung it reached, per die and device-wide (R195): rung r under key r, and under
8 (16 link + die + 1) + r for the die. -/
def State.countRung (s : State) (l die rung : Nat) : State :=
  let h := s.health
  { s with health := { h with rung := mmod 0 (mmod 0 h.rung rung (· + 1)) (8 * (16 * l + die + 1) + rung) (· + 1) } }

/-- A codeword is lost: rung 6 for everyone who reads it (R195). -/
def State.loseCw (s : State) (l cid : Nat) (m : MCmd) : State :=
  let whys := match mget none (s.link l).climbs cid with | some c => m.why :: c.joined | none => [m.why]
  let s := (s.countRung l m.die 6).endCmd l cid
  foldS (fun (s : State) (y : Why) => s.deliver l m 6 false none .ok true y) s whys

/-- A read of a rung-5 rebuild has ended, with its codeword in QLC form: one that fails makes the rebuild fail (R194). -/
def State.rebuildPart (s : State) (l cid : Nat) (cw : Option Bytes) : State :=
  let x := s.link l
  match mget none x.climbs cid, mget none x.cmds cid with
  | some c, some m =>
    if c.rung ≠ 5 ∨ c.rebuild = 0 then s
    else match cw with
      | some b => s.putLink l { x with climbs := mset none x.climbs cid (some { c with rebuild := c.rebuild - 1, parts := c.parts ++ [b] }) }
      | none => s.loseCw l cid m
  | _, _ => s

/-- Give a codeword to everyone who reads it. -/
def State.deliverAll (s : State) (l : Nat) (m : MCmd) (top : Nat) (met : Bool) (cw : Bytes) (res : CwData) (w : HostWrite) (cqOk : Bool)
    (whys : List Why) : State :=
  foldS (fun (s : State) (y : Why) => match y with
    | .rebuild l' cid' => s.rebuildPart l' cid' (some (s.qlcForm l m cw))
    | y => s.deliver l m top met res w cqOk y) s whys

/-- A codeword cannot be read where it lies: rung 5 follows, or it is lost (R191, R194). A read made for a rebuild climbs
rungs 0 to 4 alone; others that joined it go on. -/
def State.giveUp (s : State) (l cid : Nat) (m : MCmd) : State :=
  let x := s.link l
  match m.why, mget none x.climbs cid with
  | .rebuild l' cid', some c =>
    let s := s.rebuildPart l' cid' none
    match c.joined with
    | [] => (s.countRung l m.die 4).endCmd l cid
    | y :: r =>
      let x := s.link l
      let m := { m with why := y }
      let s := s.putLink l { x with
        cmds := mset none x.cmds cid (some m)
        climbs := mset none x.climbs cid (some { c with joined := r }) }
      match s.startRebuild l cid m with
      | (true, s) => s
      | (false, s) => s.loseCw l cid m
  | _, _ => match s.startRebuild l cid m with
    | (true, s) => s
    | (false, s) => s.loseCw l cid m

/-! ### Failed programs and erases (R197 to R199) -/

/-- A program fails; its page is programmed elsewhere as its role has it (R131, R197, R198). -/
def State.programGone (s : State) (l : Nat) (m : MCmd) : State :=
  let t := tileOfLink l
  let k := s.bandAtPlace l m.die m.block
  match m.why with
  | .row kb r => match mget none s.st.repairs kb with
    | some x =>
      if x.phase = 3 ∧ x.tile = t ∧ x.row = r then
        (((s.retireDb t x.old).setRepair kb none).startRepair kb r (t % 8) x.more).pumpRepair kb 2
      else s.programFailed kb r (t % 8)
    | none => s.programFailed kb r (t % 8)
  | .foldRow kb r => s.programFailed kb r (t % 8)
  | .repairProg kb _ => match mget none s.st.repairs kb with
    | some x => (((s.retireDieblock t x.donor).setRepair kb none).startRepair kb x.row (t % 8) x.more).pumpRepair kb 2
    | none => s
  | .slcRow kb r =>
    let s := s.markFailing t (bandIndex k)
    { s with st := { s.st with slcAgain := s.st.slcAgain ++ [(kb, r, t % 8)] } }
  | .parity kb r =>
    let s := s.markFailing t (bandIndex k)
    ({ s with st := { s.st with
      parity := mmod 0 s.st.parity kb (· - 1)
      paritySlot := mset none s.st.paritySlot (2048 * kb + r) none
      parityAgain := s.st.parityAgain ++ [(2048 * kb + r, m.data)] } }).parityRetry
  | .journal first b =>
    let s := s.markFailing t (bandIndex k)
    let x := (s.jcopy b).2
    (s.setJcopy b { x with again := x.again ++ [first] }).pumpJournal
  | .rescue =>
    let s := s.markFailing t (bandIndex k)
    let a : Loc := { link := l, die := m.die, plane := 0, block := m.block, page := m.page, cw := 0, slc := true }
    let cws := (m.data.zipIdx).map (fun (e : Bytes × Nat) =>
      let x := cwOpen (Loc.seed { a with plane := e.2 / 4, cw := e.2 % 4 }) e.1
      (x.1, natLe 32 x.2.toNat))
    { s with jr := { s.jr with rescueAgain := s.jr.rescueAgain ++ [(regionOfLink l, cws)] } }.rescuePump
  | _ => s

/-- An erase ends without success (R199). -/
def State.eraseGone (s : State) (l : Nat) (m : MCmd) : State :=
  match m.why with
  | .bandErase k => s.eraseFail k (tileOfLink l % 8)
  | _ => s

/-- A command that can no longer be carried out: a read goes to rung 5, a program counts as a PROGRAM_FAIL, an erase as an
ERASE_FAIL (R199, R435). -/
def State.cmdGone (s : State) (l cid : Nat) (m : MCmd) : State :=
  match m.op with
  | .readPage => match m.why with
    | .firstRow k => (s.endCmd l cid).firstRowRead k (tileOfLink l % 8) false
    | .donorRow k => (s.endCmd l cid).donorRead k false
    | _ => s.giveUp l cid m
  | .program => (s.endCmd l cid).programGone l m
  | .erase => (s.endCmd l cid).eraseGone l m
  | _ => s.endCmd l cid

/-- What an outstanding command is for moves to a number above those of command IDs: its ID stays taken until its response comes,
which then serves nothing (R171). Answers the number. -/
def State.setAside (s : State) (l cid : Nat) (m : MCmd) : Nat × State :=
  let x := s.link l
  let n := x.freePseudo (x.cmds.length + 1) 256
  (n, s.putLink l { x with
    cmds := mset none (mset none x.cmds n (some m)) cid (some { m with why := .firmware })
    climbs := mset none (mset none x.climbs n (mget none x.climbs cid)) cid none
    rdFor := x.rdFor.map (fun e => if e.1 = cid then (1024, e.2) else e) })

/-- Every outstanding command of a link that satisfies `p` can no longer be carried out; queued ones take a number first. Where
responses may still come (`late`), the ID of a command that has had none stays taken (R171). -/
def State.dropCmds (s : State) (l : Nat) (p : MCmd → Bool) (late : Bool) : State :=
  let x := s.link l
  let mine := x.queue.filter p
  let x := mine.foldl (fun (x : Link) (m : MCmd) =>
    let n := x.freePseudo (x.cmds.length + 1) 256
    { x with cmds := mset none x.cmds n (some m)
             climbs := if m.op = .readPage then mset none x.climbs n (some {}) else x.climbs }) { x with queue := x.queue.filter (fun m => !p m) }
  let s := s.putLink l x
  foldS (fun (s : State) (e : Nat × Option MCmd) => match e.2 with
    | some m =>
      let c := mget none (s.link l).climbs e.1
      let going := match c with | some c => decide (c.rung = 5) | none => false
      let answered := match c with | some c => c.responded | none => false
      if p m = false ∨ going = true ∨ mget none (s.link l).cmds e.1 ≠ some m then s
      else
        let (n, s) := if late = true ∧ answered = false ∧ e.1 < 256 then s.setAside l e.1 m else (e.1, s)
        if m.op = .erase ∧ late = false then
          match m.why with
          | .bandErase k =>
            let b := s.bandAt k
            let t := tileOfLink l % 8
            (s.endCmd l n).setBandAt k { b with eraseWait := t :: b.eraseWait.erase t, st := .stale }
          | _ => s.endCmd l n
        else s.cmdGone l n m
    | none => s) s x.cmds

/-- A die has failed: health names it, its commands end, and every band with a dieblock on it is relocated (R199). -/
def State.dieFailed (s : State) (l die cause : Nat) : State :=
  if s.st.failedDies.contains (16 * l + die) then s
  else
    let s := { s with st := { s.st with failedDies := s.st.failedDies ++ [16 * l + die] } }
    let s := (s.countDie l die).health! 0x23 2 (regionOfLink l) (tileOfLink l) l (BitVec.ofNat 64 die) (BitVec.ofNat 32 cause)
    let s := s.dropCmds l (fun m => decide (m.die = die ∧ m.op ≠ .descriptor)) true
    s.relocateBands (fun k b => s.bandOn k l (some die) && decide (b.st = .opened ∨ b.st = .closed ∨ b.st = .verified))

/-! ### Links that leave ACTIVE (R162, R165, R435) -/

/-- A link changes state: source 17 + offset of its tile is raised (R162, R415). -/
def State.linkTo (s : State) (l : Nat) (st : LState) : State :=
  let x := s.link l
  if x.st = st then s else (s.putLink l { x with st := st }).raise (32 * tileOfLink l + 17 + l % 8)

/-- A link goes DOWN: reads go to rung 5 or fail, programs count as failed, erases wait, and OPEN and CLOSED bands with a
dieblock on it are relocated (R165, R199, R435). -/
def State.linkDown (s : State) (l : Nat) : State :=
  let x := s.link l
  if x.st = .down then s
  else
    let s := (s.putLink l { x with retraining := none, waiting := [], held := [], rdFor := [], susp := [], pilots := [], req := none, wakeSent := false, hunting := false, ring := 0, owed := [], wlPages := [] }).linkTo l .down
    let s := s.health! 0x21 2 (regionOfLink l) (tileOfLink l) l (BitVec.ofNat 64 x.recoveries) (BitVec.ofNat 32 x.resends)
    let s := (s.dropCmds l (fun _ => true) false).nextSofts (regionOfLink l)
    let s := s.relocateBands (fun k b => s.bandOn k l none && decide (b.st = .opened ∨ b.st = .closed))
    (s.pump true).pumpRuns true

/-- A full retrain begins: reads whose band holds parity go to rung 5 at once, the others wait (R435). -/
def State.rebuildWaiting (s : State) (l : Nat) : State :=
  let x := s.link l
  foldS (fun (s : State) (e : Nat × Option MCmd) => match e.2, mget none (s.link l).climbs e.1 with
    | some m, some c =>
      if m.op ≠ .readPage ∨ c.rung = 5 then s
      else match m.why with
        | .rebuild _ _ => s
        | .firstRow _ => s
        | .donorRow _ => s
        | _ => (s.startRebuild l e.1 m).2
    | _, _ => s) s x.cmds

end Sys2Proof.Machine
end

