-- ==== Sys2Proof/Machine/Links.lean ====
section
/-! DEFINITION. The rows of the Rhaent links (06): frames as they arrive, acknowledgement and replay, credits, block lock,
training, recovery, standby and sleep. Response records and codewords have rows of their own. -/

namespace Sys2Proof.Machine

/-! ### Acceptance (R153 to R160) -/

/-- Enter block hunting (R153, R169). -/
def State.hunt (s : State) (l : Nat) : State :=
  let x := s.link l
  { s with health := { s.health with linkHunts := s.health.linkHunts + 1 } }.putLink l
    { x with hunting := true, locked := false, huntAt := s.now, hunts := satAdd 255 x.hunts 1 }

/-- Send NAK with the newest accepted SEQ, unless one is still held off (R160). -/
def State.sendNak (s : State) (l : Nat) : State :=
  let x := s.link l
  if x.nakHold.isSome then s else (s.putLink l { x with nakHold := some s.now }).sendCtl l cNAK x.rxSeq.toNat

/-- A credit total received for a virtual channel the device sends on; the first is the initial total (R156). -/
def Link.credit (x : Link) (now vc total : Nat) : Link :=
  let x := if vc = 0 ∧ x.total.1 = 0 ∧ x.charged.1 = 0 then { x with initial := (total, x.initial.2) }
    else if vc = 2 ∧ x.total.2 = 0 ∧ x.charged.2 = 0 then { x with initial := (x.initial.1, total) } else x
  if vc = 0 then { x with total := (total, x.total.2), totalAt := (if x.total.1 = total then x.totalAt.1 else now, x.totalAt.2) }
  else if vc = 2 then { x with total := (x.total.1, total), totalAt := (x.totalAt.1, if x.total.2 = total then x.totalAt.2 else now) }
  else x

/-- Whether a link carries frames. -/
def Link.carries (x : Link) : Bool := decide (x.st = .active ∨ x.st = .enumerate) && !x.hunting

/-- Return credits of a virtual channel, with a CRD that says so (R155, R156). -/
def State.grant (s : State) (l vc n : Nat) : State :=
  let x := s.link l
  let g := if vc = 0 then ((x.granted.1 + n) % 4096, x.granted.2) else (x.granted.1, (x.granted.2 + n) % 4096)
  (s.putLink l { x with granted := g, crVc := vc }).sendCtl l cCRD ((if vc = 0 then g.1 else g.2) + 4096 * vc)

/-- What the line has carried is received, and acted on if it is a frame (R143, R147, R150 to R154, R156, R159, R160, R167): answers the
frame that is accepted. -/
def State.rxFrame (s : State) (l : Nat) (line : List (BitVec 130)) : Option (DWord × Bytes) × State :=
  let x := s.link l
  if x.carries = false then (none, s)
  else match rxLine line with
  | .nothing => (none, s)
  | .badHeader => (none, s.hunt l)
  | .frame hdr p crcOk =>
    let req := if x.req = some .standby ∨ x.req = some .sleeping then none else x.req
    let s := (s.putLink l { x.credit s.now (hdrCrVc hdr) (hdrCrTotal hdr) with req := req }).pumpLink l
    let x := s.link l
    if crcOk = false then (none, s.sendNak l)
    else if hdrSeq hdr = x.rxSeq + 1 then
      let s := s.putLink l { x with rxSeq := hdrSeq hdr, nakHold := none }
      (some (hdr, p), s.sendCtl l cACK (hdrSeq hdr).toNat)
    else if (x.rxSeq - hdrSeq hdr).toNat < 16 then (none, s.sendCtl l cACK x.rxSeq.toNat)
    else (none, s.sendNak l)

/-- RSP: an RSP frame arrives; its buffer is released at once (R155), and the response records it holds have rows of their own. -/
def execRsp (l : Nat) (line : List (BitVec 130)) (s : State) : Answer :=
  match s.rxFrame l line with
  | (none, s) => .next s
  | (some (hdr, _), s) => .next (if hdrType hdr = 2 then s.grant l 0 (frameCredits (hdrLen hdr)) else s)

/-- Codeword frames that a link's ingress ring holds (R157; the size is a DESIGN CHOICE, assumption 77). -/
def ringFrames : Nat := 8

/-- A frame of read data has been accepted: it goes to the command whose data are due (R174). A codeword waits in the ingress ring to
be decoded; its credits are returned as it enters the ring, which they wait for while it is full (R155, R157). Other data are
taken at once. -/
def State.takeData (s : State) (l n : Nat) (p : Bytes) : State :=
  let x := s.link l
  match x.rdFor with
  | [] => s.grant l 1 n
  | (cid, k) :: r =>
    let x := { x with rdFor := if k ≤ 1 then r else (cid, k - 1) :: r }
    match mget none x.climbs cid with
    | some c =>
      let x := { x with climbs := mset none x.climbs cid (some { c with framesLeft := c.framesLeft - 1, frames := c.frames ++ [p] }) }
      let s := if x.ring < ringFrames then (s.putLink l { x with ring := x.ring + 1 }).grant l 1 n else s.putLink l { x with owed := x.owed ++ [n] }
      s.softPost l cid
    | none => (s.putLink l x).grant l 1 n

/-- RDATA: an RDATA frame arrives and, once accepted, its codeword data goes to the tile. `refusals` counts the ownership
refusals of that transfer: it is tried once more, and a second refusal is a tile fault (R309, R428). -/
def execRdata (l : Nat) (line : List (BitVec 130)) (refusals : Nat) (cqOk : Bool) (s : State) : Answer := answering cqOk s fun s =>
  match s.rxFrame l line with
  | (none, s) => .next s
  | (some (hdr, p), s) =>
    if hdrType hdr ≠ 3 then .next s
    else
      let s := s.takeData l (frameCredits (hdrLen hdr)) p
      let s := if refusals = 0 then s else s.raise (32 * tileOfLink l + 27)
      .next (if 2 ≤ refusals then s.quiesceTile (tileOfLink l) 6 else s)

/-! ### Recovery and retraining (R161, R165, R166) -/

/-- Send TS1 with the transmitter's preset, and a requested one or the mark that equalisation is done. -/
def State.sendTs1 (s : State) (l : Nat) (ask : Option Nat) (eq : Bool) : State :=
  s.sendCtl l cTS1 ((s.link l).presetTx.toNat + (match ask with | some p => 8 * p + 64 | none => 0) + (if eq then 128 else 0))

/-- Whether a link is degraded (R166, R428). -/
def Link.isDegraded (x : Link) (now : Nat) : Bool :=
  x.hardRetired || decide (640 < (x.resendLog.filter (fun t => decide (now < t + 10000000000))).length) ||
  (match x.retrainAt with | some t => decide (now < t + 600000000000) | none => false)

def State.noteDegraded (s : State) (l : Nat) : State :=
  let x := s.link l
  s.putLink l { x with degraded := x.isDegraded s.now, resendLog := x.resendLog.filter (fun t => decide (s.now < t + 10000000000)) }

/-- LINK_DEGRADED: the mark follows the resend average and the retrain window (R166). -/
def execLinkDegraded (l : Nat) (s : State) : Answer := .next (s.noteDegraded l)

/-- Start a full retrain: the TRAIN steps again, with SEQ, held frames and totals kept; it is reported as it begins (R165). -/
def State.retrainLink (s : State) (l : Nat) : State :=
  let x := s.link l
  let s := s.putLink l { x with
    retraining := some s.now, trainAt := s.now, retrainAt := some s.now, failedRec := 0, recTimes := []
    ts1s := 0, ts2s := 0, locked := false, hunting := false, equalised := false, trial := none }
  let s := { s with health := { s.health with linkRetrains := s.health.linkRetrains + 1 } }
  let s := s.health! 0x20 2 (regionOfLink l) (tileOfLink l) l (BitVec.ofNat 64 x.recoveries) (BitVec.ofNat 32 x.resends)
  (((s.linkTo l .train).noteDegraded l).rebuildWaiting l).sendTs1 l none false

/-- Enter RECOVERY: counted and reported, also from RECOVERY itself; the 16th entry within 1 s starts a full retrain (R165, R169). A
link still enumerating has no RECOVERY to go to and fails (R162). -/
def State.recoverLink (s : State) (l : Nat) : State :=
  let x := s.link l
  if x.st = .enumerate then s.linkDown l
  else if x.st ≠ .active ∧ x.st ≠ .recovery then s
  else
    let times := s.now :: x.recTimes.filter (fun t => decide (s.now < t + 1000000000))
    let s := s.putLink l { x with
      recoveries := satAdd 255 x.recoveries 1, recTimes := times, trainAt := s.now, ts2s := 0, locked := false, hunting := false, req := none }
    let s := { s with health := { s.health with linkRecoveries := s.health.linkRecoveries + 1 } }
    let s := if x.st = .recovery then s.raise (32 * tileOfLink l + 17 + l % 8) else s.linkTo l .recovery
    if 16 ≤ times.length then s.retrainLink l else s.sendTs1 l none true

/-- Resend every held frame, in SEQ order, each with the current credit total in its header (R156, R161, R165). -/
def State.resendHeld (s : State) (l : Nat) : State :=
  let x := s.link l
  let n := x.held.length
  if n = 0 then s
  else
    let s := s.putLink l { x with resends := satAdd 65535 x.resends n, resendLog := List.replicate n s.now ++ x.resendLog, heldAt := s.now }
    let s := { s with health := { s.health with linkResends := s.health.linkResends + n } }
    s.sendFrames l x.held

/-- Resend after a NAK or a timeout; the fourth resend of one oldest frame moves the link to RECOVERY (R161). -/
def State.replay (s : State) (l : Nat) : State :=
  let x := s.link l
  if x.held = [] then s
  else
    let s := (s.putLink l { x with resendOldest := x.resendOldest + 1 }).resendHeld l
    if 4 ≤ x.resendOldest + 1 then s.recoverLink l else s

/-- Release every held frame up to SEQ `n`, if one of them has it (R161). -/
def Link.release (x : Link) (n : BitVec 12) (now : Nat) : Link :=
  if x.held.any (fun f => decide (f.seq = n)) then
    { x with held := (x.held.dropWhile (fun f => decide (f.seq ≠ n))).drop 1, heldAt := now, resendOldest := 0 }
  else x

/-- ACK (R161). -/
def execAck (l : Nat) (w : Word) (s : State) : Answer :=
  let x := s.link l
  if ctlIs cACK w = false ∨ x.carries = false then .next s
  else .next ((s.putLink l (x.release ((ctlArg w).setWidth 12) s.now)).pumpLink l)

/-- NAK (R161). -/
def execNak (l : Nat) (w : Word) (s : State) : Answer :=
  let x := s.link l
  if ctlIs cNAK w = false ∨ x.carries = false then .next s
  else .next (((s.putLink l (x.release ((ctlArg w).setWidth 12) s.now)).replay l).pumpLink l)

/-- CRD (R156). -/
def execCrd (l : Nat) (w : Word) (s : State) : Answer :=
  let x := s.link l
  if ctlIs cCRD w = false ∨ !(decide (x.st = .train ∨ x.st = .enumerate ∨ x.st = .active ∨ x.st = .recovery)) then .next s
  else .next ((s.putLink l (x.credit s.now (bits w 20 2) (bits w 8 12))).pumpLink l)

/-- REPLAY_TIMEOUT: frames are held and no ACK has released one for 16 µs (R161). -/
def execReplayTimeout (l : Nat) (s : State) : Answer :=
  let x := s.link l
  if x.held = [] ∨ x.carries = false then .next s else .next ((s.reach (x.heldAt + 16000)).replay l)

/-- CREDIT_STALL: a frame waits and the total of its channel has not advanced for 10 ms (R158). -/
def execCreditStall (l vc : Nat) (s : State) : Answer :=
  let x := s.link l
  if x.carries = false ∨ !(x.waiting.any (fun f => decide (f.vc = vc ∧ x.avail vc < frameCredits f.len))) then .next s
  else
    let s := s.reach ((if vc = 0 then x.totalAt.1 else x.totalAt.2) + 10000000)
    .next (({ s with health := { s.health with stalls := s.health.stalls + 1 } }).recoverLink l)

/-- NAK_HOLDOFF_END: 16 µs after a NAK with no frame accepted (R160). -/
def execNakHoldoffEnd (l : Nat) (s : State) : Answer :=
  let x := s.link l
  match x.nakHold with
  | some t => let s := s.reach (t + 16000)
              .next (s.putLink l { x with nakHold := none })
  | none => .next s

/-! ### A link comes up -/

/-- Erases that waited for the link are issued; a band none of whose erases waits any longer is ERASING (R199). -/
def State.resumeErases (s : State) (l : Nat) : State :=
  let t := tileOfLink l % 8
  foldS (fun (s : State) (e : Nat × Band) =>
    if e.2.eraseWait.contains t = false ∨ s.bandOn e.1 l none = false then s
    else
      let w := e.2.eraseWait.erase t
      let c := s.locQlc (bandRegion e.1) (bandIndex e.1) (64 * t)
      (s.setBandAt e.1 { e.2 with eraseWait := w, st := if w = [] then .erasing else e.2.st }).sendMedia l
        { op := .erase, slc := decide (e.2.role = 2 ∨ e.2.role = 3 ∨ e.2.role = 4), die := c.die, planes := 15, block := c.block,
          why := .bandErase e.1, foreground := false }) s s.st.bands

/-- A link is ACTIVE: what waited for it goes out. -/
def State.linkOpen (s : State) (l : Nat) : State :=
  let s := (((s.linkTo l .active).fillLink l 256).pumpLink l).resumeErases l
  ((s.pump true).pumpRuns true).p2Go

/-- A link becomes ACTIVE again: held frames are resent (R165). -/
def State.linkUp (s : State) (l : Nat) : State :=
  let x := s.link l
  ((s.putLink l { x with failedRec := 0, retraining := none, req := none, wakeSent := false, hunting := false, locked := true, diesOff := false }).resendHeld l).linkOpen l

/-! ### Lock (R153, R163, R165, R167) -/

/-- The 16 TS2 blocks of an exchange (R163, R165). -/
def State.sendTs2s (s : State) (l : Nat) : State := foldS (fun (s : State) (_ : Nat) => s.sendCtl l cTS2 1) s (List.range 16)

/-- BLOCK_LOCK: some alignment has shown 12 consecutive valid sync headers. In RECOVERY, and on the way out of SLEEP, TS2 follows
(R165). -/
def execBlockLock (l : Nat) (line : List (BitVec 130)) (s : State) : Answer :=
  let x := s.link l
  if (lockAt line).isNone then .next s
  else match x.st with
  | .train => .next (s.putLink l { x with locked := true })
  | .recovery => .next ((s.putLink l { x with locked := true }).sendTs2s l)
  | .standby => .next (if x.req = some .active then s.linkUp l else s)
  | .sleeping => .next (if x.req = some .active then (s.putLink l { x with locked := true }).sendTs2s l else s)
  | .active => .next (if x.hunting then (s.putLink l { x with hunting := false, locked := true }).sendNak l else s)
  | .enumerate => .next (if x.hunting then (s.putLink l { x with hunting := false, locked := true }).sendNak l else s)
  | _ => .next s

/-- BLOCK_HUNT_TIMEOUT: not locked 1 µs after entering hunting (R153). -/
def execBlockHuntTimeout (l : Nat) (s : State) : Answer :=
  let x := s.link l
  if x.hunting = false then .next s else .next ((s.reach (x.huntAt + 1000)).recoverLink l)

/-- LOSS_OF_LOCK: 4 invalid sync headers among 16 blocks (R153). -/
def execLossOfLock (l : Nat) (shs : List (BitVec 2)) (s : State) : Answer :=
  .next (if (s.link l).carries && lockLost shs then s.hunt l else s)

/-! ### Training (R162 to R164) -/

/-- When the step a link trains in must have ended (R163); the limit of a full retrain holds for all of it (R165). Until the descriptor
has come the stack may have 16 dies. -/
def Link.limit (x : Link) : Nat :=
  match x.st, x.retraining with
  | .enumerate, _ => x.trainAt + 1350000000
  | _, some t => t + 26000000
  | _, none => if x.trial.isSome then x.trainAt + 24000000 else x.trainAt + 1000000

/-- SIGNAL_DETECT: signal for 10 µs without a break ends DETECT, within its 100 ms (R5, R162, R163). -/
def execSignalDetect (l : Nat) (s : State) : Answer :=
  let x := s.link l
  if x.st ≠ .detect then .next s
  else
    let s := s.reach (x.trainAt + 10000)
    if x.trainAt + 100000000 ≤ s.now then .next (s.linkTo l .absent)
    else .next ((s.putLink l { x with
      trainAt := s.now, ts1s := 0, ts2s := 0, locked := false, equalised := false, trial := none, total := (0, 0), charged := (0, 0)
      totalAt := (s.now, s.now) }).linkTo l .train)

/-- DETECT_TIMEOUT: no signal 100 ms into DETECT (R162). -/
def execDetectTimeout (l : Nat) (s : State) : Answer :=
  let x := s.link l
  if x.st ≠ .detect then .next s else .next ((s.reach (x.trainAt + 100000000)).linkTo l .absent)

/-- TS1: presets and equalisation requests; after block lock and 8 consecutive valid TS1 words the device tries the presets of
the bridge's transmitter (R163). -/
def execTs1 (l : Nat) (w : Word) (s : State) : Answer :=
  let x := s.link l
  if x.st ≠ .train ∧ x.st ≠ .recovery then .next s
  else if ctlIs cTS1 w = false then .next (s.putLink l { x with ts1s := if x.ts1s < 8 then 0 else x.ts1s })
  else
    let a := ctlArg w
    let x := { x with
      presetTx := if bit a 6 then a.extractLsb' 3 3 else x.presetTx
      presetRx := a.extractLsb' 0 3
      ts1s := if x.st = .train ∧ x.locked = true then x.ts1s + 1 else x.ts1s }
    if x.st = .train ∧ x.ts1s = 8 ∧ x.trial = none ∧ x.equalised = false then
      if x.limit ≤ s.now then .next (s.linkDown l)
      else .next ((s.putLink l { x with trial := some (0, []), trainAt := s.now }).sendTs1 l (some 0) false)
    else .next (s.putLink l x)

/-- The preset of the best result; the lowest wins a tie. -/
def bestPreset (l : List (Nat × Nat)) : Nat :=
  match bestBy (fun (a b : Nat × Nat) => decide (b.2 < a.2)) l with | some e => e.1 | none => 2

/-- EQUALISATION_PRESET: the 2 ms trial of one preset ends; the presets are tried in order P0 to P7, and the best is kept
(R163; the order is a DESIGN CHOICE, assumption 24). -/
def execEqualisationPreset (l quality : Nat) (s : State) : Answer :=
  let x := s.link l
  match x.trial with
  | none => .next s
  | some (p, done) =>
    if x.st ≠ .train then .next s
    else
      let s := s.reach (x.trainAt + 2000000 * (p + 1))
      if x.limit ≤ s.now then .next (s.linkDown l)
      else
      let done := done ++ [(p, quality)]
      if p < 7 then .next ((s.putLink l { x with trial := some (p + 1, done) }).sendTs1 l (some (p + 1)) false)
      else
        let b := bestPreset done
        let s := s.putLink l { x with trial := none, equalised := true, presetRx := BitVec.ofNat 3 b, trainAt := s.now, ts2s := 0 }
        .next ((s.sendTs1 l (some b) true).sendTs2s l)

/-- The TS2 exchange of TRAIN has ended: initial credits, SEQ 0, and the descriptor is read; a full retrain keeps all of that
and is ACTIVE again (R157, R163, R165, R177). -/
def State.trained2 (s : State) (l : Nat) : State :=
  let x := s.link l
  if x.retraining.isSome then
    s.linkUp l
  else
    let x := { x with trainAt := s.now, granted := (32, 576), rxSeq := 4095, txSeq := 0, held := [], waiting := [], ring := 0, owed := [], crVc := 1, locked := true }
    let s := ((s.putLink l x).sendCtl l cCRD 32).sendCtl l cCRD (576 + 4096)
    let s := s.linkTo l .enumerate
    match (s.link l).freeCid with
    | some cid => (s.putLink l ((s.link l).issue s.now cid { op := .descriptor, why := .enumerate })).pumpLink l
    | none => s

/-- A recovery has failed: two in a row start a full retrain (R165). -/
def State.recoveryFailed (s : State) (l : Nat) : State :=
  let x := s.link l
  let s := s.putLink l { x with failedRec := x.failedRec + 1 }
  if 1 ≤ x.failedRec then s.retrainLink l else s.recoverLink l

/-- TS2: 16 of revision 1, within the limit of the step, end training, recovery or the exit from SLEEP (R5, R163, R165, R167). -/
def execTs2 (l : Nat) (w : Word) (s : State) : Answer :=
  let x := s.link l
  let takes := match x.st with
    | .train => x.equalised
    | .recovery => x.locked
    | .sleeping => x.locked && decide (x.req = some .active)
    | _ => false
  if ctlIs cTS2 w = false ∨ bits w 8 8 ≠ 1 ∨ takes = false then .next s
  else
    let s := s.putLink l { x with ts2s := x.ts2s + 1 }
    if x.ts2s + 1 < 16 then .next s
    else if x.st = .train then .next (if x.limit ≤ s.now then s.linkDown l else s.trained2 l)
    else if x.st = .recovery ∧ x.trainAt + 8000 ≤ s.now then .next (s.recoveryFailed l)
    else .next (s.linkUp l)

/-- TRAINING_LIMIT: a step of training or enumeration passes its limit (R162, R163). -/
def execTrainingLimit (l : Nat) (s : State) : Answer :=
  let x := s.link l
  if (x.st ≠ .train ∧ x.st ≠ .enumerate) ∨ x.retraining.isSome = true then .next s
  else .next ((s.reach x.limit).linkDown l)

/-- RECOVERY_TIMEOUT: a recovery not done within 8 µs fails; two in a row start a full retrain (R165). -/
def execRecoveryTimeout (l : Nat) (s : State) : Answer :=
  let x := s.link l
  if x.st ≠ .recovery then .next s
  else
    .next ((s.reach (x.trainAt + 8000)).recoveryFailed l)

/-- FULL_RETRAIN_FAILURE: a full retrain not done within 26 ms (R165, R435). -/
def execFullRetrainFailure (l : Nat) (s : State) : Answer :=
  match (s.link l).retraining with
  | some t => .next ((s.reach (t + 26000000)).linkDown l)
  | none => .next s

/-! ### Waves (R164) -/

/-- Links of a wave. -/
def State.waveLinks (s : State) (n : Nat) : List Nat := (List.range s.stew.waveSize).map (fun i => (n - 1) * s.stew.waveSize + i)

/-- Start wave `n`: its links go to DETECT and send TS1 at preset P2; links that entry 0x03_0002 disables stay DISABLED (R162 to
R164). -/
def State.startWave (s : State) (n : Nat) : State :=
  let s := { s with stew := { s.stew with wave := n } }
  foldS (fun (s : State) (l : Nat) =>
    if 512 ≤ l ∨ s.tableField 0x030002 l 1 0 ≠ 0 then s
    else ((s.putLink l { s.link l with presetTx := 2, trainAt := s.now }).linkTo l .detect).sendTs1 l none false) s (s.waveLinks n)

/-- ENUMERATION_WAVE: every link of the wave has reached ACTIVE, ABSENT or DOWN, and the next wave starts (R164). A link that was
ACTIVE and has left it counts as having reached it; a DISABLED one, which never trains, holds nothing up (assumption 60). -/
def execEnumerationWave (s : State) : Answer :=
  let n := s.stew.wave
  let busy := (s.waveLinks n).any (fun l =>
    decide ((s.link l).st = .detect ∨ ((s.link l).st = .train ∧ (s.link l).retraining.isNone = true) ∨ (s.link l).st = .enumerate))
  if n = 0 ∨ busy = true ∨ 512 ≤ n * s.stew.waveSize then .next s else .next (s.startWave (n + 1))

/-! ### Standby and sleep (R167) -/

/-- STBY: the bridge's answer. -/
def execStby (l : Nat) (w : Word) (s : State) : Answer :=
  let x := s.link l
  if ctlIs cSTBY w = false ∨ x.st ≠ .active ∨ x.req ≠ some .standby then .next s
  else .next ((s.putLink l { x with req := none, locked := false }).linkTo l .standby)

/-- SLEEP: the bridge's answer to SLEEP from ACTIVE, or to PARK with MODE 1 (R162, R167). -/
def execSleep (l : Nat) (w : Word) (s : State) : Answer :=
  let x := s.link l
  if ctlIs cSLEEP w = false ∨ x.req ≠ some .sleeping ∨ !(decide (x.st = .active ∨ (x.st = .sleeping ∧ x.diesOff = true))) then .next s
  else .next ((s.putLink l { x with req := none, locked := false }).linkTo l .sleeping).p2Go

/-- WAKE: the bridge's answer to the device's WAKE; the link is ACTIVE once block lock is confirmed, from SLEEP by the sequence of R165
(R167). -/
def execWake (l : Nat) (w : Word) (s : State) : Answer :=
  let x := s.link l
  if ctlIs cWAKE w = false ∨ x.wakeSent = false ∨ (x.st ≠ .standby ∧ x.st ≠ .sleeping) then .next s
  else
    let s := s.putLink l { x with req := some .active, wakeSent := false, locked := false, ts2s := 0, trainAt := s.now }
    .next (if x.st = .sleeping then s.sendTs1 l none true else s)

end Sys2Proof.Machine
end

