-- ==== Sys2Proof/Machine/Bringup.lean ====
section
/-! DEFINITION. Resets, power and bring-up (05, 20): SHUTDOWN_DONE, POWER_FAIL# and the loss of power (R28, R123, R131, R133), the
reset pins (R444 to R446), boot (R449, R451), and the ready bits (R452). -/

namespace Sys2Proof.Machine

/-! ### The end of SHUTDOWN (R28) -/

/-- A started command that has not completed. -/
def State.anyStarted (s : State) : Bool := s.hq.ops.any (fun e => match e.2 with | some o => o.started | none => false)

/-- SHUTDOWN_DONE: the last started command has completed, so the steps of R131 run; at their end a checkpoint is written and
`CU_STATUS.SHUTDOWN_DONE` is set. -/
def execShutdownDone (s : State) : Answer :=
  if s.hq.shutdown = false ∨ s.hq.shutdownDone = true ∨ s.anyStarted = true ∨ s.jr.holdStep ≠ 0 then .next s
  else .next (s.holdup .shutdown)

/-! ### POWER_FAIL# (R131, R133) -/

/-- POWER_FAIL_ASSERTED: the pin has been low for 1 µs. -/
def execPowerFailAsserted (s : State) : Answer :=
  if s.stew.supplies = false ∨ s.stew.powerFail = true then .next s
  else
    let s := s.reach (s.now + 1000)
    let s := { s with stew := { s.stew with powerFail := true } }
    .next (if s.stew.boot = .off then s else (s.raise 0x90C).holdup .powerFail)

/-- POWER_FAIL_RETURN: the pin is high: it goes high, or, where it has been high already, it has stayed so for 10 ms; the device, whose
sequence has ended, then resets itself (R133). -/
def execPowerFailReturn (s : State) : Answer :=
  if s.stew.powerFail then .next { s with stew := { s.stew with powerFail := false, highAt := s.now } }
  else if s.jr.holdStep = 5 ∧ s.jr.holdFor = .powerFail then .next ((s.reach (s.stew.highAt + 10000000)).deviceReset.timeZero)
  else .next s

/-! ### Loss of staging and of power (R123) -/

/-- What protected staging holds without a copy on flash is lost: what is not programmed, and, while rescue programs run, what
they hold. -/
def State.loseStaging (s : State) : State :=
  let bare := fun (l : List Staged) => (l.filter (fun e => !e.programmed)).map (fun e => { e with data := [] })
  let half := decide (1 ≤ s.jr.holdStep ∧ s.jr.holdStep ≤ 4)
  { s with
    staged := []
    jr := { s.jr with
      lost := s.jr.lost ++ bare s.staged ++ (if half then bare s.jr.rescue else [])
      rescue := if half then [] else s.jr.rescue } }

/-- The counts of health as the newest checkpoint holds them: the time since is lost with power, events and highest
temperatures are not (R440). -/
def State.healthAfterLoss (s : State) : Health :=
  let h := s.health
  let k : Health := match s.jr.ckpts with | c :: _ => c.health | [] => {}
  let temp := fun (m : SMap Temp) (i : Nat) => mset {} m i { mget {} k.temps i with max := (mget {} h.temps i).max }
  { k with
    events := h.events
    nEvents := h.nEvents
    retiredCells := h.retiredCells
    temps := (List.range 9).foldl temp k.temps }

/-- POWER_LOSS: the supplies fall. Where the steps of R131 have not ended the next start records an unsafe shutdown; in P2 and
P3 the copies of staging are on flash already (R484, R485). -/
def execPowerLoss (s : State) : Answer :=
  if s.stew.supplies = false then .next s
  else
    let done := decide (s.stew.boot = .off ∨ s.jr.holdStep = 5)
    let s := if done then s
      else
        let s := { s with jr := { s.jr with unsafeStop := true } }
        if s.asleep then { s with staged := [], jr := { s.jr with rescue := if s.jr.recovered then s.staged else s.jr.rescue } }
        else s.loseStaging
    let s := { s with health := s.healthAfterLoss, stew := { s.stew with supplies := false, perst := true } }
    .next s.deviceReset

/-- POWER_ON: every supply is within range, with PERST# low. -/
def execPowerOn (s : State) : Answer :=
  if s.stew.supplies then .next s
  else .next ({ s with stew := { s.stew with supplies := true, perst := true } }).deviceReset

/-! ### Reset pins (R444 to R446) -/

/-- A device reset is asked for: the steps of R131 come first, except in the chip-fault state and after SHUTDOWN_DONE (R445). -/
def State.takeReset (s : State) : State :=
  if s.stew.supplies = false ∨ s.stew.boot = .off then s
  else if s.stew.boot = .chipFault then
    (if s.jr.holdStep = 5 then s else s.loseStaging).deviceReset.timeZero
  else if s.hq.shutdownDone = true ∨ s.jr.holdStep = 5 then s.deviceReset.timeZero
  else s.holdup .reset

/-- PERST_ASSERTED. -/
def execPerstAsserted (s : State) : Answer :=
  let s := { s with stew := { s.stew with perst := true }, hq := { s.hq with linkUp := false } }
  .next s.takeReset

/-- DEV_RST_ASSERTED: the pin has been low for 1 µs; the PCIe link goes down too. -/
def execDevRstAsserted (s : State) : Answer :=
  let s := s.reach (s.now + 1000)
  let s := { s with stew := { s.stew with devRst := true }, hq := { s.hq with linkUp := false } }
  .next s.takeReset

/-- A reset pin is released with the straps at these levels: time 0 of bring-up, unless the steps of R445 still run or another
reset pin is held (R444, R446). -/
def State.released (s : State) (nodeId : BitVec 5) (bootSel : BitVec 2) : State :=
  if s.stew.boot = .off ∨ s.jr.holdFor = .reset then
    let s := { s with stew := { s.stew with nodeId := nodeId, bootSel := bootSel } }
    if s.stew.boot = .off then s.timeZero else s
  else s

/-- PERST_DEASSERTED. -/
def execPerstDeasserted (nodeId : BitVec 5) (bootSel : BitVec 2) (s : State) : Answer :=
  if s.stew.perst = false ∨ s.stew.supplies = false then .next s
  else .next (({ s with stew := { s.stew with perst := false } }).released nodeId bootSel)

/-- DEV_RST_DEASSERTED. -/
def execDevRstDeasserted (nodeId : BitVec 5) (bootSel : BitVec 2) (s : State) : Answer :=
  if s.stew.devRst = false then .next s
  else .next (({ s with stew := { s.stew with devRst := false } }).released nodeId bootSel)

/-! ### Boot (R376, R448, R449, R451) -/

/-- Whether a boot image header is valid (R448). -/
def bootHeaderOk (i : BootImage) : Bool :=
  decide (i.magic = 0x4B535431 ∧ i.rev = 1 ∧ 64 ≤ i.length ∧ i.length ≤ 4194304 ∧ i.length % 64 = 0 ∧ i.entry < i.length)

/-- The fuse entries that a digest matches, as a mask (R376). -/
def State.bootHits (s : State) (d : BitVec 256) : BitVec 4 :=
  (List.range 4).foldl (fun m e => match s.stew.digests[e]? with
    | some (x, revoked) => setBit m e (decide (x = d) && !revoked)
    | none => m) 0

/-- Firmware starts: the configuration is applied, the rails follow what the tiles need, and the first enumeration wave begins
(R164, R459, R489). -/
def State.startFirmware (s : State) (version : Word) : State :=
  let s := { s with stew := { s.stew with boot := .firmware, version := version } }
  let s := s.loadConfig
  let s := { s with stew := { s.stew with waveSize := s.param 0x030001 128 } }
  let s := foldS (fun (s : State) (p : Nat) => s.lowerRail p) s (List.range 8)
  s.startWave 1

/-- BOOT_IMAGE_LOADED: the load of an image ends, and its digest starts it; otherwise the other image is tried, and after both
the recovery service runs. An image whose header is invalid is not hashed. -/
def execBootImageLoaded (img : BootImage) (s : State) : Answer :=
  if s.stew.boot ≠ .rom then .next s
  else
    let hashed := bootHeaderOk img
    let hit := s.bootHits img.digest
    let good := hashed && decide (hit ≠ 0)
    let w := compareWords (decide (hit ≠ 0)) (decide (hit ≠ 0))
    let s := if hashed then { s with stew := { s.stew with
        bdDone := true
        bdHit := hit
        bdR0 := BitVec.ofNat 32 w.1
        bdR1 := BitVec.ofNat 32 w.2 } }
      else s
    if good then .next (s.startFirmware img.version)
    else if s.stew.tried = 0 then .next { s with stew := { s.stew with tried := 1, image := 1 - s.stew.image, bdDone := false } }
    else .next { s with stew := { s.stew with tried := 2, boot := .recovery } }

/-! ### Ready bits (R452) -/

/-- CFG_READY: the endpoint serves configuration requests, without firmware. -/
def execCfgReady (s : State) : Answer :=
  if s.stew.boot = .off ∨ s.stew.boot = .chipFault then .next s
  else .next (({ s with hq := { s.hq with linkUp := true } }).setReady (setBit s.hq.idReady 0 true))

/-- ADMIN_READY: firmware runs with its configuration applied. -/
def execAdminReady (s : State) : Answer :=
  if s.stew.boot ≠ .firmware then .next s else .next (s.setReady (setBit s.hq.idReady 1 true))

/-- The populations that are supported: channels 0 and 2, or all four, with these capacities in GiB (R396). -/
def populationOk (mask gib : Nat) : Bool :=
  (decide (mask = 5) && [32, 48, 64, 96, 128].contains gib) || (decide (mask = 15) && [64, 96, 128, 192, 256].contains gib)

/-- DRAM_READY: training has ended with these results, by number 2 c + s. A population that is not supported is no DRAM; a
channel that fails whole makes DRAM count as absent (R396, R398, R408). -/
def execDramReady (gib : Nat) (results : List (Nat × TrainResult)) (s : State) : Answer :=
  if s.stew.boot ≠ .firmware ∨ bit s.hq.idReady 2 = true then .next s
  else
    let chans := (List.range 4).filter (fun c => results.any (fun e => decide (e.1 / 2 = c)))
    let mask := chans.foldl (fun m c => m + 2 ^ c) 0
    if populationOk mask gib = false ∨ !(chans.all (fun c => [0, 1].all (fun n => results.any (fun e => decide (e.1 = 2 * c + n))))) then .next s
    else
      let s := ({ s with dram := { s.dram with gib := gib, chMask := BitVec.ofNat 4 mask } }).trained results
      if chans.any (fun c => s.chanFailed c) then .next s
      else
        let s := { s with hq := { s.hq with dramPresent := true, compact := decide (s.param 0x010010 0 ≠ 0) } }
        .next ((s.setReady (setBit s.hq.idReady 2 true)).pumpRuns true)

/-- Whether a link has settled: ACTIVE, ABSENT or DOWN, or kept out of service by entry 0x03_0002 (R162, R452). -/
def State.linkSettled (s : State) (l : Nat) : Bool :=
  let x := (s.link l).st
  decide (x = .active ∨ x = .absent ∨ x = .down) || (decide (x = .disabled) && decide (s.tableField 0x030002 l 1 0 ≠ 0))

/-- REGION_READY: every link of the region has settled. -/
def execRegionReady (p : Nat) (s : State) : Answer :=
  if 8 ≤ p ∨ s.stew.boot ≠ .firmware ∨ (s.region p).restarting = true ∨ s.regionReady p = true ∨
      !((List.range 64).all (fun i => s.linkSettled (64 * p + i))) then .next s
  else .next ((((s.setReady (setBit s.hq.idReady (8 + p) true)).eraseStale p).pump true).pumpRuns true)

/-- WALL_TIME_DEADLINE: 60 s after MAP no wall time has been written (R186). -/
def execWallTimeDeadline (s : State) : Answer :=
  if bit s.hq.idReady 3 = false ∨ s.stew.wallUsed = true then .next s
  else .next (s.reach (s.stew.mapAt + 60000000000)).noCredit

/-- PCIE_LINK_STATE_CHANGE (R415). -/
def execPcieLinkStateChange (up : Bool) (s : State) : Answer := .next (({ s with hq := { s.hq with linkUp := up } }).raise 0x90F)

end Sys2Proof.Machine
end

