-- ==== Sys2Proof/Machine/LadleCmds.lean ====
section
/-! DEFINITION. Ladle's own rows (11): items the steward submits, ticks, background raises, the steal delay, the Stockpot. -/

namespace Sys2Proof.Machine

/-- The work item a descriptor spells, as the steward submits it: its fields stand as given (R277, R278). -/
def itemOfDesc (d : ItemDesc) : Item :=
  { entry := BitVec.ofNat 32 (bits d 0 32), arg := BitVec.ofNat 32 (bits d 32 32), inst := bits d 64 8, prio := bits d 72 3
    pin := bit d 75, ordered := bit d 76, timed := bit d 77, wake := bit d 77 && bit d 78, affv := bit d 79
    flow := bits d 80 14, fseq := bits d 96 32, handle := bits d 128 16, affinity := bits d 144 6, wtag := bits d 152 8
    due := bits d 192 64, kind := .steward }

/-- STEWARD_ITEM_SUBMIT: an item through the steward's own port to Ladle, level 0 included (R278, R281). It waits while
Ladle can take none. -/
def execStewardItemSubmit (d : ItemDesc) (s : State) : Answer :=
  let x := itemOfDesc d
  .next (if s.canAccept x then (s.accept x).busy else s)

/-- The number of the next tick of a region that ends: the one before the current tick when `now` has passed some (R292). -/
def State.endingTick (s : State) (p : Nat) : Nat :=
  let k := (s.region p).nextTick
  if (k + 1) * s.tickNs ≤ s.now then s.now / s.tickNs - 1 else s.now / s.tickNs

/-- Insert by acceptance number. -/
def insertSeq (x : Item) : List Item → List Item
  | [] => [x]
  | y :: r => if x.seq < y.seq then x :: y :: r else y :: insertSeq x r

/-- Move one timed item into the ready queue, if that has a place for it (R282, R292). -/
def State.releaseTimed (s : State) (p : Nat) (x : Item) : State :=
  if s.hasPlace p x ∨ s.spills p x = true then
    let r := s.region p
    (s.setRegion p { r with timers := r.timers.filter (fun y => decide (y.seq ≠ x.seq)) }).enterReady { x with fseen := s.ld.fences }
  else s

/-- TIMER_TICK: at the end of a tick the region's items of that tick become ready, oldest acceptance first (R292). -/
def execTimerTick (p : Nat) (s : State) : Answer :=
  let k := s.endingTick p
  let s := s.reach ((k + 1) * s.tickNs)
  let due := (s.region p).timers.filter (fun x => decide (s.tickOf x.due ≤ k))
  let s := foldS (fun (s : State) (x : Item) => s.releaseTimed p x) s (due.foldr insertSeq [])
  .next (s.setRegion p { s.region p with nextTick := k + 1 })

/-- BACKGROUND_RAISE: a device background item of level 7 that has waited 5 ms is dispatched as if of level 1 (R286). -/
def execBackgroundRaise (p : Nat) (s : State) : Answer :=
  let waits := fun (x : Item) => decide (x.kind = .background ∧ x.prio = 7) && !x.raised
  match (s.region p).ready.find? waits with
  | none => .next s
  | some x =>
    let s := s.reach (x.enq + 5000000)
    let r := s.region p
    .next (s.setRegion p { r with
      ready := r.ready.map (fun y => if waits y ∧ y.enq + 5000000 ≤ s.now then { y with raised := true } else y) })

/-- When each item and each lane job of a region was queued. -/
def State.queuedAt (s : State) (p : Nat) : List Nat :=
  (s.region p).ready.map (fun x => x.enq) ++
  (List.range 8).flatMap (fun i =>
    let x := s.tile (8 * p + i)
    (x.lanes.rxQ ++ x.lanes.exQ ++ x.crypt.cxQ ++ x.crypt.dgQ).map (fun j => j.enq) ++ x.lanes.softQ.map (fun j => j.enq))

/-- STEAL_DELAY_EXPIRY: an item or job has waited the steal delay; idle lanes of the region take what has become free to
take (R287, R288). An item is then taken at a dispatch. -/
def execStealDelayExpiry (p : Nat) (s : State) : Answer :=
  match bestBy (fun a b => decide (a < b)) (((s.queuedAt p).map (fun t => t + s.stealDelay)).filter (fun t => decide (s.now < t))) with
  | none => .next s
  | some t => .next (foldS (fun (s : State) (i : Nat) => s.nextAll (8 * p + i)) (s.reach t) (List.range 8))

/-- Bring the first item of the highest spilled level back, `n` times at most (R295). -/
def State.bringBack (s : State) (p : Nat) : Nat → State
  | 0 => s
  | n + 1 =>
    let r := s.region p
    if Config.pushBackOff ≤ r.ready.length then s
    else match bestBy (fun (a b : Item) => decide (a.prio < b.prio)) r.spilled with
      | none => s
      | some x =>
        ((s.setRegion p { r with
          spilled := r.spilled.filter (fun y => decide (y.seq ≠ x.seq))
          ready := r.ready ++ [{ x with enq := s.now }] }).notePush p).bringBack p n

/-- STOCKPOT_BRING_BACK: spilled items come back while the ready queue holds fewer than 3,584, from the highest level
first and oldest first within it (R295). -/
def execStockpotBringBack (p : Nat) (s : State) : Answer := .next (s.bringBack p (s.region p).spilled.length)

end Sys2Proof.Machine
end

