-- ==== Sys2Proof/Machine/Media.lean ====
section
/-! DEFINITION. The rows of media operations (07): response records, decodes and the retry ladder, rung-5 rebuilds, the pilot
sweep, the stack descriptor, failed dies and suspensions. -/

namespace Sys2Proof.Machine

/-! ### Suspensions (R200, R201) -/

/-- The commands of a die that have no answer yet. -/
def Link.unanswered (x : Link) (die : Nat) : List MCmd :=
  x.cmds.filterMap (fun e => match e.2, mget none x.climbs e.1 with
    | some m, some c => if m.die = die ∧ c.responded = false then some m else none
    | some m, none => if m.die = die then some m else none
    | none, _ => none)

/-- The foreground reads that wait on a die. -/
def Link.waitingReads (x : Link) (die : Nat) : List MCmd := (x.unanswered die).filter (fun m => m.foreground && decide (m.op = .readPage))

/-- Whether a foreground read waits on a die. -/
def Link.readWaits (x : Link) (die : Nat) : Bool := !(x.waitingReads die).isEmpty

/-- When the first of some commands was issued. -/
def firstSent (l : List MCmd) : Nat := match l with | [] => 0 | m :: r => r.foldl (fun t m => Nat.min t m.sentAt) m.sentAt

/-- The program or erase a die is busy with, if any. -/
def Link.busyWith (x : Link) (die : Nat) : Option MCmd :=
  x.cmds.findSome? (fun e => match e.2 with
    | some m => if m.die = die ∧ (m.op = .program ∨ m.op = .erase) then some m else none
    | none => none)

/-- End a suspension with RESUME. -/
def State.resumeNow (s : State) (l die : Nat) : State :=
  let x := s.link l
  let y := mget {} x.susp die
  if y.active = false then s
  else (s.putLink l { x with susp := mset {} x.susp die { y with active := false, resumedAt := s.now } }).sendMedia l
    { op := .resume, die := die }

/-- RESUME goes out once no foreground read is waiting for the die (R200). -/
def State.resumeIdle (s : State) (l die : Nat) : State := if (s.link l).readWaits die then s else s.resumeNow l die

/-- What is kept of a die's suspensions ends with its operation. -/
def State.opEnded (s : State) (l die : Nat) : State :=
  let x := s.link l
  if (x.busyWith die).isSome then s else s.putLink l { x with susp := mset {} x.susp die {} }

/-- SUSPEND_WAIT: a foreground read has waited for a busy die for the time of entry 0x03_0015; SUSPEND goes out, within the bounds of
R200. -/
def execSuspendWait (l die : Nat) (s : State) : Answer :=
  let x := s.link l
  let y := mget {} x.susp die
  match x.busyWith die with
  | none => .next s
  | some m =>
    let prog := decide (m.op = .program)
    if x.readWaits die = false ∨ y.active = true ∨ (if prog then 4 else 16) ≤ y.count then .next s
    else
      let s := s.reach (firstSent (x.waitingReads die) + 1000 * s.param 0x030015 200)
      let s := if y.count = 0 then s else s.reach (y.resumedAt + (if prog then 300000 else 1000000))
      .next ((s.putLink l { x with susp := mset {} x.susp die { y with active := true, since := s.now, count := y.count + 1 } }).sendMedia l
        { op := .suspend, die := die })

/-- SUSPEND_LIMIT: 2 ms after a suspension began (R200). -/
def execSuspendLimit (l die : Nat) (s : State) : Answer :=
  let y := mget {} (s.link l).susp die
  if y.active = false then .next s else .next ((s.reach (y.since + 2000000)).resumeNow l die)

/-- The command `cid` of a link, if it is one of operation `op`. -/
def State.cmdOf (s : State) (l cid : Nat) (op : MOp) : Option MCmd :=
  match mget none (s.link l).cmds cid with
  | some m => if m.op = op ∧ cid < 256 then some m else none
  | none => none

/-- SUSPEND_RESPONSE: the suspension stands, or the operation had ended and no RESUME follows (R201). -/
def execSuspendResponse (l : Nat) (rec : BitVec 128) (s : State) : Answer :=
  match s.cmdOf l (respCid rec) .suspend with
  | none => .next s
  | some m =>
    let s := s.endCmd l (respCid rec)
    let x := s.link l
    let y := mget {} x.susp m.die
    if respStatus rec = .pass then .next ((s.putLink l { x with susp := mset {} x.susp m.die { y with since := s.now } }).resumeIdle l m.die)
    else .next (s.putLink l { x with susp := mset {} x.susp m.die { y with active := false } })

/-- RESUME_RESPONSE (R172): the operation continues. -/
def execResumeResponse (l : Nat) (rec : BitVec 128) (s : State) : Answer :=
  .next (if (s.cmdOf l (respCid rec) .resume).isSome then s.endCmd l (respCid rec) else s)

/-- STATUS_RESPONSE (R172): the die's state goes to the firmware that asked. -/
def execStatusResponse (l : Nat) (rec : BitVec 128) (s : State) : Answer :=
  match s.cmdOf l (respCid rec) .status with
  | none => .next s
  | some m =>
    let s := s.endCmd l (respCid rec)
    let x := s.link l
    .next (if respStatus rec = .pass then s.putLink l { x with dieStatus := mset 0 x.dieStatus m.die (respValue rec) } else s)

/-- GET_FEATURE_RESPONSE (R172): the value goes to the firmware that asked. -/
def execGetFeatureResponse (l : Nat) (rec : BitVec 128) (s : State) : Answer :=
  match s.cmdOf l (respCid rec) .getFeature with
  | none => .next s
  | some m =>
    let s := s.endCmd l (respCid rec)
    let x := s.link l
    .next (if respStatus rec = .pass then s.putLink l { x with features := mset 0 x.features (256 * m.die + m.level) (respValue rec) } else s)

/-- SET_FEATURE_RESPONSE (R172): the feature has the value of ARG. -/
def execSetFeatureResponse (l : Nat) (rec : BitVec 128) (s : State) : Answer :=
  match s.cmdOf l (respCid rec) .setFeature with
  | none => .next s
  | some m =>
    let s := s.endCmd l (respCid rec)
    let x := s.link l
    .next (if respStatus rec = .pass then s.putLink l { x with features := mset 0 x.features (256 * m.die + m.level) m.arg } else s)

/-! ### READ_PAGE (R172 to R174, R137) -/

/-- Frames of read data now follow for a command (R174). -/
def Link.expect (x : Link) (cid n : Nat) : Link := if n = 0 then x else { x with rdFor := x.rdFor ++ [(cid, n)] }

/-- READ_PAGE_RESPONSE: the frames of the codeword follow; a first-row read is judged by whether its page is erased (R137,
R172 to R174, R199). -/
def execReadPageResponse (l : Nat) (rec : BitVec 128) (erased : Bool) (cqOk : Bool) (s : State) : Answer := answering cqOk s fun s =>
  let x := s.link l
  let cid := respCid rec
  let n := respFrames rec
  match s.cmdOf l cid .readPage, mget none x.climbs cid with
  | some m, some c =>
    if c.responded then .next s
    else
      let t := tileOfLink l % 8
      let s := match respStatus rec with
        | .pass => match m.why with
          | .firstRow k => ((s.putLink l (x.expect cid n)).endCmd l cid).firstRowRead k t erased
          | .donorRow k => ((s.putLink l (x.expect cid n)).endCmd l cid).donorRead k erased
          | _ => (s.putLink l ({ x with climbs := mset none x.climbs cid (some { c with responded := true, framesLeft := n }) }.expect cid n)).softPost l cid
        | .dieFault => if s.st.failedDies.contains (16 * l + m.die) then s.cmdGone l cid m else s.dieFailed l m.die 1
        | _ => s.cmdGone l cid m
      .next ((((s.resumeIdle l m.die).rescueDone.pump true).pumpRuns true))
  | some _, none => .next ((s.putLink l (x.expect 1024 n)).endCmd l cid)
  | _, _ => .next s

/-! ### Decodes (R187 to R196) -/

/-- Whether the triggers of R196 apply to a band: not in the SLC buffer, parity ring or journal. -/
def Band.refreshes (x : Band) : Bool := decide (x.role ≠ 2 ∧ x.role ≠ 3 ∧ x.role ≠ 4)

/-- A codeword has been rebuilt: its read reached rung 5, and its band is relocated or merged (R196). -/
def State.noteRebuilt (s : State) (l : Nat) (m : MCmd) : State :=
  let k := s.bandAtPlace l m.die m.block
  if (s.bandAt k).refreshes then s.askRefresh k else s

/-- Refresh triggers of a codeword read: its band is relocated or merged (R196). -/
def State.noteRead (s : State) (l : Nat) (m : MCmd) (top bitsFixed : Nat) : State :=
  let k := s.bandAtPlace l m.die m.block
  if (s.bandAt k).refreshes = false then s
  else
    let d := 8 * k + tileOfLink l % 8
    let s := { s with st := { s.st with dbReads := mmod 0 s.st.dbReads d (· + 1) } }
    if 3 ≤ top ∨ (top = 0 ∧ 240 < bitsFixed) ∨ s.param 0x030013 200000 ≤ mget 0 s.st.dbReads d then s.askRefresh k else s

/-- Whether a decode meets the verify margin (R103): rung 0, and at most its share of the 320 bits of R181. -/
def State.meets (s : State) (rung bitsFixed : Nat) : Bool := decide (rung = 0 ∧ bitsFixed * 100 ≤ 320 * s.param 0x040030 40)

/-! ### Pilots (R189, R190) -/

/-- Send the next READ_PILOT of a pilot block, unless host reads are pending on its die or background work is paused. -/
def State.pilotRead (s : State) (l die plane : Nat) : State :=
  let x := s.link l
  match mget none x.pilots (4 * die + plane), x.desc with
  | some y, some d =>
    let ours := fun (m : MCmd) => decide (m.die = die) && (match m.why with | .hostRead _ _ _ => true | _ => false)
    let hold := s.bgPaused (regionOfLink l) || x.queue.any ours || x.cmds.any (fun e => match e.2 with | some m => ours m | none => false)
    if hold then s.putLink l { x with pilots := mset none x.pilots (4 * die + plane) (some { y with waits := true }) }
    else
      let cls := ageClass (s.ageNow - mget 0 s.pilotAge (64 * l + 4 * die + plane))
      let off := (s.level l die plane cls y.boundary).offset + ((y.got.length : Int) - 8)
      let offs := (List.range 15).map (fun k => if k + 1 = y.boundary then max (-64) (min 63 off) else (s.level l die plane cls (k + 1)).offset)
      (s.putLink l { x with pilots := mset none x.pilots (4 * die + plane) (some { y with waits := false }) }).sendMedia l
        { op := .readPilot, die := die, planes := BitVec.ofNat 4 (2 ^ plane), block := d.pilot
          page := 4 * y.wordline + bits d.levelMap (2 * (y.boundary - 1)) 2, level := y.boundary, offs := offs
          why := .pilot die plane y.boundary y.got.length, foreground := false }
  | _, _ => s

/-- Pilot blocks of a link whose next read was deferred. -/
def State.pilotsAgain (s : State) (l : Nat) : State :=
  foldS (fun (s : State) (e : Nat × Option Pilot) => match e.2 with
    | some y => if y.waits then s.pilotRead l (e.1 / 4) (e.1 % 4) else s
    | none => s) s (s.link l).pilots

/-- The entry a boundary's 17 senses give: the offset with the fewest errors, the lowest of several; the code of the ratio
measured there; ACC 0 (R190). Without an error at that offset the ratio is a free value. -/
def State.pilotEntry (s : State) (got : List (Int × Nat × Nat)) : RLevel × State :=
  match bestBy (fun (a b : Int × Nat × Nat) => decide (a.2.1 + a.2.2 < b.2.1 + b.2.2)) got with
  | none => ({}, s)
  | some (o, up, down) =>
    if up + down = 0 then
      let (n, s) := s.draw
      ({ offset := o, ratio := Config.freeNat n % 16, acc := 0 }, s)
    else ({ offset := o, ratio := ratioCode up down, acc := 0 }, s)

/-- READ_PILOT_RESPONSE: exact error counts at one offset; the 17th of a boundary sets its entry (R190). A read that fails ends
the block's sweep. -/
def execReadPilotResponse (l : Nat) (rec : BitVec 128) (up down : Nat) (s : State) : Answer :=
  let cid := respCid rec
  match s.cmdOf l cid .readPilot with
  | none => .next s
  | some m => match m.why with
    | .pilot die plane b _ =>
      let x := s.link l
      let s := (s.putLink l (x.expect 1024 (respFrames rec))).endCmd l cid
      let x := s.link l
      match mget none x.pilots (4 * die + plane) with
      | none => .next s
      | some y =>
        let put := fun (s : State) (z : Option Pilot) =>
          s.putLink l { s.link l with pilots := mset none (s.link l).pilots (4 * die + plane) z }
        if respStatus rec ≠ .pass then .next (put s none)
        else
          let got := y.got ++ [(m.offs.getD (b - 1) 0, up, down)]
          if got.length < 17 then .next ((put s (some { y with got := got })).pilotRead l die plane)
          else
            let cls := ageClass (s.ageNow - mget 0 s.pilotAge (64 * l + 4 * die + plane))
            let (e, s) := s.pilotEntry got
            let s := s.setLevel l die plane cls b e
            if b < 15 then .next ((put s (some { y with boundary := b + 1, got := [] })).pilotRead l die plane)
            else .next (put s none)
    | _ => .next ((s.putLink l ((s.link l).expect 1024 (respFrames rec))).endCmd l cid)

/-- PILOT_SWEEP: every pilot interval the next wordline of every pilot block is read (R190). -/
def execPilotSweep (s : State) : Answer :=
  let s := s.reach (s.stew.pilotAt + 1000000000 * s.param 0x030010 600)
  let w := s.stew.pilotWl
  let s := { s with stew := { s.stew with pilotWl := (w + 1) % 512, pilotAt := s.now } }
  .next (foldS (fun (s : State) (e : Nat × Link) =>
    match e.2.st, e.2.desc with
    | .active, some d => foldS (fun (s : State) (i : Nat) =>
        let x := s.link e.1
        (s.putLink e.1 { x with pilots := mset none x.pilots i (some { wordline := w }) }).pilotRead e.1 (i / 4) (i % 4)) s
        (List.range (4 * d.dies))
    | _, _ => s) s s.links)

/-- PILOT_REWRITE: a pilot block whose age reaches 90 days is erased, and then written page by page (R189). -/
def execPilotRewrite (l die plane : Nat) (s : State) : Answer :=
  let x := s.link l
  match x.desc with
  | none => .next s
  | some d =>
    let due := mget 0 s.pilotAge (64 * l + 4 * die + plane) + 7776000
    let s := s.reach (s.stew.ageBase + 1000000000 * (due - s.stew.ageClock))
    .next (s.sendMedia l { op := .erase, die := die, planes := BitVec.ofNat 4 (2 ^ plane), block := d.pilot
                           why := .pilotErase die plane, foreground := false })

/-- The program of a pilot page with its pattern; the pilot's age begins with its first (R186, R189). -/
def State.pilotProgram (s : State) (l die plane page : Nat) : State :=
  match (s.link l).desc with
  | none => s
  | some d =>
    let s := if page = 0 then { s with pilotAge := mset 0 s.pilotAge (64 * l + 4 * die + plane) s.ageNow } else s
    s.sendMedia l { op := .program, die := die, planes := BitVec.ofNat 4 (2 ^ plane), block := d.pilot, page := page
                    data := pilotFrames die plane page, why := .pilotProg die plane page, foreground := false }

/-! ### PROGRAM and ERASE (R96, R175, R197 to R199) -/

/-- The pages of a row's dieblock on tile offset `t` are programmed. -/
def State.markProgrammed (s : State) (k r t : Nat) : State :=
  { s with staged := s.staged.map (fun e =>
      if bandKey e.region e.band = k ∧ e.at_ / 512 = r ∧ grainTile e.at_ = t then { e with programmed := true } else e) }

/-- A program has passed. -/
def State.programPassed (s : State) (l : Nat) (m : MCmd) : State :=
  match m.why with
  | .row k r => (s.markProgrammed k r (tileOfLink l % 8)).releaseRow (bandRegion k) (bandIndex k) r
  | .slcRow k r => (s.markProgrammed k r (tileOfLink l % 8)).releaseRow (bandRegion k) (bandIndex k) r
  | .parity k r => s.releaseRow (bandRegion k) (bandIndex k) r
  | .pilotProg die plane page =>
    if page < 2047 then s.pilotProgram l die plane (page + 1) else s
  | _ => s

/-- PROGRAM_RESPONSE: staging is released once the row and its parity page are programmed (R101, R120); a failure is handled
as its page's role has it (R197, R198); the last rescue program lets the steps of R131, or the entry to P2, go on. -/
def execProgramResponse (l : Nat) (rec : BitVec 128) (cqOk : Bool) (s : State) : Answer :=
  let cid := respCid rec
  match s.cmdOf l cid .program with
  | none => .next s
  | some m =>
    let s := match respStatus rec with
      | .pass => (s.endCmd l cid).programPassed l m
      | .parked => s.endCmd l cid
      | .dieFault => if s.st.failedDies.contains (16 * l + m.die) then (s.endCmd l cid).programGone l m else s.dieFailed l m.die 1
      | _ => (((s.endCmd l cid).countDie l m.die).programGone l m).poolChanged
    let s := (s.opEnded l m.die).rescueDone
    .next (((s.p2Go.pumpBack).pump cqOk).pumpRuns cqOk)

/-- ERASE_RESPONSE: the last dieblock's erase makes the band FREE; ERASE_FAIL retires the dieblock, which is replaced (R96,
R115, R199). -/
def execEraseResponse (l : Nat) (rec : BitVec 128) (cqOk : Bool) (s : State) : Answer := answering cqOk s fun s =>
  let cid := respCid rec
  match s.cmdOf l cid .erase with
  | none => .next s
  | some m =>
    let s := match respStatus rec with
      | .pass => match m.why with
        | .bandErase k => (s.endCmd l cid).eraseEnd k (tileOfLink l % 8)
        | .pilotErase die plane => (s.endCmd l cid).pilotProgram l die plane 0
        | _ => s.endCmd l cid
      | .parked => s.endCmd l cid
      | .dieFault => if s.st.failedDies.contains (16 * l + m.die) then (s.endCmd l cid).eraseGone l m else s.dieFailed l m.die 1
      | _ => (((s.endCmd l cid).countDie l m.die).eraseGone l m).poolChanged
    .next ((((s.opEnded l m.die).pump true).pumpBack).pumpRuns true)

/-! ### The retry ladder (R191 to R195) -/

/-- The corrected codeword of a decode that has succeeded: 4,608 bytes that meet every check of the code (R181). -/
def corrected (r : CwResult) : Option Bytes :=
  match r with
  | .ok cw => if cw.length = 4608 ∧ ldpcOk cw = true then some cw else none
  | .fail => none

/-- CODEWORD_DECODE: the decode of a codeword ends, on the link's own decoder or, on rungs 2 to 4 or where that is retired, on a soft
decoder (R193, R428). De-randomised, it goes to those that read it, its evidence moves the read levels, and refresh triggers are
tried; a failure climbs to the next rung (R103, R180, R184, R187, R188, R191, R192, R194 to R196). -/
def execCodewordDecode (l cid : Nat) (r : CwResult) (w : HostWrite) (cqOk : Bool) (s : State) : Answer :=
  let x := s.link l
  match s.cmdOf l cid .readPage, mget none x.climbs cid with
  | some m, some c =>
    if c.responded = false ∨ c.framesLeft ≠ 0 ∨ 5 ≤ c.rung ∨ ((2 ≤ c.rung ∨ x.hardRetired = true) ∧ s.onSoft l cid = false) then .next s
    else
      let s := match corrected r with
        | some cw =>
          let hard := c.frames.headD []
          let n := (diffBits hard cw).length
          let s := if c.rung = 1 then s.keepShift l m c.sub else s.noteEvidence l m hard cw
          let s := ((s.countRung l m.die c.rung).noteRead l m c.rung n).endCmd l cid
          s.deliverAll l m c.rung (s.meets c.rung n) cw (some (cwOpen (readLoc l m).seed cw)) w cqOk (m.why :: c.joined)
        | none =>
          if c.rung = 0 then s.senseAgain l cid m 1 0
          else if c.rung = 1 ∧ c.sub = 0 then s.senseAgain l cid m 1 1
          else if c.rung < 4 then s.senseAgain l cid m (c.rung + 1) 0
          else (s.noteRead l m 4 0).giveUp l cid m
      .next ((((s.nextSofts (regionOfLink l)).pilotsAgain l).pump cqOk).pumpRuns cqOk)
  | _, _ => .next s

/-- PARITY_REBUILD: the XOR of the 8 corrected codewords, de-randomised under the lost codeword's own seed, is checked by its tag CRC
(R181, R182, R194). -/
def execParityRebuild (l cid : Nat) (w : HostWrite) (cqOk : Bool) (s : State) : Answer :=
  match mget none (s.link l).cmds cid, mget none (s.link l).climbs cid with
  | some m, some c =>
    if c.rung ≠ 5 ∨ c.rebuild ≠ 0 ∨ c.parts.length ≠ 8 then .next s
    else
      let cw := xorAll 4608 c.parts
      let x := cwOpen (s.homeOfRead l m).seed cw
      let s := if tagOk x.2 then
          let s := ((s.countRung l m.die 5).noteRebuilt l m).endCmd l cid
          s.deliverAll l m 5 false (cwEncode (readLoc l m).seed x.1 (natLe 32 x.2.toNat)) (some x) w cqOk (m.why :: c.joined)
        else s.loseCw l cid m
      .next ((s.pump cqOk).pumpRuns cqOk)
  | _, _ => .next s

/-! ### Descriptors and dies (R177, R178, R199) -/

/-- The descriptor that 256 bytes hold, if their CRC-32C is right (R177). -/
def StackDesc.ofBytes (b : Bytes) : Option StackDesc :=
  let f := fun (at_ n : Nat) => leNat (slice b at_ n)
  if b.length ≠ 256 ∨ f 252 4 ≠ (crc32c (b.take 252)).toNat then none
  else some {
    rev := f 0 2, dies := f 2 1, planes := f 3 1, blocks := f 4 2, pilot := f 6 2, pages := f 8 2, pageBytes := f 10 2
    bits := f 12 1, levels := f 13 1, levelMap := BitVec.ofNat 32 (f 14 4), dac := f 18 2, ratedQlc := f 20 2, ratedSlc := f 22 2
    trQlc := f 24 2, trSlc := f 26 2, extraSense := f 28 2, progQlc := f 30 2, progSlc := f 32 2, bers := f 34 2, suspendUs := f 36 2
    offsets := slice b 38 15, dieReadyUs := f 54 2, serial := BitVec.ofNat 64 (f 56 8) }

/-- Whether the values of a descriptor are supported (R178). -/
def descSupported (d : StackDesc) : Bool :=
  let ty := fun (k : Nat) => bits d.levelMap (2 * k) 2
  decide (1 ≤ d.dies ∧ d.dies ≤ 16 ∧ d.planes = 4 ∧ 1024 ≤ d.blocks ∧ d.blocks ≤ 4095 ∧ d.blocks ≤ d.pilot ∧ d.pages = 2048 ∧
    d.pageBytes = 18432 ∧ d.bits = 4 ∧ d.levels = 15 ∧ d.dieReadyUs ≤ 3800) &&
  (List.range 4).all (fun t => decide (3 ≤ ((List.range 15).filter (fun k => decide (ty k = t))).length)) &&
  (List.range 14).all (fun k => decide (ty k ≠ ty (k + 1)))

/-- Whether two descriptors agree in bytes 2 to 17 (R178). -/
def descSame (a b : StackDesc) : Bool :=
  decide (a.dies = b.dies ∧ a.planes = b.planes ∧ a.blocks = b.blocks ∧ a.pilot = b.pilot ∧ a.pages = b.pages ∧
    a.pageBytes = b.pageBytes ∧ a.bits = b.bits ∧ a.levels = b.levels ∧ a.levelMap = b.levelMap)

/-- The limit of ENUMERATE for a stack of so many dies (R163). -/
def enumLimit (dies : Nat) : Nat := if dies ≤ 8 then 350000000 else 1350000000

/-- DESCRIPTOR_RESPONSE: a supported descriptor that fits its region, read within the limit, makes the link ACTIVE; any other takes it
DOWN (R5, R163, R177, R178). -/
def execDescriptorResponse (l : Nat) (rec : BitVec 128) (d : Bytes) (s : State) : Answer :=
  let cid := respCid rec
  match s.cmdOf l cid .descriptor with
  | none => .next s
  | some _ =>
    let s := (s.putLink l ((s.link l).expect 1024 (respFrames rec))).endCmd l cid
    if (s.link l).st ≠ .enumerate then .next s
    else
      let p := regionOfLink l
      let first := s.links.findSome? (fun e => if regionOfLink e.1 = p then e.2.desc else none)
      match StackDesc.ofBytes d, respStatus rec with
      | some d, .pass =>
        let cause := if descSupported d = false then 2 else match first with | some f => if descSame f d then 0 else 3 | none => 0
        if cause ≠ 0 then .next ((s.health! 0x22 2 p (tileOfLink l) l 0 (BitVec.ofNat 32 cause)).linkDown l)
        else if (s.link l).trainAt + enumLimit d.dies ≤ s.now then .next (s.linkDown l)
        else
          let s := match first with
            | none => { s with st := { s.st with geom := mset (0, 0) s.st.geom p (d.dies, d.blocks) } }
            | some _ => s
          .next ((s.putLink l { s.link l with desc := some d, dies := d.dies }).linkOpen l)
      | _, _ => .next ((s.health! 0x22 2 p (tileOfLink l) l 0 1).linkDown l)

/-- DIE_NO_ANSWER: a die has answered no command for 50 ms (R199). -/
def execDieNoAnswer (l die : Nat) (cqOk : Bool) (s : State) : Answer := answering cqOk s fun s =>
  let waits := (s.link l).unanswered die
  if waits = [] then .next s
  else .next (((((s.reach (firstSent waits + 50000000))).dieFailed l die 2).pump true).pumpRuns true)

end Sys2Proof.Machine
end

