-- ==== Sys2Proof/Machine/PowerCmds.lean ====
section
/-! DEFINITION. Power states and clocks (22): entry to P1, P2 and P3 and the exit to P0 (R482 to R487), tile and core clocks (R488
to R491, R499), the governor (R492, R493) and the sensors (R494, R495). -/

namespace Sys2Proof.Machine

/-! ### Power states (R482 to R487) -/

/-- Stop the clock of every core (R482). -/
def State.stopCores (s : State) : State :=
  foldS (fun (s : State) (t : Nat) => s.setCore t { s.core t with clockOff := true }) s (List.range 64)

/-- P1_ENTRY: the timer of P1 expires; core clocks stop, and links are asked for STANDBY. -/
def execP1Entry (s : State) : Answer :=
  if s.mayEnter 1 .p0 = false then .next s
  else
    let s := s.reach (s.pw.idleAt + s.idleTimer 1)
    let s := s.stopCores.askLinks [.active] .standby cSTBY 0
    .next { s with pw := { s.pw with st := .p1 } }

/-- P2_ENTRY: the timer of P2 expires. Staged grains and tails are programmed first, and stay in staging (R484); what follows waits for
the last of those programs. Links in STANDBY are woken, for SLEEP is entered from ACTIVE (R162, R167). -/
def execP2Entry (s : State) : Answer :=
  if s.mayEnter 2 .p1 = false then .next s
  else
    let s := s.reach (s.pw.idleAt + s.idleTimer 2)
    let n := (List.range 8).foldl (fun n p => n + s.rescueGrains p) 0
    let s := { s with
      pw := { s.pw with entering := some .p2, flushed := false }
      jr := { s.jr with holdAt := s.now, rescued := n, rescueWait := [], rescueAgain := [] } }
    let s := foldS (fun (s : State) (p : Nat) => s.rescueRegion p s.staged) s (List.range 8)
    let s := foldS (fun (s : State) (e : Nat × Link) => if e.2.st = .standby then s.sendWake e.1 else s) s s.links
    .next s.p2Go

/-- P3_ENTRY: the timer of P3 expires; the read cache is discarded, every tile is retained, and the bridges power their dies
down. -/
def execP3Entry (s : State) : Answer :=
  if s.mayEnter 3 .p2 = false then .next s
  else
    let s := s.reach (s.pw.idleAt + s.idleTimer 3)
    let s := s.askLinks [.active, .sleeping] .sleeping cPARK 1
    let s := foldS (fun (s : State) (e : Nat × Link) =>
      if e.2.req = some .sleeping then s.putLink e.1 { s.link e.1 with diesOff := true } else s) s s.links
    let s := (s.retainTiles (fun _ => true)).uncacheIf (fun _ => true)
    .next { s with pw := { s.pw with st := .p3 } }

/-- The exit latency of the power state the device leaves, ns (R482). -/
def exitTime : PState → Nat
  | .p0 => 0
  | .p1 => 2000
  | .p2 => 150000
  | .p3 => 4000000

/-- POWER_STATE_EXIT_DONE: links are back and DRAM and tiles awake; media operations, lane jobs and the commands that wait for
the exit may issue (R486). It waits while a link is still in STANDBY or SLEEP. -/
def execPowerStateExitDone (s : State) : Answer :=
  if s.pw.leaving = false ∨ s.links.any (fun e => decide (e.2.st = .standby ∨ e.2.st = .sleeping)) then .next s
  else
    let s := s.selfRefreshAll false
    let s := foldS (fun (s : State) (t : Nat) =>
      s.setTile t { s.tile t with retain := 0, awake := 0xF, core := { s.core t with clockOff := false } }) s (List.range 64)
    let s := { s with pw := { s.pw with st := .p0, leaving := false, idleAt := s.now } }
    let s := foldS (fun (s : State) (t : Nat) => s.nextAll t) s (List.range 64)
    .next ((s.pump true).pumpRuns true)

/-! ### Clocks (R488, R491, R499) -/

/-- TILE_CLOCK_DROP: a tile without work for 20 µs drops its clock to 0.8 GHz, and its region's request follows. -/
def execTileClockDrop (t : Nat) (s : State) : Answer :=
  if 64 ≤ t ∨ s.tileBusy t = true then .next s
  else
    let s := s.reach ((s.tile t).idleSince + 20000)
    .next ((s.setTile t { s.tile t with clockMhz := 800 }).lowerRail (regionOfTile t))

/-- TILE_CLOCK_RAISE: a tile with work runs at the ceiling in P0. A clock above the limit of the current request waits 50 µs
after the request is raised. -/
def execTileClockRaise (t : Nat) (s : State) : Answer :=
  let c := ceilingMhz (s.stepsOf t)
  if 64 ≤ t ∨ s.tileBusy t = false ∨ s.pw.st ≠ .p0 ∨ c ≤ (s.tile t).clockMhz then .next s
  else
    let r := s.region (regionOfTile t)
    let s := if r.vreq.toNat < railCode c then
        let s := s.setRegion (regionOfTile t) { r with vreq := BitVec.ofNat 2 (railCode c), vreqAt := s.now }
        s.reach (s.now + 50000)
      else s.reach (if r.vreqAt = 0 then s.now else r.vreqAt + 50000)
    .next (s.setTile t { s.tile t with clockMhz := c })

/-- Whether a core waits or has no item, so that its clock may stop. -/
def Core.atRest (k : Core) : Bool :=
  match k.mode with
  | .idle => true
  | .wfe => true
  | .waitt _ _ => true
  | _ => false

/-- CORE_CLOCK_STOP: 64 cycles at rest under LATCH or WAKE_OVERRIDE stop a core's clock; number 64 is the steward's. -/
def execCoreClockStop (c : Nat) (s : State) : Answer :=
  if 64 < c ∨ s.sleepMode c = 0 then .next s
  else if c = 64 then .next { s with stew := { s.stew with clockOff := true } }
  else if (s.core c).atRest then .next (s.setCore c { s.core c with clockOff := true }) else .next s

/-! ### The governor (R492, R493) -/

/-- Every region obeys new power steps. -/
def State.obeySteps (s : State) : State :=
  let s := foldS (fun (s : State) (p : Nat) => s.applySteps p) s (List.range 8)
  (s.pump true).pumpRuns true

/-- GOVERNOR_ESTIMATE: an estimate of the package power, in mW. While the mean of the last ten exceeds 29.0 W the next step is
taken every 100 µs; after each 10 ms below 27.0 W the latest step is undone. -/
def execGovernorEstimate (mW : Nat) (s : State) : Answer :=
  if s.stew.supplies = false then .next s
  else
    let s := s.reach (s.pw.estAt + 10000)
    let p := s.pw
    let samples := (mW :: p.samples).take 10
    let past := decide (samples.length = 10 ∧ 290000 < samples.foldl (· + ·) 0)
    let due := match p.overAt with | some a => decide (a + 100000 ≤ s.now) | none => true
    let below := if mW < 27000 then some (match p.belowAt with | some b => b | none => s.now) else none
    let p := { p with estAt := s.now, samples := samples, belowAt := below }
    let rest := match below with | some b => decide (b + 10000000 ≤ s.now) | none => false
    if past = true ∧ due = true ∧ p.steps < 20 then
      .next ({ s with pw := { p with steps := p.steps + 1, overAt := some s.now } }).obeySteps
    else if rest = true ∧ 0 < p.steps then
      .next ({ s with pw := { p with steps := p.steps - 1, belowAt := some s.now } }).obeySteps
    else .next { s with pw := p }

/-! ### Sensors (R439, R494, R495) -/

/-- The bin of a temperature in 0.1 °C (R439). -/
def tempBin (d : Nat) : Nat := if d < 300 then 0 else if 1000 ≤ d then 15 else (d - 300) / 50 + 1

/-- One more millisecond at a temperature. -/
def Temp.add (x : Temp) (d : Nat) : Temp :=
  { max := Nat.max x.max d
    aboveMs := (List.range 4).map (fun i => x.aboveMs.getD i 0 + (if [850, 950, 1000, 1050].getD i 0 ≤ d then 1 else 0))
    histMs := mset 0 x.histMs (tempBin d) (mget 0 x.histMs (tempBin d) + 1) }

/-- Thermal throttling of a region begins or ends: the pin, the chip source, `CU_EVENT.THERMAL` and health follow (R494). -/
def State.thermalEdge (s : State) (p d : Nat) : State :=
  let s := { s with stew := { s.stew with thermAlert := s.ld.regions.any (fun e => e.2.hot) } }
  ((s.raise 0x90D).cuSet 4).health! 0x70 7 p 0xFF noLink (BitVec.ofNat 64 p) (BitVec.ofNat 32 d)

/-- One region's sample: at 100 °C throttling begins, a step is taken at each sample of at least 97 °C, and steps are undone
once it has stayed below for 100 ms, one after each further 10 ms. -/
def State.regionTemp (s : State) (p d : Nat) : State :=
  let r := s.region p
  let s := s.setRegion p { r with tempDeci := d }
  if r.hot = false then
    if d < 1000 then s
    else ((s.setRegion p { s.region p with hot := true, steps := 1, coolSince := none }).thermalEdge p d).applySteps p
  else if 970 ≤ d then
    let s := s.setRegion p { s.region p with steps := Nat.min 20 (r.steps + 1), coolSince := none }
    s.applySteps p
  else
    match r.coolSince with
    | none => s.setRegion p { s.region p with coolSince := some s.now }
    | some c =>
      if s.now < c + 100000000 then s
      else
        let n := r.steps - 1
        let s := s.setRegion p { s.region p with steps := n, coolSince := some (s.now - 90000000), hot := decide (n ≠ 0) }
        let s := if n = 0 then s.thermalEdge p d else s
        (s.applySteps p).pump true

/-- THERMAL_SAMPLE: the readings of the device sensor and of regions 0 to 7, in 0.1 °C. One of 110 °C or more is a chip fault. -/
def execThermalSample (temps : List Nat) (s : State) : Answer :=
  if s.stew.supplies = false ∨ temps.length ≠ 9 then .next s
  else
    let s := s.reach (s.pw.sampleAt + 1000000)
    let s := { s with pw := { s.pw with sampleAt := s.now, devTemp := temps.getD 0 0 } }
    let add := fun (m : SMap Temp) (i : Nat) => mset {} m i ((mget {} m i).add (temps.getD i 0))
    let s := { s with health := { s.health with temps := (List.range 9).foldl add s.health.temps } }
    let s := foldS (fun (s : State) (p : Nat) => s.regionTemp p (temps.getD (p + 1) 0)) s (List.range 8)
    .next (if temps.any (fun d => decide (1100 ≤ d)) ∧ s.stew.boot ≠ .off then s.chipFault 8 6 0 else s)

end Sys2Proof.Machine
end

