-- ==== Sys2Proof/Machine/Registers.lean ====
section
/-! DEFINITION. REGISTER_WRITE: writes to registers by their access codes (R2 to R4), in the BARs (R25 to R27, R50, R52), in the
tile register range (09, 12 to 15, 18) and at steward addresses (16, 17, 18). A register that has a row of its own is written
as that row writes it, with every host write it leads to succeeding. -/

namespace Sys2Proof.Machine

/-- A 64-bit register with one 32-bit half written. -/
def putHalf (old : DWord) (high : Bool) (v : Word) : DWord :=
  if high then v ++ old.extractLsb' 0 32 else old.extractLsb' 32 32 ++ v

/-- A ring base: [11:0] are reserved (R3, R26). -/
def ringBase (v : DWord) : DWord := v &&& 0xFFFFFFFFFFFFF000

/-- Queue 0's ring bases, ignored while queue 0 is not DISABLED (R27). -/
def State.writeAqSq (s : State) (v : DWord) : State :=
  if (s.queue 0).st = .disabled then { s with hq := { s.hq with aqSqBase := ringBase v } } else s
def State.writeAqCq (s : State) (v : DWord) : State :=
  if (s.queue 0).st = .disabled then { s with hq := { s.hq with aqCqBase := ringBase v } } else s

/-- `CU_AQ_CTRL`: VECTOR first, then ENABLE. A write that sets ENABLE is ignored whole while `ID_READY.ADMIN` is 0 or queue 0 is
not DISABLED (R26, R27). -/
def State.writeAqCtrl (s : State) (v : Word) : State :=
  let t := if (s.queue 0).st = .disabled then { s with hq := { s.hq with aqVector := v.extractLsb' 16 11 } } else s
  if bit v 0 then (if bit s.hq.idReady 1 = true ∧ (s.queue 0).st = .disabled then t.enableSet else s) else t.enableClear

/-- A word of the MSI-X table (R22, R25, R52): address low and high, data, vector control. -/
def State.writeMsix (s : State) (n k : Nat) (v : Word) : State :=
  let x := s.vec n
  match k with
  | 0 => s.setVec n { x with addr := putHalf x.addr false (v &&& 0xFFFFFFFC) }
  | 1 => s.setVec n { x with addr := putHalf x.addr true v }
  | 2 => s.setVec n { x with data := v }
  | _ => if bit v 0 then s.setVec n { x with masked := true } else if x.masked then s.unmask n else s

/-- A 32-bit write in BAR0. -/
def State.writeBar0 (s : State) (off : Nat) (v : Word) : State :=
  if 0x500000 ≤ off ∧ off < 0x508000 ∧ off % 4 = 0 then s.writeMsix ((off - 0x500000) / 16) (off % 16 / 4) v
  else match off with
    | 0x10000 => s.writeAqSq (putHalf s.hq.aqSqBase false v)
    | 0x10004 => s.writeAqSq (putHalf s.hq.aqSqBase true v)
    | 0x10008 => s.writeAqCq (putHalf s.hq.aqCqBase false v)
    | 0x1000C => s.writeAqCq (putHalf s.hq.aqCqBase true v)
    | 0x10010 => s.writeAqCtrl v
    | 0x10020 => { s with hq := { s.hq with cuEvent := s.hq.cuEvent &&& ~~~(v &&& 0x1F) } }
    | 0x10024 => { s with hq := { s.hq with cuEventMask := v } }
    | 0x10030 => if bit v 0 then s.writeShutdown else s
    | _ => s

/-- A 64-bit write in BAR0: only the ring bases are 64 bits wide (R4, R26). -/
def State.writeBar0Wide (s : State) (off : Nat) (v : DWord) : State :=
  match off with
  | 0x10000 => s.writeAqSq v
  | 0x10008 => s.writeAqCq v
  | _ => s

/-- A write to a doorbell page (02). -/
def State.writeBar2 (s : State) (off : Nat) (v : Word) : State :=
  let q := off / 0x1000
  match off % 0x1000 with
  | 0 => s.writeTail q v
  | 4 => s.writeHead q v
  | 8 => if bit v 0 then s.writeRestart q true (bit v 1) else s
  | _ => s

/-- A register of a bank's block (12, R321). -/
def State.writeBankReg (s : State) (t b off : Nat) (v : Word) : State :=
  let x := s.bank t b
  match off with
  | 0x00 => s.writeOwner t b v false
  | 0x04 => s.clearCollide t b v
  | 0x08 => s.setBank t b { x with ovf := x.ovf && !bit v 8, ue := x.ue && !bit v 9 }
  | 0x10 => s.setBank t b { x with flipD := v }
  | 0x14 => s.setBank t b { x with flipC := v.extractLsb' 0 7, flipArm := bit v 31 }
  | 0x20 => s.writeRemap t b 0 v
  | 0x24 => s.writeRemap t b 1 v
  | 0x28 => s.writeRemap t b 2 v
  | 0x2C => s.writeRemap t b 3 v
  | _ => s

/-- A register of an interrupt controller (18). -/
def State.writeIntReg (s : State) (c off : Nat) (v : Word) : State :=
  match off with
  | 0x00 => s.doorbell c (bits v 0 12)
  | 0x04 => s.setIntc c { s.intc c with cmask := v.extractLsb' 0 4 }
  | 0x0C => s.ackSource c (bits v 0 12)
  | 0x10 => s.writeIntStat c v
  | 0x18 => s.setIntc c { s.intc c with qsel := v.extractLsb' 0 12 }
  | _ => s

/-- A lane control register of a tile (13, 14, 15); what a change lets start, starts. -/
def State.writeLaneCtrl (s : State) (t off : Nat) (v : Word) : State :=
  let x := s.tile t
  let s := match off with
    | 0xD00 => s.setLanes t { x.lanes with rxEn := bit v 0, rxSteal := bit v 1 }
    | 0xD40 => s.setLanes t { x.lanes with exEn := bit v 0, exSteal := bit v 1 }
    | 0xD80 => s.setCrypt t { x.crypt with cxEn := v.extractLsb' 0 4, cxSteal := bit v 4 }
    | 0xDC0 => s.setCrypt t { x.crypt with dgEn := v.extractLsb' 0 2, dgSteal := bit v 2, dgSnoop := bit v 3 }
    | _ => s
  s.nextAll t

/-- A write in the tile register range of a tile. -/
def State.writeTileReg (s : State) (t off : Nat) (v : Word) : State :=
  if 64 ≤ t then s
  else if 0x800 ≤ off ∧ off < 0xC00 then s.writeBankReg t ((off - 0x800) / 64) (off % 64) v
  else if 0xE00 ≤ off ∧ off < 0xE20 then s.writeIntReg t (off - 0xE00) v
  else match off with
    | 0x10 => s.setCore t { s.core t with ev := v &&& 0x7F }
    | 0x14 => s.writeEvp t v
    | 0xC10 => s.clearConf t v
    | 0xC20 => s.setTile t { s.tile t with thresh := v.extractLsb' 0 8, scrubEn := bit v 8 }
    | 0xC24 => s.writeRet t v
    | _ => s.writeLaneCtrl t off v

/-- A target register: writable until LOCK is set (R416). -/
def State.writeTarget (s : State) (n : Nat) (v : Word) : State :=
  if s.intLock then s
  else
    let x : Target := { core := v.extractLsb' 0 7, prio := v.extractLsb' 8 2, en := bit v 10 }
    { s with intTgt := mset {} s.intTgt n x }

/-- A register of a DRAM channel (17). -/
def State.writeDc (s : State) (c off : Nat) (v : Word) : State :=
  let x := s.chan c
  match off with
  | 0x00 => s.writeDcCtrl c v
  | 0x08 => s.setChan c { x with ovf := x.ovf && !bit v 8, ue := x.ue && !bit v 9, addrErr := x.addrErr && !bit v 10 }
  | 0x10 => s.setChan c { x with flipMask := v.extractLsb' 0 7, flipAp := bit v 7, flipArm := bit v 31 }
  | _ => s

/-- A write at a steward address. -/
def State.writeSteward (s : State) (a : Nat) (v : Word) : State :=
  if 0x02002000 ≤ a ∧ a < 0x02006000 ∧ a % 4 = 0 then s.writeTarget ((a - 0x02002000) / 4) v
  else if 0x02000800 ≤ a ∧ a < 0x02000900 then s.writeDc ((a - 0x02000800) / 64) (a % 64) v
  else if 0x02001000 ≤ a ∧ a < 0x02001020 then s.writeIntReg 64 (a - 0x02001000) v
  else match a with
    | 0x02000400 => { s with cam := { s.cam with scanEn := bit v 0 } }
    | 0x02000414 => { s with cam := { s.cam with errValid := s.cam.errValid && !bit v 20 } }
    | 0x02001020 => if bit v 0 then { s with intLock := true } else s
    | _ => s

/-- A write of MSI-X Message Control: [14] is the function mask, and clearing it sends what is pending on unmasked vectors
(R52; assumption 4). -/
def State.writeMsixControl (s : State) (v : Word) : State :=
  let s := { s with hq := { s.hq with funcMask := bit v 14 } }
  if bit v 14 then s
  else foldS (fun (s : State) (e : Nat × Vec) => if e.2.pending ∧ e.2.masked = false then s.unmask e.1 else s) s s.hq.vecs

/-- A write of Device Control: [7:5] Max_Payload_Size, [14:12] Max_Read_Request_Size, each with PCIe's codes. A code of a size that
R22 does not support leaves its field as it was (PRESUMED, assumption 4). -/
def State.writeDeviceControl (s : State) (v : Word) : State :=
  { s with hq := { s.hq with
    maxPayload := if bits v 5 3 ≤ 2 then v.extractLsb' 5 3 else s.hq.maxPayload
    maxReadReq := if bits v 12 3 ≤ 5 then v.extractLsb' 12 3 else s.hq.maxReadReq } }

/-- A write in configuration space, where the model numbers MSI-X Message Control 0 and Device Control 1 (assumption 4). -/
def State.writeConfig (s : State) (off : Nat) (v : Word) : State :=
  if off = 0 then s.writeMsixControl v else if off = 1 then s.writeDeviceControl v else s

/-- REGISTER_WRITE: a write of `bits` bits; one of another width than the register's is ignored (R4). Writes to the BARs and to
configuration space end a low-power state (R486). -/
def execRegisterWrite (sp : Space) (off bits : Nat) (v : DWord) (s : State) : Answer :=
  let w := v.extractLsb' 0 32
  match sp with
  | .bar0 =>
    if s.barOpen = false then .next s
    else .next (if bits = 32 then s.barWrite.writeBar0 off w else if bits = 64 then s.barWrite.writeBar0Wide off v else s.barWrite)
  | .bar2 => if s.barOpen = false then .next s else .next (if bits = 32 then s.barWrite.writeBar2 off w else s.barWrite)
  | .tile t => .next (if bits = 32 then s.writeTileReg t off w else s)
  | .steward => .next (if bits = 32 then s.writeSteward off w else s)
  | .config => .next (if bits = 16 then s.busy.wakeUp.writeConfig off w else s.busy.wakeUp)

end Sys2Proof.Machine
end

