-- ==== Sys2Proof/Machine/Admission.lean ====
section
/-! DEFINITION. The admission checks of Pytan images (R271 to R275) and pipeline descriptors (R202 to R205), and the
findings report (R274). -/

namespace Sys2Proof.Machine

/-- A finding (R274). -/
structure Finding where
  offset : Nat
  code : Nat
  detail : Nat := 0
  offset2 : Nat := 0
  stage : Nat := 0xFE
deriving DecidableEq, Repr

/-- Code 0x0B is a note, every other an error (R275). -/
def Finding.note (f : Finding) : Bool := decide (f.code = 0x0B)

/-- Image order: by offset; findings of one offset by code, detail and producer. -/
def Finding.before (a b : Finding) : Bool :=
  decide (a.offset < b.offset ∨ (a.offset = b.offset ∧ (a.code < b.code ∨ (a.code = b.code ∧
    (a.detail < b.detail ∨ (a.detail = b.detail ∧ a.offset2 < b.offset2))))))

/-- Insert a finding in image order, once. -/
def insertFinding (f : Finding) : List Finding → List Finding
  | [] => [f]
  | x :: r => if f = x then x :: r else if f.before x then f :: x :: r else x :: insertFinding f r

def sortFindings (l : List Finding) : List Finding := l.foldl (fun a f => insertFinding f a) []

/-- The 16 bytes of a finding. -/
def Finding.bytes (f : Finding) : Bytes :=
  natLe 1 f.code ++ natLe 1 (if f.note then 1 else 0) ++ natLe 1 f.stage ++ natLe 1 0 ++ natLe 4 f.offset ++ natLe 4 f.detail ++
    natLe 4 f.offset2

/-- The findings report of an image of `len` bytes, truncated at `rlen` bytes (R73, R274). -/
def findingsReport (len rlen : Nat) (l : List Finding) : Bytes :=
  let written := Nat.min (Nat.min l.length ((rlen - 16) / 16)) 65535
  (natLe 2 (Nat.min l.length 65535) ++ natLe 2 written ++ natLe 4 len ++ natLe 1 1 ++ natLe 7 0 ++
    ((l.take written).map Finding.bytes).flatten).take rlen

/-! ### What an instruction does, as far as its words tell -/

/-- What is known of the address of an access. -/
inductive Known where
  | abs (a : Nat)
  | rel (reg : Nat) (disp : Int)
  | unknown
deriving DecidableEq, Repr

/-- An access: its address as known, and its bytes. -/
structure Acc where
  at_ : Known
  n : Nat
deriving DecidableEq, Repr

/-- The effects of one instruction that R266 names, an RPT prefix and its string instruction taken as one (R249). -/
structure Eff where
  op : Nat := 0
  len : Nat := 4
  cond : Nat := 0
  legal : Bool := true
  target : Option Nat := none         -- image offset of an immediate jump's target
  indirect : Bool := false
  regs : List Nat := []               -- An changed
  bases : List Nat := []              -- An used as base or index
  lkW : Bool := false
  lkR : Bool := false
  rcW : Bool := false
  rcRpt : Bool := false
  eR : Bool := false                  -- FL.E seen
  eW : Bool := false                  -- TL_EV or TL_EVP written
  owner : Option Nat := none          -- bank whose owner register is written
  reads : List Acc := []
  writes : List Acc := []
  bad : List Nat := []                -- addresses of finding 0x0D
deriving DecidableEq, Repr

/-- Whether an address lies in the core address map (R227), the DRAM windows at their widest. -/
def inCoreMap (a : Nat) : Bool :=
  decide (a < 0x200000 ∨ (0x1000000 ≤ a ∧ a < 0x1001000) ∨ (0x40000000 ≤ a ∧ a < 0x80000000))

/-- Whether a core may write the tile register at an absolute address (R229, R230). -/
def coreMayWrite (a n : Nat) : Bool :=
  let r := a - 0x1000000
  decide (n = 4 ∧ (r = 0x10 ∨ r = 0x14 ∨ (0x800 ≤ r ∧ r < 0xC00 ∧ r % 64 = 0)))

/-- Whether finding 0x0D applies to an absolute access. -/
def badAccess (a n : Nat) (write : Bool) : Bool :=
  let last := (a + n - 1) % 4294967296
  !inCoreMap a || !inCoreMap last ||
  (write && decide (a < 0x1F0000 ∧ 0x1E0000 < a + n)) ||
  (write && decide (0x1000000 ≤ a ∧ a < 0x1001000) && !coreMayWrite a n)

/-- Add an access to the effects; `named` when the operand itself gives the address. -/
def Eff.access (e : Eff) (k : Known) (n : Nat) (write named : Bool) : Eff :=
  let e := match k with
    | .abs a =>
      let e := if named && badAccess a n write then { e with bad := e.bad ++ [a] } else e
      let r := a - 0x1000000
      if write = true ∧ 0x1000000 ≤ a ∧ (r = 0x10 ∨ r = 0x14) then { e with eW := true }
      else if write = true ∧ 0x1000000 ≤ a ∧ 0x800 ≤ r ∧ r < 0xBC0 ∧ r % 64 = 0 then { e with owner := some ((r - 0x800) / 64) }
      else e
    | _ => e
  if write then { e with writes := e.writes ++ [⟨k, n⟩] } else { e with reads := e.reads ++ [⟨k, n⟩] }

/-- A source or destination operand of `n` bytes of the instruction at absolute address `pc`; ADR forms the address and
accesses nothing (R252). -/
def Eff.operand (e : Eff) (pc n : Nat) (dst adr : Bool) (o : Opd) : Eff :=
  let based := fun (r : BitVec 3) (disp : Word) =>
    let k := if e.regs.contains r.toNat then Known.unknown else Known.rel r.toNat disp.toInt
    let e := { e with bases := r.toNat :: e.bases }
    if adr then e else e.access k n dst false
  match o with
  | .reg r => if dst then { e with regs := r.toNat :: e.regs } else e
  | .ind r => based r 0
  | .disp r d => based r d
  | .idx r x _ _ _ =>
    let e := { e with bases := r.toNat :: x.toNat :: e.bases }
    if adr then e else e.access .unknown n dst false
  | .postInc r | .preDec r =>
    let e := { e with bases := r.toNat :: e.bases, regs := r.toNat :: e.regs }
    e.access .unknown n dst false
  | .abs a => if adr then e else e.access (.abs a.toNat) n dst true
  | .pcRel d => if adr then e else e.access (.abs ((pc + d.toNat) % 4294967296)) n dst true
  | .lk => if dst then { e with lkW := true } else { e with lkR := true }
  | .rc => if dst then { e with rcW := true } else e
  | .imm _ | .fl | .timeLo | .timeHi | .zero => e

/-- The effects of a string instruction: its addresses lie in A1, A4 and A5 and are not known (R258). -/
def stringEff (op n : Nat) (rpt : Option Decoded) : Eff :=
  let e : Eff := { op := op }
  let uses4 := decide (op ≠ 0x3B)
  let writes5 := decide (op = 0x38 ∨ op = 0x3B ∨ op = 0x3C)
  let reads5 := decide (op = 0x39)
  let e := if uses4 then { e.access .unknown n false false with bases := [4], regs := [4] } else e
  let e := if writes5 || reads5 then { e with bases := 5 :: e.bases, regs := 5 :: e.regs } else e
  let e := if reads5 then e.access .unknown n false false else e
  let e := if writes5 then e.access .unknown n true false else e
  let e := if op = 0x3C then { e.access .unknown 1 false false with bases := 1 :: e.bases } else e
  let e := if op = 0x3D then { e with regs := 0 :: e.regs } else e
  match rpt with
  | some p => { e with rcW := true, rcRpt := true, eR := decide (p.x.cond.toNat % 2 = 1) }
  | none => e

/-- The effects of a legal instruction at an image offset. -/
def effOf (off : Nat) (d : Decoded) (rpt : Option Decoded) : Eff :=
  let n := wbytes d.x.width
  if isString d.op then stringEff d.op n rpt
  else
    let i := (opInfo d.op).getD {}
    let pc := codeBase + off
    let e : Eff := { op := d.op, cond := d.x.cond.toNat }
    let e := if i.s1 then e.operand pc n false (decide (d.op = 0x24)) d.x.s1 else e
    let e := if i.s2 then e.operand pc n false false d.x.s2 else e
    let e := if i.d then e.operand pc (if d.op = 0x4A then 16 else n) true false d.x.d else e
    let e := if d.op = 0x48 ∨ d.op = 0x49 ∨ d.op = 0x4A then
        let k := match d.x.s1 with | .imm v => Known.abs v.toNat | _ => Known.unknown
        e.access k (if d.op = 0x49 ∧ d.x.cond = 0 then 48 else 32) false false
      else e
    let jump := decide (d.op = 0x30 ∨ d.op = 0x31)
    let e := if d.op = 0x31 then { e with lkW := true } else e
    let e := match jump, d.x.s1 with
      | true, .imm v => { e with target := some ((v.toNat + 4294967296 - codeBase) % 4294967296) }
      | true, _ => { e with indirect := true }
      | false, _ => e
    { e with eR := decide ((d.op = 0x32 ∧ d.x.cond = 15) ∨ d.op = 0x40) || (decide (d.op = 0x42) && decide (d.x.cond.toNat % 2 = 1)) }

/-! ### The linear part: encodings, delay slots, targets -/

/-- Encoding findings of one instruction: undefined (0x03), unused fields (0x04). -/
def encFindings (off : Nat) (d : Decoded) : List Finding :=
  match opInfo d.op with
  | none => [{ offset := off, code := 0x03, detail := d.word.toNat }]
  | some i =>
    (if pyDefined d.x d.op i then [] else [{ offset := off, code := 0x03, detail := d.word.toNat }]) ++
    (if pyUnusedOk d.x i then [] else [{ offset := off, code := 0x04, detail := d.word.toNat }])

/-- The code decoded from its start: the effects of each instruction by image offset, in image order, and the findings.
`prev` is the opcode and offset of the instruction before. -/
def scanCode (b : Bytes) (top : Nat) : Nat → Nat → Option (Nat × Nat) → List (Nat × Eff) → List Finding → List (Nat × Eff) × List Finding
  | 0, _, _, es, fs => (es.reverse, fs)
  | fuel + 1, off, prev, es, fs =>
    if top ≤ off then
      (es.reverse, match prev with
        | some (op, o) => if 0x30 ≤ op ∧ op ≤ 0x33 then { offset := o, code := 0x07 } :: fs else fs
        | none => fs)
    else match decodeAt b top off with
      | none => (es.reverse, { offset := off, code := 0x05 } :: fs)
      | some d =>
        let enc := encFindings off d
        let slot := match prev with | some (op, _) => decide (op = 0x30 ∨ op = 0x31) | none => false
        let fs := if slot && isControl d.op then { offset := off, code := 0x06, detail := d.word.toNat } :: fs else fs
        let fs := enc ++ fs
        if d.op = 0x34 ∧ enc = [] then
          match decodeAt b top (off + 4) with
          | none => (es.reverse, { offset := off, code := 0x05 } :: fs)
          | some y =>
            if isString y.op = false then
              scanCode b top fuel (off + 4) (some (d.op, off)) ((off, { op := d.op, legal := false }) :: es)
                ({ offset := off, code := 0x08, detail := y.word.toNat } :: fs)
            else
              let enc2 := encFindings (off + 4) y
              let e := { effOf off y (some d) with len := 4 + y.len, legal := decide (enc2 = []) }
              scanCode b top fuel (off + 4 + y.len) (some (y.op, off)) ((off, e) :: es) (enc2 ++ fs)
        else
          let e : Eff := if enc = [] then { effOf off d none with len := d.len } else { op := d.op, len := d.len, legal := false }
          let bad := e.bad.map (fun a => ({ offset := off, code := 0x0D, detail := a } : Finding))
          scanCode b top fuel (off + d.len) (some (d.op, off)) ((off, e) :: es) (bad ++ fs)

/-! ### The paths (R272, R273) -/

/-- The effects at an image offset. -/
def effAt (es : List (Nat × Eff)) (off : Nat) : Option Eff := (es.find? (fun e => decide (e.1 = off))).map (·.2)

/-- What a proof says of two operands: overlap, apart, or neither (R273). -/
inductive Proved where
  | overlap | apart | neither
deriving DecidableEq, Repr

def meets (a : Int) (n : Nat) (b : Int) (m : Nat) : Proved :=
  if a < b + m ∧ b < a + n then .overlap else .apart

/-- A write and a later read; `changed` are the registers changed between them. -/
def proveMem (changed : List Nat) (p c : Acc) : Proved :=
  match p.at_, c.at_ with
  | .abs a, .abs b => meets a p.n b c.n
  | .rel r x, .rel r' y => if r = r' ∧ changed.contains r = false then meets x p.n y c.n else .neither
  | _, _ => .neither

/-- An owner-register write of bank `b` and a later access. -/
def proveBank (b : Nat) (c : Acc) : Proved :=
  match c.at_ with
  | .abs a => if a < 0x1E0000 ∧ a / bankBytes = b then .overlap else .apart
  | _ => .neither

/-- A node on a path: where, what a transfer under way leads to (its delay slot is here), whether it is skipped, and the
three instructions issued before it, newest first, with whether each was executed. -/
structure Node where
  off : Nat
  slot : Option (Option Nat) := none  -- some (some t): to t; some none: an indirect jump
  skipped : Bool := false
  hist : List (Nat × Bool) := []
deriving DecidableEq, Repr

/-- The hazard findings of a consumer against one producer at distance `d` (R266, R273). -/
def hazardPair (off d po : Nat) (p c : Eff) (changed : List Nat) : List Finding :=
  let f := fun (code row : Nat) => ({ offset := off, code := code, detail := row + 256 * d, offset2 := po } : Finding)
  let say := fun (row : Nat) (x : Proved) => match x with
    | .overlap => [f 0x0A row]
    | .neither => [f 0x0B row]
    | .apart => []
  (if d < 2 ∧ p.regs.any (fun r => c.bases.contains r) = true then [f 0x09 3] else []) ++
  (if d < 2 ∧ p.lkW = true ∧ c.lkR = true then [f 0x09 6] else []) ++
  (if d < 3 ∧ p.rcW = true ∧ c.rcRpt = true then [f 0x09 7] else []) ++
  (if d < 2 ∧ p.eW = true ∧ c.eR = true then [f 0x09 9] else []) ++
  (if d < 3 then (p.writes.map (fun w => (c.reads.map (fun r => say 1 (proveMem changed w r))).flatten)).flatten else []) ++
  (match p.owner with
    | some b => ((c.reads ++ c.writes).map (fun a => say 2 (proveBank b a))).flatten
    | none => [])

/-- The hazard findings of a consumer against the instructions issued before it. -/
def hazards (es : List (Nat × Eff)) (off : Nat) (c : Eff) : Nat → List Nat → List (Nat × Bool) → List Finding
  | _, _, [] => []
  | d, changed, (po, ran) :: r =>
    match ran, effAt es po with
    | true, some p => hazardPair off d po p c changed ++ hazards es off c (d + 1) (changed ++ p.regs) r
    | _, _ => hazards es off c (d + 1) changed r

/-- The nodes that follow one, and its findings. A skipped instruction counts as issued and has no effect (R257); a fault
ends the path; DONE ends it. -/
def followNode (es : List (Nat × Eff)) (landings : List Nat) (x : Node) : List Node × List Finding :=
  match effAt es x.off with
  | none => ([], [{ offset := match x.hist with | (o, _) :: _ => o | [] => x.off, code := 0x0E }])
  | some e =>
    let next := x.off + e.len
    if x.skipped then ([{ off := next, hist := ((x.off, false) :: x.hist).take 3 }], [])
    else if e.legal = false ∨ (x.slot.isSome = true ∧ isControl e.op = true) then ([], [])
    else
      let fs := hazards es x.off e 1 [] x.hist
      let h := ((x.off, true) :: x.hist).take 3
      let succ : List Node :=
        if e.op = 0x36 then []
        else match x.slot with
          | some (some t) => [{ off := t, hist := h }]
          | some none => landings.map (fun l => { off := l, hist := h })
          | none =>
            if e.op = 0x30 ∨ e.op = 0x31 then
              if e.indirect then [{ off := next, slot := some none, hist := h }]
              else [{ off := next, slot := some e.target, hist := h }]
            else if e.op = 0x32 ∨ e.op = 0x33 then
              { off := next, skipped := true, hist := h } :: (if e.op = 0x32 ∧ e.cond = 14 then [] else [{ off := next, hist := h }])
            else [{ off := next, hist := h }]
      (succ, fs)

/-- Follow every path from the nodes waiting (R272). -/
def followPaths (es : List (Nat × Eff)) (landings : List Nat) : Nat → List Node → List Node → List Finding → List Finding
  | 0, _, _, fs => fs
  | _, [], _, fs => fs
  | fuel + 1, x :: todo, seen, fs =>
    if seen.contains x then followPaths es landings fuel todo seen fs
    else
      let (succ, more) := followNode es landings x
      followPaths es landings fuel (succ ++ todo) (x :: seen) (more ++ fs)

/-- Labels of an image, and their findings (R271, R275 code 0x02). -/
def checkLabels (es : List (Nat × Eff)) (b : Bytes) (n : Nat) : List Nat × List Finding :=
  (List.range n).foldl (fun (a : List Nat × List Finding) i =>
    let l := fieldLe b (16 + 4 * i) 4
    if (effAt es l).isNone ∨ a.1.contains l then (a.1, a.2 ++ [{ offset := 16 + 4 * i, code := 0x02, detail := i }])
    else (a.1 ++ [l], a.2)) ([], [])

/-- The header checks of an image (R271, R275 code 0x01): its length is what L and CODELEN say. -/
def imageHeaderOk (b : Bytes) : Bool :=
  let n := fieldLe b 6 2
  let c := fieldLe b 8 4
  decide (16 ≤ b.length ∧ b.length ≤ Config.imageMax ∧ fieldLe b 0 4 = 0x50595431 ∧ fieldLe b 4 2 = 1 ∧ 1 ≤ n ∧ n ≤ 4096 ∧
    4 ≤ c ∧ c % 4 = 0 ∧ fieldLe b 12 4 = 0 ∧ b.length = codeEnd b)

/-- The admission check of an image (R272 to R275): findings in image order, labels and landings (R256). -/
def checkProgram (b : Bytes) : List Finding × List Nat × List Nat :=
  if imageHeaderOk b = false then ([{ offset := 0, code := 0x01 }], [], [])
  else
    let top := codeEnd b
    let (es, fs) := scanCode b top (b.length + 1) (codeStart b) none [] []
    let (labels, lf) := checkLabels es b (fieldLe b 6 2)
    let wrong := es.filterMap (fun e => match e.2.target with
      | some t => if (effAt es t).isNone then some ({ offset := e.1, code := 0x0C, detail := (codeBase + t) % 4294967296 } : Finding) else none
      | none => none)
    let returns := es.filterMap (fun e => if e.2.op = 0x31 then
        (match effAt es (e.1 + e.2.len) with | some y => some (e.1 + e.2.len + y.len) | none => none)
      else none)
    let landings := labels ++ returns.filter (fun o => (effAt es o).isSome)
    let n := es.length + 1
    let es' := es.map (fun e => (e.1, if e.2.target.isSome ∧ wrong.any (fun f => decide (f.offset = e.1)) then { e.2 with legal := false } else e.2))
    let fs := followPaths es' landings (64 * n * n * n * n * n) (labels.map (fun l => { off := l })) [] (fs ++ lf ++ wrong)
    (sortFindings fs, labels, landings)

/-! ### Pipeline descriptors (R202 to R205) -/

/-- Whether every byte of a slice is zero. -/
def zeros (b : Bytes) (off n : Nat) : Bool := (slice b off n).all (fun x => decide (x = 0))

/-- KIND and MODE are defined (R203). -/
def stageDefined (x : Stage) : Bool :=
  match x.kind with
  | 1 => decide (x.mode ≤ 1)
  | 2 => decide (x.mode = 0)
  | 3 => decide (x.mode = 0)
  | 4 => decide (x.mode ≤ 2)
  | 5 => decide (x.mode ≤ 3)
  | 6 => decide (x.mode = 0)
  | 7 => decide (x.mode ≤ 1)
  | _ => false

/-- Reserved fields of a stage entry are zero, KSLOT included when FROMRUN is 1 (R202). -/
def stageReservedOk (p : Bytes) (i : Nat) (x : Stage) : Bool :=
  let o := 64 + 32 * i
  decide (fieldLe p (o + 2) 2 / 8192 = 0) && (!x.fromRun || decide (x.kslot = 0)) &&
  decide (byteNat p (o + 10) / 32 = 0) && decide (byteNat p (o + 11) = 0) && zeros p (o + 20) 12

/-- Stage order: rules 1, 2 and 5 of R204, and the count of rule 6. -/
def stageOrderOk (p : Bytes) (i : Nat) (x : Stage) : Bool :=
  let l := stagesOf p
  let before := l.take i
  let after := l.drop (i + 1)
  match x.kind with
  | 1 => decide (i = 0)
  | 2 => decide (i = 0) || (decide (i = 1) && decide ((stageAt p 0).kind = 1))
  | 3 => decide ((before.filter Stage.isProgram).length < 4)
  | 6 => after.all (fun y => decide (y.kind = 7)) && before.all (fun y => decide (y.kind ≠ 6 ∧ y.kind ≠ 7))
  | 7 => decide (after = []) && before.all (fun y => decide (y.kind ≠ 7))
  | _ => true

/-- A stage that needs records or ORDER has them (rules 3 and 4). -/
def stageNeedsOk (p : Bytes) (x : Stage) : Bool :=
  match x.kind with
  | 4 => decide (pipeRecfmt p ≠ 0)
  | 5 => if x.mode = 0 ∨ x.mode = 2 then decide (pipeRecfmt p ≠ 0) else if x.mode = 1 ∨ x.mode = 3 then pipeOrder p else true
  | _ => true

/-- Header field ranges (finding 0x82). -/
def pipeRangesOk (p : Bytes) : Bool :=
  decide (1 ≤ pipeNst p ∧ pipeNst p ≤ 8 ∧ 1 ≤ pipePrio p ∧ pipePrio p ≤ 6) &&
  (if pipeRecfmt p = 0 then decide (pipeReclen p = 0) else decide (1 ≤ pipeReclen p ∧ pipeReclen p ≤ 65536))

/-- Reserved header fields are zero. -/
def pipeReservedOk (p : Bytes) : Bool :=
  decide (byteNat p 2 / 16 = 0 ∧ byteNat p 3 / 4 = 0 ∧ byteNat p 8 / 8 = 0 ∧ byteNat p 9 / 8 = 0) && zeros p 10 54

/-- The admission check of a pipeline descriptor for an instance (R204, R205). -/
def State.checkPipeline (s : State) (inst : Nat) (p : Bytes) : List Finding :=
  let hd := fun (code : Nat) (off : Nat) => ({ offset := off, code := code, stage := 0xFF } : Finding)
  if p.length ≠ 320 then [hd 0x80 0]
  else
    let n := Nat.min (pipeNst p) 8
    let head := (if fieldLe p 0 2 = 1 then [] else [hd 0x81 0]) ++ (if pipeRangesOk p then [] else [hd 0x82 2]) ++
      (if pipeReservedOk p then [] else [hd 0x87 2])
    let stages := (List.range 8).map (fun i =>
      let f := fun (code : Nat) => ({ offset := 64 + 32 * i, code := code, stage := i } : Finding)
      if n ≤ i then (if zeros p (64 + 32 * i) 32 then [] else [f 0x87])
      else
        let x := stageAt p i
        (if stageDefined x then [] else [f 0x83]) ++
        (if x.kind = 4 ∧ (x.keyLen < 1 ∨ 16 < x.keyLen) then [f 0x82] else []) ++
        (if stageOrderOk p i x then [] else [f 0x84]) ++
        (if stageNeedsOk p x then [] else [f 0x85]) ++
        (if x.kind = 3 ∧ (s.imageOf inst x.handle).isNone then [f 0x86] else []) ++
        (if stageReservedOk p i x then [] else [f 0x87]))
    sortFindings (head ++ stages.flatten)

end Sys2Proof.Machine
end

