-- ==== Sys2Proof/Machine/RunCmds.lean ====
section
/-! DEFINITION. RUN and its start (R72, R206, R218, R219, R223), descriptor lists of started commands (R60 to R62), and the
program store: PROGRAM_LOAD, PIPELINE_DESCRIPTOR_LOAD, PROGRAM_DROP (R73, R243). -/

namespace Sys2Proof.Machine

/-! ### Descriptor lists (R60 to R62) -/

/-- A started command ends because of its host buffers: a RUN stops with STOP 5, any other command fails. -/
def State.failStarted (s : State) (q tag : Nat) (code : Code) (detail : DWord) : State :=
  match s.runOf (opKey q tag) with
  | some _ => (s.stopRun (opKey q tag) .failed code.toNat detail 5).finishRun (opKey q tag) true
  | none => s.failData true q tag code detail

/-- DESCRIPTOR_LIST_READ: the whole list of a started command has been read (R60 to R62). -/
def execDescriptorListRead (q tag : Nat) (r : ListRead) (w : HostWrite) (cqOk : Bool) (s : State) : Answer := answering cqOk s fun s =>
  match s.op q tag with
  | none => .next s
  | some o =>
    if o.started = false ∨ o.listOk = true ∨ readsList o.sqe = false then .next s
    else
      let s := s.dmaRead q tag
      match r with
      | .fault a => .next (s.failStarted q tag 0x42 a)
      | .ok ds => match walkList ds 0 0 0 0 with
        | .open_ => .next s
        | .invalid i => .next (s.failStarted q tag 0x41 (BitVec.ofNat 64 i))
        | .ok n =>
          let len := Sqe.length o.sqe
          if n < len then .next (s.failStarted q tag 0x40 (BitVec.ofNat 64 (n % 4294967296)))
          else
            let o := { o with listOk := true, slack := decide (len < n) }
            let s := s.setOp q tag (some o)
            .next (if Sqe.opcode o.sqe = 2 then s.startRead q tag o w true
              else if Sqe.opcode o.sqe = 8 then s.feedRun (opKey q tag) true else s)

/-! ### RUN (R72) -/

def runHandle (e : Sqe) : Nat := Sqe.field e 36 2
def runRlist (e : Sqe) : Nat := Sqe.field e 40 8
def runPlen (e : Sqe) : Nat := Sqe.field e 56 4
def toSlabRun (e : Sqe) : Bool := decide (Sqe.subop e = 1)

/-- Step 5 of R524 for RUN. -/
def runEncodingOk (e : Sqe) : Bool :=
  flagsOk e && (toSlabRun e || dptrOk e) && decide (1 ≤ runCount e ∧ runCount e ≤ 4096 ∧ runRlist e % 16 = 0 ∧ runPlen e ≤ 65536)

/-- The pipeline a handle names. -/
def State.pipeOf (s : State) (inst h : Nat) : Option Bytes :=
  match s.prog inst h with
  | some (.pipeline p) => some p
  | _ => none

/-- An ENCRYPT stage suits the output: XTS to a slab, GCM to the host with a fixed field of at least 4 bytes (R203,
R362). -/
def encryptSuits (p : Bytes) (toSlab : Bool) : Bool :=
  match pipeEncrypt p with
  | some x => if x.mode = 0 then toSlab else !toSlab && decide (4 ≤ x.paramLen)
  | none => true

/-- The causes of R524 for RUN. R524 gives HANDLE_INVALID of a RUN no place: the model tests it before an ENCRYPT stage that does not
suit the output, which is a cause of the pipeline it names, and before SLAB_NOT_OPEN (DESIGN CHOICE, assumption 70). -/
def State.runOwn (s : State) (e : Sqe) (o : Op) : Option Code :=
  if runEncodingOk e = false then some 0x11
  else if toSlabRun e = true ∧ s.slabIdx o = none then some 0x14
  else match s.pipeOf o.inst (runHandle e) with
    | none => some 0x20
    | some p =>
      if encryptSuits p (toSlabRun e) = false then some 0x11
      else if toSlabRun e = true ∧ (match s.slabIdx o with | some ti => decide ((s.slab ti).st = .opened) | none => false) = false then
        some 0x15
      else none

/-- RUN: its causes of refusal are tried; it then waits to start (R223). -/
def execRun (q tag : Nat) (cqOk : Bool) (s : State) : Answer := answering cqOk s fun s =>
  match s.op q tag with
  | none => .next s
  | some o =>
    if Sqe.opcode o.sqe ≠ 8 ∨ o.started = true ∨ o.checked = true ∨ s.orderOk q tag o = false then .next s
    else match s.commonRefusal q o.sqe with
      | some c => .next (s.refuse q tag c)
      | none => match s.runOwn o.sqe o with
        | some c => .next (s.refuse q tag c)
        | none => .next (s.setOp q tag (some { o with checked := true }))

/-- A key slot that a stage cannot use (R345, R369). -/
def State.stageUnusable (s : State) (e : Sqe) (x : Stage) : Bool :=
  let k := stageSlot e x
  if x.cipher then !((s.cslot k).usable (if x.mode = 0 then [32, 64] else [16, 32]))
  else x.keyed && (s.hslot k).cur.isNone

/-- A RESUME that does not match its chain (R219). -/
def State.resumeWrong (s : State) (inst : Nat) (e : Sqe) (status : Bytes) : Bool :=
  match s.ld.chains.find? (fun c => decide (c.1 = inst ∧ c.2.1 = (Sqe.aptr e).toNat)) with
  | none => true
  | some (_, _, c) =>
    let stop := byteNat status 10
    !(decide (c.handle = runHandle e ∧ c.rlist = runRlist e ∧ fieldLe status 12 2 = runHandle e ∧ byteNat status 11 % 2 = 1 ∧
      1 ≤ stop ∧ stop ≤ 6))

/-- The checks a RUN meets when it starts (R55, R206, R219, R345). -/
def State.runStartRefusal (s : State) (o : Op) (p : Bytes) (l : List (Nat × Nat × Nat)) (status : Bytes) : Option Code :=
  let e := o.sqe
  let x := s.inst o.inst
  let st := stagesOf p
  let slabOf : Nat × Nat × Nat → Slab := fun r => match s.tableIndex o.inst r.1 with | some ti => s.slab ti | none => {}
  firstCause [
    (l.any (fun r => decide (Config.slabGrains < r.2.1 + r.2.2)), 0x11),
    (l.any (fun r => (s.tableIndex o.inst r.1).isNone), 0x14),
    (st.any (fun y => (y.cipher && !x.hasCipher (stageSlot e y)) || (y.keyed && !x.hasHmac (stageSlot e y))), 0x1E),
    (st.any (fun y => decide (y.kind = 4) && !x.hasCam y.ctx), 0x1F),
    (st.any (fun y => s.stageUnusable e y), 0x11),
    (Sqe.fResume e && s.resumeWrong o.inst e status, 0x11),
    (st.any (fun y => decide (runPlen e < y.paramOff + y.paramLen)), 0x11),
    (l.any (fun r => decide (r.2.2 = 0)), 0x11),
    (l.any (fun r => decide ((slabOf r).wp < r.2.1 + r.2.2)), 0x18),
    (l.any (fun r => decide ((slabOf r).st = .empty ∨ (slabOf r).st = .retired)), 0x16),
    ((pipeExpand p).isSome && l.any (fun r => match s.tableIndex o.inst r.1 with
      | some ti => decide (descKind (s.desc ti r.2.1) ≠ 2)
      | none => false), 0x1A)]

/-- Whether a RUN may start under the limits of R223. -/
def State.runLimitOk (s : State) (inst : Nat) : Bool :=
  let live := s.ld.runs.filterMap (fun e => e.2)
  decide (live.length < Config.runsDevice ∧ (live.filter (fun r => decide (r.inst = inst))).length < s.param 0x050001 16)

/-- Whether every region a RUN needs is ready (R206). -/
def State.runReady (s : State) (o : Op) (l : List (Nat × Nat × Nat)) : Bool :=
  l.all (fun r => match s.tableIndex o.inst r.1 with | some ti => s.slabReady ti o.inst | none => true) &&
  (!toSlabRun o.sqe || (match s.slabIdx o with | some ti => s.slabReady ti o.inst | none => true))

/-- Take a reference to every slot a RUN's stages name (R352). -/
def State.takeRunKeys (s : State) (e : Sqe) (p : Bytes) : List (Nat × Nat × Bool) × State :=
  let slots := ((stagesOf p).filter (fun x => x.cipher || x.keyed)).map (fun x => (stageSlot e x, x.keyed))
  foldS (fun (a : List (Nat × Nat × Bool) × State) (k : Nat × Bool) =>
    if a.1.any (fun y => decide (y.1 = k.1 ∧ y.2.2 = k.2)) then a
    else match a.2.takeKey k.2 k.1 with
      | (some n, s) => (a.1 ++ [(k.1, n, k.2)], s)
      | (none, s) => (a.1, s)) (([] : List (Nat × Nat × Bool)), s) slots

/-- The ranges a status block holds as complete (R218, R219). -/
def doneOf (status : Bytes) (n : Nat) : List Nat :=
  let nr := fieldLe status 8 2
  (List.range n).filter (fun i => decide (i < nr) ||
    (decide (i < nr + 256) && decide (byteNat status (16 + (i - nr) / 8) / 2 ^ ((i - nr) % 8) % 2 = 1)))

/-- The valid entries of a progress table: range and DONE (R218). -/
def progressOf (b : Bytes) : List (Nat × Nat) :=
  (List.range 64).filterMap (fun i =>
    let v := fieldLe b (8 * i) 8
    if v / 4096 % 2 = 1 then some (v % 4096, v / 65536 % 2097152) else none)

/-- A RUN starts (R218, R219, R352). -/
def State.startRun (s : State) (q tag : Nat) (o : Op) (p : Bytes) (l : List (Nat × Nat × Nat)) (status ptab param : Bytes) : State :=
  let e := o.sqe
  let again := Sqe.fResume e
  let addr := fieldLe status 56 8
  let done := if again then doneOf status l.length else []
  let (keys, s) := s.takeRunKeys e p
  let len := Sqe.length e
  let r : RunSt := {
    inst := o.inst, handle := runHandle e, pipe := p, param := param, ranges := l
    todo := (List.range l.length).filter (fun i => !done.contains i), done := done
    base := if again then fieldLe status 0 8 else 0
    runs := if again then fieldLe status 14 2 + 1 else 1
    cap := if toSlabRun e = true ∧ len = 0 then none else some len
    toSlab := if toSlabRun e then s.slabIdx o else none
    skipped := if again then fieldLe status 48 4 else 0
    trunc := if again then fieldLe status 52 4 else 0
    ptab := BitVec.ofNat 64 addr
    progress := if again = true ∧ addr ≠ 0 then progressOf ptab else []
    keys := keys }
  let listOk := toSlabRun e || Sqe.fInline e || decide (len = 0)
  let s := (s.setOp q tag (some { o with started := true, listOk := listOk, waiting := none })).setRun (opKey q tag) (some r)
  (s.busy).feedRun (opKey q tag) true

/-- RUN_START: the status block, the progress table and the parameter block have been read; a RUN that its
checks refuse, or that a limit or a region holds back, does not start (R206, R218, R219, R223). -/
def execRunStart (q tag : Nat) (status ptab param : HostRead) (cqOk : Bool) (s : State) : Answer := answering cqOk s fun s =>
  match s.op q tag with
  | none => .next s
  | some o =>
    let e := o.sqe
    if Sqe.opcode e ≠ 8 ∨ o.checked = false ∨ o.started = true then .next s
    else
      let s := s.dmaRead q tag
      let sb := (hostBytes status)
      let reads := [o.rlist, status] ++ (if Sqe.fResume e = true ∧ fieldLe sb 56 8 ≠ 0 then [ptab] else []) ++
        (if runPlen e = 0 then [] else [param])
      match reads.filterMap (fun r => match r with | .fault a => some a | .ok _ => none) with
        | a :: _ => .next (s.fail true q tag 0x42 a 0)
        | [] =>
          let l := o.ranges
          if s.orderOk q tag o = false then .next s
          else match s.pipeOf o.inst (runHandle e) with
            | none => .next (s.refuse q tag 0x20)
            | some p => match s.runStartRefusal o p l sb with
              | some c => .next (s.refuse q tag c)
              | none =>
                if s.runReady o l = false then
                  .next (s.setOp q tag (some { o with waiting := match o.waiting with | some t => some t | none => some s.now }))
                else
                  let s := s.setOp q tag (some { o with waiting := none })
                  let free := match s.slabIdx o with | some ti => !toSlabRun e || s.slabFree ti o.inst false | none => true
                  if s.runLimitOk o.inst = false ∨ free = false then .next s
                  else .next (s.startRun q tag o p l sb (hostBytes ptab) (slice (hostBytes param) 0 (runPlen e)))

/-! ### The program store (R73, R243) -/

/-- Bytes of an admitted image or descriptor. -/
def Admitted.size : Admitted → Nat
  | .program b _ _ => b.length
  | .pipeline b => b.length

/-- Bytes the program store holds. -/
def State.storeUsed (s : State) : Nat :=
  s.ld.progs.foldl (fun n e => match e.2 with | some a => n + a.size | none => n) 0

/-- The lowest handle an instance has free. -/
def State.freeHandle (s : State) (inst : Nat) : Option Nat :=
  ((List.range Config.handlesPerInst).map (· + 1)).find? (fun h => (s.prog inst h).isNone)

/-- Refusal causes of PROGRAM_LOAD before the image is read. -/
def State.loadOwn (s : State) (e : Sqe) (o : Op) : Option Code :=
  if (flagsOk e && dptrOk e) = false then some 0x11
  else if (s.freeHandle o.inst).isNone ∨ Config.progStore < s.storeUsed + Sqe.length e then some 0x2E
  else none

/-- The end of a load: the report is written, the image admitted or refused (R73, R274). -/
def State.judge (s : State) (q tag : Nat) (o : Op) (len : Nat) (fs : List Finding) (a : Admitted) (w : HostWrite) : State :=
  let rlen := Sqe.field o.sqe 36 4
  let rep := findingsReport len rlen fs
  match w, decide (rep ≠ []) with
  | .fault x, true => s.fail true q tag 0x42 x 0
  | _, some_ =>
    let s := if some_ then s.auxWrite q tag (Sqe.aptr o.sqe) rep else s
    if fs.any (fun f => !f.note) then s.refuse q tag 0x21
    else match s.freeHandle o.inst with
      | none => s.refuse q tag 0x2E
      | some h =>
        let s := { s with ld := { s.ld with progs := mset none s.ld.progs (progKey o.inst h) (some a) } }
        s.succeed q tag 0x00 (BitVec.ofNat 64 h)

/-- PROGRAM_LOAD: SUBOP 0, a Pytan image (R73, R271 to R275). -/
def execProgramLoad (q tag : Nat) (image : HostRead) (w : HostWrite) (cqOk : Bool) (s : State) : Answer := answering cqOk s fun s =>
  .next (s.startCmd q tag (fun e => decide (Sqe.opcode e = 9 ∧ Sqe.subop e = 0)) (fun e o => s.loadOwn e o) true
    (fun e o =>
      let s := s.dmaRead q tag
      match image with
      | .fault a => s.fail true q tag 0x42 a 0
      | .ok b =>
        let b := slice b 0 (Sqe.length e)
        let (fs, labels, landings) := checkProgram b
        s.judge q tag o b.length fs (.program b labels landings) w))

/-- PIPELINE_DESCRIPTOR_LOAD: SUBOP 1, a pipeline descriptor (R73, R202 to R205). -/
def execPipelineDescriptorLoad (q tag : Nat) (image : HostRead) (w : HostWrite) (cqOk : Bool) (s : State) : Answer := answering cqOk s fun s =>
  .next (s.startCmd q tag (fun e => decide (Sqe.opcode e = 9 ∧ Sqe.subop e = 1)) (fun e o => s.loadOwn e o) true
    (fun e o =>
      let s := s.dmaRead q tag
      match image with
      | .fault a => s.fail true q tag 0x42 a 0
      | .ok b =>
        let b := slice b 0 (Sqe.length e)
        s.judge q tag o b.length (s.checkPipeline o.inst b) (.pipeline b) w))

/-- Whether a pipeline's PROGRAM stages use a handle. -/
def pipeUses (p : Bytes) (h : Nat) : Bool := (stagesOf p).any (fun x => x.isProgram && decide (x.handle = h))

/-- Whether a RUN, waiting ones included, a pipeline or an item uses a handle (R73). -/
def State.handleBusy (s : State) (inst h : Nat) : Bool :=
  let names := fun (x : Item) => decide (x.inst = inst ∧ x.handle = h)
  s.ld.runs.any (fun e => match e.2 with | some r => decide (r.inst = inst) && (decide (r.handle = h) || pipeUses r.pipe h) | none => false) ||
  s.hq.ops.any (fun e => match e.2 with
    | some o => o.checked && decide (Sqe.opcode o.sqe = 8 ∧ o.inst = inst ∧ runHandle o.sqe = h)
    | none => false) ||
  s.ld.progs.any (fun e => match e.2 with | some (.pipeline p) => decide (e.1 / 65536 = inst) && pipeUses p h | _ => false) ||
  s.ld.regions.any (fun e => e.2.ready.any names || e.2.timers.any names || e.2.spilled.any names) ||
  s.tiles.any (fun e => match e.2.core.item with | some x => names x | none => false)

/-- PROGRAM_DROP (R73). -/
def execProgramDrop (q tag : Nat) (cqOk : Bool) (s : State) : Answer := answering cqOk s fun s =>
  .next (s.startCmd q tag (fun e => decide (Sqe.opcode e = 0x0A))
    (fun e o =>
      let h := Sqe.field e 36 2
      if flagsOk e = false then some 0x11
      else if (s.prog o.inst h).isNone then some 0x20
      else if s.handleBusy o.inst h then some 0x2D else none)
    false
    (fun e o =>
      ({ s with ld := { s.ld with progs := mset none s.ld.progs (progKey o.inst (Sqe.field e 36 2)) none } }).succeed q tag 0x00 0))

end Sys2Proof.Machine
end

