-- ==== Sys2Proof/Machine/Dispatch.lean ====
section
/-! DEFINITION. Dispatch: one arm per command of spec/opcode_table.json, each one call of its meaning. -/

namespace Sys2Proof.Machine

/-- The effect of a command on everything but the queue of waiting commands. -/
def exec (i : Instr) (s : State) : Host.Outcome State Fault Refusal :=
  match i with
  | .sqTail q v => Sys2Proof.Machine.execSqTail q v s
  | .cqHead q v => Sys2Proof.Machine.execCqHead q v s
  | .restart q cqOk => Sys2Proof.Machine.execRestart q cqOk s
  | .flushPending q cqOk => Sys2Proof.Machine.execFlushPending q cqOk s
  | .restartTakesEffect q cqOk => Sys2Proof.Machine.execRestartTakesEffect q cqOk s
  | .enableSet => Sys2Proof.Machine.execEnableSet s
  | .enableClear => Sys2Proof.Machine.execEnableClear s
  | .shutdown => Sys2Proof.Machine.execShutdown s
  | .shutdownDone => Sys2Proof.Machine.execShutdownDone s
  | .registerWrite sp off bits v => Sys2Proof.Machine.execRegisterWrite sp off bits v s
  | .submissionFetch r rl cqOk => Sys2Proof.Machine.execSubmissionFetch r rl cqOk s
  | .descriptorListRead q tag r w cqOk => Sys2Proof.Machine.execDescriptorListRead q tag r w cqOk s
  | .hostDataArrival q tag r aux cqOk => Sys2Proof.Machine.execHostDataArrival q tag r aux cqOk s
  | .moderationWindowEnd v => Sys2Proof.Machine.execModerationWindowEnd v s
  | .vectorUnmask v => Sys2Proof.Machine.execVectorUnmask v s
  | .d3hotEntry => Sys2Proof.Machine.execD3hotEntry s
  | .d0Return cqOk => Sys2Proof.Machine.execD0Return cqOk s
  | .aspmL1Entry => Sys2Proof.Machine.execAspmL1Entry s
  | .pmeTurnOff => Sys2Proof.Machine.execPmeTurnOff s
  | .functionLevelReset => Sys2Proof.Machine.execFunctionLevelReset s
  | .queueDrainEnd q writeOk => Sys2Proof.Machine.execQueueDrainEnd q writeOk s
  | .append q tag cqOk => Sys2Proof.Machine.execAppend q tag cqOk s
  | .read q tag w cqOk => Sys2Proof.Machine.execRead q tag w cqOk s
  | .overwrite q tag cqOk => Sys2Proof.Machine.execOverwrite q tag cqOk s
  | .openSlab q tag cqOk => Sys2Proof.Machine.execOpenSlab q tag cqOk s
  | .closeSlab q tag cqOk => Sys2Proof.Machine.execCloseSlab q tag cqOk s
  | .resetSlab q tag cqOk => Sys2Proof.Machine.execResetSlab q tag cqOk s
  | .flushTail q tag cqOk => Sys2Proof.Machine.execFlushTail q tag cqOk s
  | .run q tag cqOk => Sys2Proof.Machine.execRun q tag cqOk s
  | .programLoad q tag image w cqOk => Sys2Proof.Machine.execProgramLoad q tag image w cqOk s
  | .pipelineDescriptorLoad q tag image w cqOk => Sys2Proof.Machine.execPipelineDescriptorLoad q tag image w cqOk s
  | .programDrop q tag cqOk => Sys2Proof.Machine.execProgramDrop q tag cqOk s
  | .cipherLoad q tag material cqOk => Sys2Proof.Machine.execCipherLoad q tag material cqOk s
  | .cipherZeroise q tag cqOk => Sys2Proof.Machine.execCipherZeroise q tag cqOk s
  | .hmacLoad q tag material cqOk => Sys2Proof.Machine.execHmacLoad q tag material cqOk s
  | .hmacZeroise q tag cqOk => Sys2Proof.Machine.execHmacZeroise q tag cqOk s
  | .camSearch q tag block cqOk => Sys2Proof.Machine.execCamSearch q tag block cqOk s
  | .camInsert q tag block cqOk => Sys2Proof.Machine.execCamInsert q tag block cqOk s
  | .camDelete q tag block cqOk => Sys2Proof.Machine.execCamDelete q tag block cqOk s
  | .camUpdate q tag block cqOk => Sys2Proof.Machine.execCamUpdate q tag block cqOk s
  | .camRead q tag block w cqOk => Sys2Proof.Machine.execCamRead q tag block w cqOk s
  | .camClear q tag block cqOk => Sys2Proof.Machine.execCamClear q tag block cqOk s
  | .abort q tag cqOk => Sys2Proof.Machine.execAbort q tag cqOk s
  | .instanceCreate q tag cqOk => Sys2Proof.Machine.execInstanceCreate q tag cqOk s
  | .instanceDelete q tag cqOk => Sys2Proof.Machine.execInstanceDelete q tag cqOk s
  | .instanceReset q tag cqOk => Sys2Proof.Machine.execInstanceReset q tag cqOk s
  | .instanceResetComplete inst cqOk => Sys2Proof.Machine.execInstanceResetComplete inst cqOk s
  | .instanceResetTimeout inst => Sys2Proof.Machine.execInstanceResetTimeout inst s
  | .queueCreate q tag cqOk => Sys2Proof.Machine.execQueueCreate q tag cqOk s
  | .queueDelete q tag cqOk => Sys2Proof.Machine.execQueueDelete q tag cqOk s
  | .pasidBind q tag cqOk => Sys2Proof.Machine.execPasidBind q tag cqOk s
  | .pasidUnbind q tag cqOk => Sys2Proof.Machine.execPasidUnbind q tag cqOk s
  | .keyGrant q tag cqOk => Sys2Proof.Machine.execKeyGrant q tag cqOk s
  | .camGrant q tag cqOk => Sys2Proof.Machine.execCamGrant q tag cqOk s
  | .moderate q tag cqOk => Sys2Proof.Machine.execModerate q tag cqOk s
  | .logReadErrorLog q tag w cqOk => Sys2Proof.Machine.execLogReadErrorLog q tag w cqOk s
  | .logReadHealthReport q tag w cqOk => Sys2Proof.Machine.execLogReadHealthReport q tag w cqOk s
  | .dictRead q tag w cqOk => Sys2Proof.Machine.execDictRead q tag w cqOk s
  | .dictWrite q tag value cqOk => Sys2Proof.Machine.execDictWrite q tag value cqOk s
  | .format q tag cqOk => Sys2Proof.Machine.execFormat q tag cqOk s
  | .sanitize q tag cqOk => Sys2Proof.Machine.execSanitize q tag cqOk s
  | .selfTestShort q tag cqOk => Sys2Proof.Machine.execSelfTestShort q tag cqOk s
  | .selfTestExtended q tag cqOk => Sys2Proof.Machine.execSelfTestExtended q tag cqOk s
  | .readWaitLimit q tag cqOk => Sys2Proof.Machine.execReadWaitLimit q tag cqOk s
  | .writeClosedReopen inst => Sys2Proof.Machine.execWriteClosedReopen inst s
  | .runStart q tag status ptab param cqOk => Sys2Proof.Machine.execRunStart q tag status ptab param cqOk s
  | .keyScheduleDone hmac slot cqOk => Sys2Proof.Machine.execKeyScheduleDone hmac slot cqOk s
  | .mov c x => Sys2Proof.Machine.execMov c x s
  | .add c x => Sys2Proof.Machine.execAdd c x s
  | .addc c x => Sys2Proof.Machine.execAddc c x s
  | .sub c x => Sys2Proof.Machine.execSub c x s
  | .subc c x => Sys2Proof.Machine.execSubc c x s
  | .neg c x => Sys2Proof.Machine.execNeg c x s
  | .and c x => Sys2Proof.Machine.execAnd c x s
  | .or c x => Sys2Proof.Machine.execOr c x s
  | .xor c x => Sys2Proof.Machine.execXor c x s
  | .andn c x => Sys2Proof.Machine.execAndn c x s
  | .not c x => Sys2Proof.Machine.execNot c x s
  | .shl c x => Sys2Proof.Machine.execShl c x s
  | .shr c x => Sys2Proof.Machine.execShr c x s
  | .sar c x => Sys2Proof.Machine.execSar c x s
  | .rol c x => Sys2Proof.Machine.execRol c x s
  | .ror c x => Sys2Proof.Machine.execRor c x s
  | .setb c x => Sys2Proof.Machine.execSetb c x s
  | .clrb c x => Sys2Proof.Machine.execClrb c x s
  | .flpb c x => Sys2Proof.Machine.execFlpb c x s
  | .fldu c x => Sys2Proof.Machine.execFldu c x s
  | .flds c x => Sys2Proof.Machine.execFlds c x s
  | .widen c x => Sys2Proof.Machine.execWiden c x s
  | .popc c x => Sys2Proof.Machine.execPopc c x s
  | .clz c x => Sys2Proof.Machine.execClz c x s
  | .mul c x => Sys2Proof.Machine.execMul c x s
  | .mulh c x => Sys2Proof.Machine.execMulh c x s
  | .min c x => Sys2Proof.Machine.execMin c x s
  | .max c x => Sys2Proof.Machine.execMax c x s
  | .adr c x => Sys2Proof.Machine.execAdr c x s
  | .jmp c x => Sys2Proof.Machine.execJmp c x s
  | .call c x => Sys2Proof.Machine.execCall c x s
  | .skip c x => Sys2Proof.Machine.execSkip c x s
  | .skipbit c x => Sys2Proof.Machine.execSkipbit c x s
  | .rpt c x => Sys2Proof.Machine.execRpt c x s
  | .nop c x => Sys2Proof.Machine.execNop c x s
  | .done c x => Sys2Proof.Machine.execDone c x s
  | .doneTakesEffect c w cqOk => Sys2Proof.Machine.execDoneTakesEffect c w cqOk s
  | .scopy c x => Sys2Proof.Machine.execScopy c x s
  | .scomp c x => Sys2Proof.Machine.execScomp c x s
  | .sseek c x => Sys2Proof.Machine.execSseek c x s
  | .sfill c x => Sys2Proof.Machine.execSfill c x s
  | .smap c x => Sys2Proof.Machine.execSmap c x s
  | .scrc c x => Sys2Proof.Machine.execScrc c x s
  | .wfe c x => Sys2Proof.Machine.execWfe c x s
  | .wfeWake c => Sys2Proof.Machine.execWfeWake c s
  | .sev c x => Sys2Proof.Machine.execSev c x s
  | .waitt c x => Sys2Proof.Machine.execWaitt c x s
  | .waittWake c => Sys2Proof.Machine.execWaittWake c s
  | .fence c x => Sys2Proof.Machine.execFence c x s
  | .fenceDone c => Sys2Proof.Machine.execFenceDone c s
  | .post c x => Sys2Proof.Machine.execPost c x s
  | .postAccepted c => Sys2Proof.Machine.execPostAccepted c s
  | .eng c x => Sys2Proof.Machine.execEng c x s
  | .cams c x => Sys2Proof.Machine.execCams c x s
  | .watchdog c cqOk => Sys2Proof.Machine.execWatchdog c cqOk s
  | .itemDispatch c cqOk => Sys2Proof.Machine.execItemDispatch c cqOk s
  | .stewardItemSubmit d => Sys2Proof.Machine.execStewardItemSubmit d s
  | .timerTick p => Sys2Proof.Machine.execTimerTick p s
  | .backgroundRaise p => Sys2Proof.Machine.execBackgroundRaise p s
  | .stealDelayExpiry p => Sys2Proof.Machine.execStealDelayExpiry p s
  | .stockpotBringBack p => Sys2Proof.Machine.execStockpotBringBack p s
  | .bankOwnerWrite t b v w => Sys2Proof.Machine.execBankOwnerWrite t b v w s
  | .bankHandover t b => Sys2Proof.Machine.execBankHandover t b s
  | .bankZeroingDone t b => Sys2Proof.Machine.execBankZeroingDone t b s
  | .tlEvpWrite t v => Sys2Proof.Machine.execTlEvpWrite t v s
  | .remapEntryWrite t b n v => Sys2Proof.Machine.execRemapEntryWrite t b n v s
  | .tlRetWrite t v => Sys2Proof.Machine.execTlRetWrite t v s
  | .retentionEntry t g => Sys2Proof.Machine.execRetentionEntry t g s
  | .retentionWakeDone t g => Sys2Proof.Machine.execRetentionWakeDone t g s
  | .conflictCounterClear t v => Sys2Proof.Machine.execConflictCounterClear t v s
  | .collideClear t b v => Sys2Proof.Machine.execCollideClear t b v s
  | .mergeEntryWrite t b => Sys2Proof.Machine.execMergeEntryWrite t b s
  | .hardFaultCheck t b again => Sys2Proof.Machine.execHardFaultCheck t b again s
  | .scrubRead t b upset staged => Sys2Proof.Machine.execScrubRead t b upset staged s
  | .bucketLeak => Sys2Proof.Machine.execBucketLeak s
  | .mapStoreScrub synd => Sys2Proof.Machine.execMapStoreScrub synd s
  | .reducerJobEnd t cqOk => Sys2Proof.Machine.execReducerJobEnd t cqOk s
  | .expanderJobEnd t cqOk => Sys2Proof.Machine.execExpanderJobEnd t cqOk s
  | .cipherJobEnd t lane cqOk => Sys2Proof.Machine.execCipherJobEnd t lane cqOk s
  | .digestJobEnd t lane wordA wordB cqOk => Sys2Proof.Machine.execDigestJobEnd t lane wordA wordB cqOk s
  | .cipherSegmentBoundary t lane checkFails => Sys2Proof.Machine.execCipherSegmentBoundary t lane checkFails s
  | .digestSegmentBoundary t lane => Sys2Proof.Machine.execDigestSegmentBoundary t lane s
  | .decoderKnownAnswerTest soft n pass => Sys2Proof.Machine.execDecoderKnownAnswerTest soft n pass s
  | .laneKnownAnswerTest t lane pass => Sys2Proof.Machine.execLaneKnownAnswerTest t lane pass s
  | .searchStart => Sys2Proof.Machine.execSearchStart s
  | .searchResponse w cqOk => Sys2Proof.Machine.execSearchResponse w cqOk s
  | .camMove cqOk => Sys2Proof.Machine.execCamMove cqOk s
  | .camParityScan failing => Sys2Proof.Machine.execCamParityScan failing s
  | .camSegmentPlacingDone seg => Sys2Proof.Machine.execCamSegmentPlacingDone seg s
  | .dramReadReturn ch sub asked beats => Sys2Proof.Machine.execDramReadReturn ch sub asked beats s
  | .dramRefresh ch sub rank => Sys2Proof.Machine.execDramRefresh ch sub rank s
  | .mr4Read ch sub rank rate temp => Sys2Proof.Machine.execMr4Read ch sub rank rate temp s
  | .zqCalibration ch sub => Sys2Proof.Machine.execZqCalibration ch sub s
  | .rowIdleClose ch sub rank bank => Sys2Proof.Machine.execRowIdleClose ch sub rank bank s
  | .dramScrub ch sub rank bank row col beats => Sys2Proof.Machine.execDramScrub ch sub rank bank row col beats s
  | .dcRetrainWrite ch v => Sys2Proof.Machine.execDcRetrainWrite ch v s
  | .dramRetrainDone ch sub ok => Sys2Proof.Machine.execDramRetrainDone ch sub ok s
  | .rdata l line refusals cqOk => Sys2Proof.Machine.execRdata l line refusals cqOk s
  | .rsp l line => Sys2Proof.Machine.execRsp l line s
  | .ack l w => Sys2Proof.Machine.execAck l w s
  | .nak l w => Sys2Proof.Machine.execNak l w s
  | .crd l w => Sys2Proof.Machine.execCrd l w s
  | .ts1 l w => Sys2Proof.Machine.execTs1 l w s
  | .ts2 l w => Sys2Proof.Machine.execTs2 l w s
  | .stby l w => Sys2Proof.Machine.execStby l w s
  | .wake l w => Sys2Proof.Machine.execWake l w s
  | .sleep l w => Sys2Proof.Machine.execSleep l w s
  | .blockLock l line => Sys2Proof.Machine.execBlockLock l line s
  | .blockHuntTimeout l => Sys2Proof.Machine.execBlockHuntTimeout l s
  | .lossOfLock l shs => Sys2Proof.Machine.execLossOfLock l shs s
  | .replayTimeout l => Sys2Proof.Machine.execReplayTimeout l s
  | .creditStall l vc => Sys2Proof.Machine.execCreditStall l vc s
  | .nakHoldoffEnd l => Sys2Proof.Machine.execNakHoldoffEnd l s
  | .signalDetect l => Sys2Proof.Machine.execSignalDetect l s
  | .detectTimeout l => Sys2Proof.Machine.execDetectTimeout l s
  | .equalisationPreset l quality => Sys2Proof.Machine.execEqualisationPreset l quality s
  | .trainingLimit l => Sys2Proof.Machine.execTrainingLimit l s
  | .enumerationWave => Sys2Proof.Machine.execEnumerationWave s
  | .recoveryTimeout l => Sys2Proof.Machine.execRecoveryTimeout l s
  | .fullRetrainFailure l => Sys2Proof.Machine.execFullRetrainFailure l s
  | .linkDegraded l => Sys2Proof.Machine.execLinkDegraded l s
  | .readPageResponse l rec erased cqOk => Sys2Proof.Machine.execReadPageResponse l rec erased cqOk s
  | .programResponse l rec cqOk => Sys2Proof.Machine.execProgramResponse l rec cqOk s
  | .eraseResponse l rec cqOk => Sys2Proof.Machine.execEraseResponse l rec cqOk s
  | .statusResponse l rec => Sys2Proof.Machine.execStatusResponse l rec s
  | .getFeatureResponse l rec => Sys2Proof.Machine.execGetFeatureResponse l rec s
  | .setFeatureResponse l rec => Sys2Proof.Machine.execSetFeatureResponse l rec s
  | .suspendResponse l rec => Sys2Proof.Machine.execSuspendResponse l rec s
  | .resumeResponse l rec => Sys2Proof.Machine.execResumeResponse l rec s
  | .readPilotResponse l rec up down => Sys2Proof.Machine.execReadPilotResponse l rec up down s
  | .descriptorResponse l rec d => Sys2Proof.Machine.execDescriptorResponse l rec d s
  | .dieNoAnswer l die cqOk => Sys2Proof.Machine.execDieNoAnswer l die cqOk s
  | .suspendWait l die => Sys2Proof.Machine.execSuspendWait l die s
  | .suspendLimit l die => Sys2Proof.Machine.execSuspendLimit l die s
  | .codewordDecode l cid r w cqOk => Sys2Proof.Machine.execCodewordDecode l cid r w cqOk s
  | .parityRebuild l cid w cqOk => Sys2Proof.Machine.execParityRebuild l cid w cqOk s
  | .pilotSweep => Sys2Proof.Machine.execPilotSweep s
  | .pilotRewrite l die plane => Sys2Proof.Machine.execPilotRewrite l die plane s
  | .bandAgeRefresh p band => Sys2Proof.Machine.execBandAgeRefresh p band s
  | .verifyRead p band cqOk => Sys2Proof.Machine.execVerifyRead p band cqOk s
  | .relocationStart slab => Sys2Proof.Machine.execRelocationStart slab s
  | .foldRow p band => Sys2Proof.Machine.execFoldRow p band s
  | .journalInterval => Sys2Proof.Machine.execJournalInterval s
  | .journalBufferThreshold => Sys2Proof.Machine.execJournalBufferThreshold s
  | .journalPagePersisted cqOk => Sys2Proof.Machine.execJournalPagePersisted cqOk s
  | .checkpointTimer => Sys2Proof.Machine.execCheckpointTimer s
  | .checkpointJournalVolume => Sys2Proof.Machine.execCheckpointJournalVolume s
  | .checkpointDone cqOk => Sys2Proof.Machine.execCheckpointDone cqOk s
  | .powerFailAsserted => Sys2Proof.Machine.execPowerFailAsserted s
  | .powerFailReturn => Sys2Proof.Machine.execPowerFailReturn s
  | .powerOn => Sys2Proof.Machine.execPowerOn s
  | .perstAsserted => Sys2Proof.Machine.execPerstAsserted s
  | .perstDeasserted nodeId bootSel => Sys2Proof.Machine.execPerstDeasserted nodeId bootSel s
  | .devRstAsserted => Sys2Proof.Machine.execDevRstAsserted s
  | .devRstDeasserted nodeId bootSel => Sys2Proof.Machine.execDevRstDeasserted nodeId bootSel s
  | .bootImageLoaded img => Sys2Proof.Machine.execBootImageLoaded img s
  | .cfgReady => Sys2Proof.Machine.execCfgReady s
  | .adminReady => Sys2Proof.Machine.execAdminReady s
  | .dramReady gib results => Sys2Proof.Machine.execDramReady gib results s
  | .regionReady p => Sys2Proof.Machine.execRegionReady p s
  | .recoveryStart scan => Sys2Proof.Machine.execRecoveryStart scan s
  | .mapReady => Sys2Proof.Machine.execMapReady s
  | .wallTimeDeadline => Sys2Proof.Machine.execWallTimeDeadline s
  | .configSaveDone cqOk => Sys2Proof.Machine.execConfigSaveDone cqOk s
  | .kdpRead port frame => Sys2Proof.Machine.execKdpRead port frame s
  | .kdpWrite port frame => Sys2Proof.Machine.execKdpWrite port frame s
  | .kdpBread port frame => Sys2Proof.Machine.execKdpBread port frame s
  | .kdpBwrite port frame readBackOk => Sys2Proof.Machine.execKdpBwrite port frame readBackOk s
  | .kdpBwriteTimeout role => Sys2Proof.Machine.execKdpBwriteTimeout role s
  | .notify port => Sys2Proof.Machine.execNotify port s
  | .p1Entry => Sys2Proof.Machine.execP1Entry s
  | .p2Entry => Sys2Proof.Machine.execP2Entry s
  | .p3Entry => Sys2Proof.Machine.execP3Entry s
  | .powerStateExitDone => Sys2Proof.Machine.execPowerStateExitDone s
  | .tileClockDrop t => Sys2Proof.Machine.execTileClockDrop t s
  | .tileClockRaise t => Sys2Proof.Machine.execTileClockRaise t s
  | .coreClockStop c => Sys2Proof.Machine.execCoreClockStop c s
  | .governorEstimate mW => Sys2Proof.Machine.execGovernorEstimate mW s
  | .thermalSample temps => Sys2Proof.Machine.execThermalSample temps s
  | .intDoorbell ctl v => Sys2Proof.Machine.execIntDoorbell ctl v s
  | .deliveryCommit ctl src => Sys2Proof.Machine.execDeliveryCommit ctl src s
  | .intCmask ctl v => Sys2Proof.Machine.execIntCmask ctl v s
  | .intAck ctl v => Sys2Proof.Machine.execIntAck ctl v s
  | .lock => Sys2Proof.Machine.execLock s
  | .heartbeatMissed t cqOk => Sys2Proof.Machine.execHeartbeatMissed t cqOk s
  | .tileRestart t ok => Sys2Proof.Machine.execTileRestart t ok s
  | .tileRestartDone t => Sys2Proof.Machine.execTileRestartDone t s
  | .regionFault p cause cqOk => Sys2Proof.Machine.execRegionFault p cause cqOk s
  | .regionRestartDone p ok => Sys2Proof.Machine.execRegionRestartDone p ok s
  | .chipFault c cqOk => Sys2Proof.Machine.execChipFault c cqOk s
  | .ledgerCheck quantity index held => Sys2Proof.Machine.execLedgerCheck quantity index held s
  | .powerLoss => Sys2Proof.Machine.execPowerLoss s
  | .tileParityError t u => Sys2Proof.Machine.execTileParityError t u s
  | .dqsOscillatorDrift ch sub drift => Sys2Proof.Machine.execDqsOscillatorDrift ch sub drift s
  | .pcieLinkStateChange up => Sys2Proof.Machine.execPcieLinkStateChange up s
  | .atsInvalidate => Sys2Proof.Machine.execAtsInvalidate s

end Sys2Proof.Machine
end

