-- ==== Sys2Proof/WellFormed.lean ====
section
/-! DEFINITION. The commands whose operands name parts that the device has.

One check per operand that names a part: queues, tags, vectors and instances (02), tiles, links, regions, banks and
lanes (01, 12, 13, 14, 15), dies, bands and planes (07, R94, R178), DRAM subchannels, banks and rows (17), ports and
roles (21).  Operands that carry what the outside world answers take any value. -/

namespace Sys2Proof

/-- Every operand of the command that names a part of the device names one that exists. -/
def wellFormed : Instr → Bool
  | .sqTail q _ => decide (q < 4096)
  | .cqHead q _ => decide (q < 4096)
  | .restart q _ => decide (q < 4096)
  | .flushPending q _ => decide (q < 4096)
  | .restartTakesEffect q _ => decide (q < 4096)
  | .enableSet => true
  | .enableClear => true
  | .shutdown => true
  | .shutdownDone => true
  | .registerWrite _ _ bits _ => decide (bits = 8 ∨ bits = 16 ∨ bits = 32 ∨ bits = 64)
  | .submissionFetch _ _ _ => true
  | .descriptorListRead q tag _ _ _ => decide (q < 4096) && decide (tag < 32)
  | .hostDataArrival q tag _ _ _ => decide (q < 4096) && decide (tag < 32)
  | .moderationWindowEnd v => decide (v < 2048)
  | .vectorUnmask v => decide (v < 2048)
  | .d3hotEntry => true
  | .d0Return _ => true
  | .aspmL1Entry => true
  | .pmeTurnOff => true
  | .functionLevelReset => true
  | .queueDrainEnd q _ => decide (q < 4096)
  | .append q tag _ => decide (q < 4096) && decide (tag < 32)
  | .read q tag _ _ => decide (q < 4096) && decide (tag < 32)
  | .overwrite q tag _ => decide (q < 4096) && decide (tag < 32)
  | .openSlab q tag _ => decide (q < 4096) && decide (tag < 32)
  | .closeSlab q tag _ => decide (q < 4096) && decide (tag < 32)
  | .resetSlab q tag _ => decide (q < 4096) && decide (tag < 32)
  | .flushTail q tag _ => decide (q < 4096) && decide (tag < 32)
  | .run q tag _ => decide (q < 4096) && decide (tag < 32)
  | .programLoad q tag _ _ _ => decide (q < 4096) && decide (tag < 32)
  | .pipelineDescriptorLoad q tag _ _ _ => decide (q < 4096) && decide (tag < 32)
  | .programDrop q tag _ => decide (q < 4096) && decide (tag < 32)
  | .cipherLoad q tag _ _ => decide (q < 4096) && decide (tag < 32)
  | .cipherZeroise q tag _ => decide (q < 4096) && decide (tag < 32)
  | .hmacLoad q tag _ _ => decide (q < 4096) && decide (tag < 32)
  | .hmacZeroise q tag _ => decide (q < 4096) && decide (tag < 32)
  | .camSearch q tag _ _ => decide (q < 4096) && decide (tag < 32)
  | .camInsert q tag _ _ => decide (q < 4096) && decide (tag < 32)
  | .camDelete q tag _ _ => decide (q < 4096) && decide (tag < 32)
  | .camUpdate q tag _ _ => decide (q < 4096) && decide (tag < 32)
  | .camRead q tag _ _ _ => decide (q < 4096) && decide (tag < 32)
  | .camClear q tag _ _ => decide (q < 4096) && decide (tag < 32)
  | .abort q tag _ => decide (q < 4096) && decide (tag < 32)
  | .instanceCreate q tag _ => decide (q < 4096) && decide (tag < 32)
  | .instanceDelete q tag _ => decide (q < 4096) && decide (tag < 32)
  | .instanceReset q tag _ => decide (q < 4096) && decide (tag < 32)
  | .instanceResetComplete inst _ => decide (inst < 256)
  | .instanceResetTimeout inst => decide (inst < 256)
  | .queueCreate q tag _ => decide (q < 4096) && decide (tag < 32)
  | .queueDelete q tag _ => decide (q < 4096) && decide (tag < 32)
  | .pasidBind q tag _ => decide (q < 4096) && decide (tag < 32)
  | .pasidUnbind q tag _ => decide (q < 4096) && decide (tag < 32)
  | .keyGrant q tag _ => decide (q < 4096) && decide (tag < 32)
  | .camGrant q tag _ => decide (q < 4096) && decide (tag < 32)
  | .moderate q tag _ => decide (q < 4096) && decide (tag < 32)
  | .logReadErrorLog q tag _ _ => decide (q < 4096) && decide (tag < 32)
  | .logReadHealthReport q tag _ _ => decide (q < 4096) && decide (tag < 32)
  | .dictRead q tag _ _ => decide (q < 4096) && decide (tag < 32)
  | .dictWrite q tag _ _ => decide (q < 4096) && decide (tag < 32)
  | .format q tag _ => decide (q < 4096) && decide (tag < 32)
  | .sanitize q tag _ => decide (q < 4096) && decide (tag < 32)
  | .selfTestShort q tag _ => decide (q < 4096) && decide (tag < 32)
  | .selfTestExtended q tag _ => decide (q < 4096) && decide (tag < 32)
  | .readWaitLimit q tag _ => decide (q < 4096) && decide (tag < 32)
  | .writeClosedReopen inst => decide (inst < 256)
  | .runStart q tag _ _ _ _ => decide (q < 4096) && decide (tag < 32)
  | .keyScheduleDone hmac slot _ => decide (if hmac then slot < 256 else slot < 4096)
  | .mov c _ => decide (c < 64)
  | .add c _ => decide (c < 64)
  | .addc c _ => decide (c < 64)
  | .sub c _ => decide (c < 64)
  | .subc c _ => decide (c < 64)
  | .neg c _ => decide (c < 64)
  | .and c _ => decide (c < 64)
  | .or c _ => decide (c < 64)
  | .xor c _ => decide (c < 64)
  | .andn c _ => decide (c < 64)
  | .not c _ => decide (c < 64)
  | .shl c _ => decide (c < 64)
  | .shr c _ => decide (c < 64)
  | .sar c _ => decide (c < 64)
  | .rol c _ => decide (c < 64)
  | .ror c _ => decide (c < 64)
  | .setb c _ => decide (c < 64)
  | .clrb c _ => decide (c < 64)
  | .flpb c _ => decide (c < 64)
  | .fldu c _ => decide (c < 64)
  | .flds c _ => decide (c < 64)
  | .widen c _ => decide (c < 64)
  | .popc c _ => decide (c < 64)
  | .clz c _ => decide (c < 64)
  | .mul c _ => decide (c < 64)
  | .mulh c _ => decide (c < 64)
  | .min c _ => decide (c < 64)
  | .max c _ => decide (c < 64)
  | .adr c _ => decide (c < 64)
  | .jmp c _ => decide (c < 64)
  | .call c _ => decide (c < 64)
  | .skip c _ => decide (c < 64)
  | .skipbit c _ => decide (c < 64)
  | .rpt c _ => decide (c < 64)
  | .nop c _ => decide (c < 64)
  | .done c _ => decide (c < 64)
  | .doneTakesEffect c _ _ => decide (c < 64)
  | .scopy c _ => decide (c < 64)
  | .scomp c _ => decide (c < 64)
  | .sseek c _ => decide (c < 64)
  | .sfill c _ => decide (c < 64)
  | .smap c _ => decide (c < 64)
  | .scrc c _ => decide (c < 64)
  | .wfe c _ => decide (c < 64)
  | .wfeWake c => decide (c < 64)
  | .sev c _ => decide (c < 64)
  | .waitt c _ => decide (c < 64)
  | .waittWake c => decide (c < 64)
  | .fence c _ => decide (c < 64)
  | .fenceDone c => decide (c < 64)
  | .post c _ => decide (c < 64)
  | .postAccepted c => decide (c < 64)
  | .eng c _ => decide (c < 64)
  | .cams c _ => decide (c < 64)
  | .watchdog c _ => decide (c < 64)
  | .itemDispatch c _ => decide (c < 64)
  | .stewardItemSubmit _ => true
  | .timerTick p => decide (p < 8)
  | .backgroundRaise p => decide (p < 8)
  | .stealDelayExpiry p => decide (p < 8)
  | .stockpotBringBack p => decide (p < 8)
  | .bankOwnerWrite t b _ _ => decide (t < 64) && decide (b < 16)
  | .bankHandover t b => decide (t < 64) && decide (b < 16)
  | .bankZeroingDone t b => decide (t < 64) && decide (b < 16)
  | .tlEvpWrite t _ => decide (t < 64)
  | .remapEntryWrite t b n _ => decide (t < 64) && decide (b < 16) && decide (n < 4)
  | .tlRetWrite t _ => decide (t < 64)
  | .retentionEntry t g => decide (t < 64) && decide (g < 4)
  | .retentionWakeDone t g => decide (t < 64) && decide (g < 4)
  | .conflictCounterClear t _ => decide (t < 64)
  | .collideClear t b _ => decide (t < 64) && decide (b < 16)
  | .mergeEntryWrite t b => decide (t < 64) && decide (b < 16)
  | .hardFaultCheck t b _ => decide (t < 64) && decide (b < 16)
  | .scrubRead t b _ _ => decide (t < 64) && decide (b < 16)
  | .bucketLeak => true
  | .mapStoreScrub _ => true
  | .reducerJobEnd t _ => decide (t < 64)
  | .expanderJobEnd t _ => decide (t < 64)
  | .cipherJobEnd t lane _ => decide (t < 64) && decide (lane < 4)
  | .digestJobEnd t lane _ _ _ => decide (t < 64) && decide (lane < 2)
  | .cipherSegmentBoundary t lane _ => decide (t < 64) && decide (lane < 4)
  | .digestSegmentBoundary t lane => decide (t < 64) && decide (lane < 2)
  | .decoderKnownAnswerTest soft n _ => decide (if soft then n < 64 else n < 512)
  | .laneKnownAnswerTest t l _ => decide (t < 64) && (match l with | .digest d => decide (d < 2) | _ => true)
  | .searchStart => true
  | .searchResponse _ _ => true
  | .camMove _ => true
  | .camParityScan _ => true
  | .camSegmentPlacingDone seg => decide (seg < 16)
  | .dramReadReturn ch sub asked beats => decide (ch < 4) && decide (sub < 2) && decide (beats.length = 16) &&
    asked.all (fun q => decide (q.rank < 2) && decide (q.bank < 32) && decide (q.row < 131072) && decide (q.col < 2048))
  | .dramRefresh ch sub rank => decide (ch < 4) && decide (sub < 2) && decide (rank < 2)
  | .mr4Read ch sub rank _ _ => decide (ch < 4) && decide (sub < 2) && decide (rank < 2)
  | .zqCalibration ch sub => decide (ch < 4) && decide (sub < 2)
  | .rowIdleClose ch sub rank bank => decide (ch < 4) && decide (sub < 2) && decide (rank < 2) && decide (bank < 32)
  | .dramScrub ch sub rank bank row col beats =>
    decide (ch < 4) && decide (sub < 2) && decide (rank < 2) && decide (bank < 32) && decide (row < 131072) &&
    decide (col < 2048) && decide (beats.length = 16)
  | .dcRetrainWrite ch _ => decide (ch < 4)
  | .dramRetrainDone ch sub _ => decide (ch < 4) && decide (sub < 2)
  | .rdata l _ _ _ => decide (l < 512)
  | .rsp l _ => decide (l < 512)
  | .ack l _ => decide (l < 512)
  | .nak l _ => decide (l < 512)
  | .crd l _ => decide (l < 512)
  | .ts1 l _ => decide (l < 512)
  | .ts2 l _ => decide (l < 512)
  | .stby l _ => decide (l < 512)
  | .wake l _ => decide (l < 512)
  | .sleep l _ => decide (l < 512)
  | .blockLock l _ => decide (l < 512)
  | .blockHuntTimeout l => decide (l < 512)
  | .lossOfLock l _ => decide (l < 512)
  | .replayTimeout l => decide (l < 512)
  | .creditStall l vc => decide (l < 512) && decide (vc < 3)
  | .nakHoldoffEnd l => decide (l < 512)
  | .signalDetect l => decide (l < 512)
  | .detectTimeout l => decide (l < 512)
  | .equalisationPreset l _ => decide (l < 512)
  | .trainingLimit l => decide (l < 512)
  | .enumerationWave => true
  | .recoveryTimeout l => decide (l < 512)
  | .fullRetrainFailure l => decide (l < 512)
  | .linkDegraded l => decide (l < 512)
  | .readPageResponse l rec _ _ => decide (l < 512) && decide (rec.extractLsb' 0 16 < 256)
  | .programResponse l rec _ => decide (l < 512) && decide (rec.extractLsb' 0 16 < 256)
  | .eraseResponse l rec _ => decide (l < 512) && decide (rec.extractLsb' 0 16 < 256)
  | .statusResponse l rec => decide (l < 512) && decide (rec.extractLsb' 0 16 < 256)
  | .getFeatureResponse l rec => decide (l < 512) && decide (rec.extractLsb' 0 16 < 256)
  | .setFeatureResponse l rec => decide (l < 512) && decide (rec.extractLsb' 0 16 < 256)
  | .suspendResponse l rec => decide (l < 512) && decide (rec.extractLsb' 0 16 < 256)
  | .resumeResponse l rec => decide (l < 512) && decide (rec.extractLsb' 0 16 < 256)
  | .readPilotResponse l rec _ _ => decide (l < 512) && decide (rec.extractLsb' 0 16 < 256)
  | .descriptorResponse l rec _ => decide (l < 512) && decide (rec.extractLsb' 0 16 < 256)
  | .dieNoAnswer l die _ => decide (l < 512) && decide (die < 16)
  | .suspendWait l die => decide (l < 512) && decide (die < 16)
  | .suspendLimit l die => decide (l < 512) && decide (die < 16)
  | .codewordDecode l cid _ _ _ => decide (l < 512) && decide (cid < 256)
  | .parityRebuild l _ _ _ => decide (l < 512)
  | .pilotSweep => true
  | .pilotRewrite l die plane => decide (l < 512) && decide (die < 16) && decide (plane < 4)
  | .bandAgeRefresh p band => decide (p < 8) && decide (band < 524160)
  | .verifyRead p band _ => decide (p < 8) && decide (band < 524160)
  | .relocationStart slab => decide (slab < 2097152)
  | .foldRow p band => decide (p < 8) && decide (band < 524160)
  | .journalInterval => true
  | .journalBufferThreshold => true
  | .journalPagePersisted _ => true
  | .checkpointTimer => true
  | .checkpointJournalVolume => true
  | .checkpointDone _ => true
  | .powerFailAsserted => true
  | .powerFailReturn => true
  | .powerOn => true
  | .perstAsserted => true
  | .perstDeasserted _ _ => true
  | .devRstAsserted => true
  | .devRstDeasserted _ _ => true
  | .bootImageLoaded _ => true
  | .cfgReady => true
  | .adminReady => true
  | .dramReady _ _ => true
  | .regionReady p => decide (p < 8)
  | .recoveryStart _ => true
  | .mapReady => true
  | .wallTimeDeadline => true
  | .configSaveDone _ => true
  | .kdpRead port _ => decide (port < 2)
  | .kdpWrite port _ => decide (port < 2)
  | .kdpBread port _ => decide (port < 2)
  | .kdpBwrite port _ _ => decide (port < 2)
  | .kdpBwriteTimeout role => decide (role < 4)
  | .notify port => decide (port < 2)
  | .p1Entry => true
  | .p2Entry => true
  | .p3Entry => true
  | .powerStateExitDone => true
  | .tileClockDrop t => decide (t < 64)
  | .tileClockRaise t => decide (t < 64)
  | .coreClockStop c => decide (c < 64)
  | .governorEstimate _ => true
  | .thermalSample _ => true
  | .intDoorbell ctl _ => decide (ctl ≤ 64)
  | .deliveryCommit ctl src => decide (ctl ≤ 64) && decide (src < 4096)
  | .intCmask ctl _ => decide (ctl ≤ 64)
  | .intAck ctl _ => decide (ctl ≤ 64)
  | .lock => true
  | .heartbeatMissed t _ => decide (t < 64)
  | .tileRestart t _ => decide (t < 64)
  | .tileRestartDone t => decide (t < 64)
  | .regionFault p _ _ => decide (p < 8)
  | .regionRestartDone p _ => decide (p < 8)
  | .chipFault _ _ => true
  | .ledgerCheck _ _ _ => true
  | .powerLoss => true
  | .tileParityError t _ => decide (t < 64)
  | .dqsOscillatorDrift ch sub _ => decide (ch < 4) && decide (sub < 2)
  | .pcieLinkStateChange _ => true
  | .atsInvalidate => true

end Sys2Proof
end

