-- ==== Sys2Proof/Safety.lean ====
section
/-! DEFINITION. The terms in which statements about the AZ512 are made: when a command completes, what it means that a
completion was written or a command may start, and what the model holds in every safe state. -/

namespace Sys2Proof.Machine

/-- Command `i` at state `s` answers a next state, and `p` holds of it. -/
def Completes (i : Instr) (s : State) (p : State → Prop) : Prop := ∃ t, exec i s = .next t ∧ p t

/-- The fetched command `o` of queue `q` and tag `tag` may start: it has not started, nothing earlier holds it back
(R75), and none of the causes of R524 that are common to every command refuses it. -/
abbrev Startable (s : State) (q tag : Nat) (o : Op) : Prop :=
  s.op q tag = some o ∧ o.started = false ∧ s.orderOk q tag o = true ∧ s.commonRefusal q o.sqe = none

/-- The data that the command's descriptor list describes is at hand: the list has been read whole, or the command, which may
start and which its own causes `own` do not refuse, gives its data INLINE (R59, R60). -/
abbrev DataHere (s : State) (q tag : Nat) (o : Op) (own : Option Code) : Prop :=
  (s.op q tag = some o ∧ o.started = true ∧ o.listOk = true) ∨
  (Startable s q tag o ∧ Sqe.fInline o.sqe = true ∧ own = none)

/-- The queue takes completions in the ordinary way: ACTIVE, the function not in D3hot (R31, R54). -/
abbrev Posting (s : State) (q : Nat) : Prop := (s.queue q).st = .active ∧ s.hq.pcie ≠ .d3hot

/-- The write of the 16-byte completion entry that the next command of queue `q` gets, as the queue stands: at its completion
tail, under the PASID of its instance (R31, R45). -/
def nextEntry (s : State) (q tag : Nat) (cls : CplClass) (code : Code) (result : DWord) (slack : Bool) : Out :=
  .cpl q (s.queue q).cqTail (s.queue q).pasid ((s.queue q).entryFor tag cls code result slack).bytes

/-- Between `s` and `t` the command of queue `q` and tag `tag` ended: its completion entry was written at the completion
tail, the tail advanced, and the command left the operation table (R31, R43). -/
abbrev Ended (s t : State) (q tag : Nat) (cls : CplClass) (code : Code) (result : DWord) : Prop :=
  nextEntry s q tag cls code result false ∈ t.out ∧ (t.queue q).cqTail = (s.queue q).cqTail + 1 ∧ t.op q tag = none

/-- No write, row program, erase, relocation, repair, verify-read or RUN waits for anything, no slab or journal band is to be
taken or given up, and no work of the custodian runs beside its commands. -/
abbrev Still (s : State) : Prop :=
  s.staged.all (fun e => e.issued) = true ∧
  s.st.bands.all (fun e => decide (e.2.checking = [] ∧ (e.2.st ≠ .erasing ∨ e.2.erasePend ≠ []))) = true ∧
  s.st.emptying = [] ∧ s.st.verifies.all (fun e => e.2.isNone) = true ∧ s.st.parityAgain = [] ∧ s.st.slcAgain = [] ∧
  s.st.repairs = [] ∧ s.st.slcs = [] ∧ s.st.moves = [] ∧ s.ld.runs = [] ∧
  s.hq.ops.all (fun e => match e.2 with | some o => !(o.started && isWrite o.sqe) | none => true) = true ∧
  (s.spareReserve : Int) ≤ s.sparePool ∧ s.hq.insts.all (fun e => decide (e.2.st ≠ .writeClosed)) = true ∧
  s.st.formatting = false ∧ s.st.sanitizing = false ∧ s.stew.selfTest = none ∧ s.pw.entering ≠ some .p2

/-- No journal page is being programmed, nor waits to be programmed again. -/
abbrev JournalStill (s : State) : Prop := s.jr.flying = [] ∧ s.jr.bandA.again = [] ∧ s.jr.bandB.again = []

/-- Nothing waits for anything, so nothing goes on when a command ends. -/
abbrev Quiet (s : State) : Prop := Still s ∧ JournalStill s

/-- Nothing waits on link `l` for credits, replay room, a command ID or the link itself. -/
abbrev IdleLink (x : Link) : Prop := x.queue = [] ∧ x.waiting = []

/-- Core `c` issues an instruction of opcode `op` and fields `x` next: it runs an item, its clock is on, nothing is
skipped, the words of the instruction can be fetched, and no fetch or decode cause holds (R249, R254 to R257, R268, R269). -/
abbrev Issuing (s : State) (c op : Nat) (x : PyI) : Prop :=
  (s.core c).mode = .running ∧ (s.core c).item ≠ none ∧ (s.core c).clockOff = false ∧ (s.core c).skip = false ∧
  s.issueFault (s.core c) op x = none ∧ s.groupAwake c 15 = true ∧ (s.fetch c op x).1 = true

/-- The state in which the instruction that core `c` issues evaluates its operands: its words have been fetched, it counts as
issued, and the owner writes of the core that are due have taken effect (R266, R306, R317). -/
def State.evalAt (s : State) (c op : Nat) (x : PyI) : State :=
  let s := (s.fetch c op x).2
  let k := s.core c
  (s.setCore c { k with issued := k.issued + 1, lastPc := k.faultPc, indirect := k.indirect && k.delay.isSome }).coreHandovers c false

/-- The instruction that core `c` issues reads S1 and then S2, as `a` and `b`, which leaves the state `u` and the working
core `k` (R239). -/
abbrev Reads (s : State) (c op : Nat) (x : PyI) (a b : Nat) (u : State) (k : Core) : Prop :=
  Issuing s c op x ∧ ∃ u1 k1, (s.evalAt c op x).source c ((s.evalAt c op x).core c) 1 (wbytes x.width) x.s1 = .ok a u1 k1 ∧
    u1.source c k1 2 (wbytes x.width) x.s2 = .ok b u k

/-- Command `i` ends the instruction: the core goes on past it, or, from a delay slot, at the target of the transfer
before it (R254). -/
abbrev Passes (i : Instr) (s : State) (c op : Nat) (x : PyI) (u : State) (k : Core) : Prop :=
  exec i s = .next (u.setCore c (k.advance (s.core c).delay (pyLen x op)))

/-- Command `i` writes `r` to D, sets the flags `f` unless D is FL, and ends the instruction, where D can be written. -/
def Gives (i : Instr) (s : State) (c op : Nat) (x : PyI) (u : State) (k : Core) (r : Nat) (f : FlagUp) : Prop :=
  ∀ u' k', u.dest c k (wbytes x.width) r x.d = .ok () u' k' → Passes i s c op x u' (if x.d = .fl then k' else k'.flags f)

/-- The scratchpad bytes of a tile in their one canonical form: addresses strictly rising, no byte listed that reads 0. -/
def memWf (m : List Host.Cell) : Bool := mwf (0 : Byte) m

/-- The target registers in their one canonical form, none listed that the target table does not have (R416). -/
def targetsWf (s : State) : Bool := mwf ({} : Target) s.intTgt && s.intTgt.all (fun e => decide (e.1 < 4096))

/-- A completion of a finished run of commands: none of them stopped the machine. -/
def Safe (s : State) : Prop := ∀ k, ∃ t, Host.Core.run Sys2Proof.core k s = .next t

end Sys2Proof.Machine
end

