-- ==== Sys2Proof/Certificates/Slice0/Obligations.lean ====
section
/-! DEFINITION. The statements for the provers, family by family. Each docstring cites the rules it formalises. -/

open Sys2Proof Sys2Proof.Machine

/-! ### The queue of commands and idling -/

/-- A step runs the command at the front of the queue, with the rest of the queue in place. With no command waiting, one
nanosecond of device time passes (the model's choice, log entry 7). -/
def Obligations.StepsTakeTheFront : Prop :=
  (∀ (s : State) (c : Instr) (r : List Instr), s.pending = c :: r → step s = exec c { s with pending := r }) ∧
  (∀ s : State, s.pending = [] → step s = .next { s with now := s.now + 1 })

/-- Every command of the table completes: `exec` answers a next state for each of the 263 forms of `Instr`, in every state and
with every operand. No command ends in a fault or a refusal, for the spec gives each an effect, if only to wait or to do
nothing. -/
def Obligations.EveryCommandCompletes : Prop :=
  ∀ (i : Instr) (s : State), ∃ t, exec i s = .next t

/-! ### Doorbells and host registers (02) -/

/-- SQ_TAIL adds (new − old) mod 32 entries to the queue (R34), CQ_HEAD consumes (new − old) mod 32 completion entries and frees
their tags (R36); but for what every BAR write does (R486) nothing else changes. -/
def Obligations.DoorbellsMovePointers : Prop :=
  ∀ (s : State) (q : Nat) (v : Word), s.barOpen = true → (s.queue q).listens = true →
    Completes (.sqTail q v) s (fun t =>
      t.queue q = { s.queue q with
        sqTail := v.extractLsb' 0 5
        unfetched := (s.queue q).unfetched + (v.extractLsb' 0 5 - (s.queue q).sqTail).toNat } ∧
      (∀ k, k ≠ q → t.queue k = s.queue k) ∧
      t = { s.barWrite with hq := { s.barWrite.hq with queues := t.hq.queues } }) ∧
    Completes (.cqHead q v) s (fun t =>
      ((v.extractLsb' 0 5 - (s.queue q).cqHead).toNat ≤ (s.queue q).cqTags.length →
        (t.queue q).cqHead = v.extractLsb' 0 5 ∧
        (t.queue q).cqTags = (s.queue q).cqTags.drop (v.extractLsb' 0 5 - (s.queue q).cqHead).toNat ∧
        (∀ i : BitVec 5, bit (t.queue q).tags i.toNat = (bit (s.queue q).tags i.toNat &&
          !((s.queue q).cqTags.take (v.extractLsb' 0 5 - (s.queue q).cqHead).toNat).contains i))) ∧
      ((s.queue q).cqTags.length < (v.extractLsb' 0 5 - (s.queue q).cqHead).toNat → t.queue q = s.queue q) ∧
      (∀ k, k ≠ q → t.queue k = s.queue k) ∧
      t = { s.barWrite with hq := { s.barWrite.hq with queues := t.hq.queues } })

/-- Doorbell writes to a DISABLED or DRAINING queue are ignored; while a queue is FROZEN, tail and head writes are recorded, and
arbitration never picks it for a fetch (R37). -/
def Obligations.DoorbellsOfStoppedQueues : Prop :=
  ∀ (s : State) (q : Nat) (v : Word) (ok : Bool), s.barOpen = true →
    ((s.queue q).st = .disabled ∨ (s.queue q).st = .draining →
      ∀ i ∈ [Instr.sqTail q v, Instr.cqHead q v, Instr.restart q ok, Instr.flushPending q ok], Completes i s (fun t =>
        (∀ k, t.queue k = s.queue k) ∧ t = { s.barWrite with hq := { s.barWrite.hq with queues := t.hq.queues } })) ∧
    ((s.queue q).st = .frozen →
      Completes (.sqTail q v) s (fun t => t.queue q = { s.queue q with
        sqTail := v.extractLsb' 0 5
        unfetched := (s.queue q).unfetched + (v.extractLsb' 0 5 - (s.queue q).sqTail).toNat }) ∧
      Completes (.cqHead q v) s (fun t => (v.extractLsb' 0 5 - (s.queue q).cqHead).toNat ≤ (s.queue q).cqTags.length →
        (t.queue q).cqHead = v.extractLsb' 0 5) ∧
      ∀ u, s.arbitrate ≠ some (q, u))

/-- In D3hot every write to BAR0 or BAR2 is discarded: nothing at all changes (R54). Entering D3hot answers the configuration
write, after which fetching stops; returning to D0 writes the held completions and fetching may go on (R53, R54); an L1
request is made only with no message pending; PME_Turn_Off is answered (R53). A change of the PCIe link state raises source
0x90F (R415, R417); an invalidate request is answered with an invalidate completion (R22). -/
def Obligations.PcieEventsAndLowPower : Prop :=
  (∀ (s : State) (q v n : Nat) (w : Word) (d : DWord) (ok : Bool), s.hq.pcie = .d3hot →
    exec (.sqTail q w) s = .next s ∧ exec (.cqHead q w) s = .next s ∧ exec (.restart q ok) s = .next s ∧
    exec (.flushPending q ok) s = .next s ∧ exec .enableSet s = .next s ∧ exec .enableClear s = .next s ∧
    exec .shutdown s = .next s ∧ exec (.vectorUnmask v) s = .next s ∧
    exec (.registerWrite .bar0 n 32 d) s = .next s ∧ exec (.registerWrite .bar0 n 64 d) s = .next s ∧
    exec (.registerWrite .bar2 n 32 d) s = .next s) ∧
  (∀ s : State,
    (s.hq.pcie ≠ .d3hot → Completes .d3hotEntry s (fun t =>
      t.hq.pcie = .d3hot ∧ .cfgDone ∈ t.out ∧ t.fetching = false ∧ t.hq.queues = s.hq.queues ∧ t.hq.ops = s.hq.ops)) ∧
    (s.hq.pcie = .d3hot → (∀ h ∈ s.hq.heldCpl, (s.queue h.1).discard = false) → Completes (.d0Return true) s (fun t =>
      t.hq.pcie = .d0 ∧ t.hq.heldCpl = [] ∧ t.hq.heldMsg = [] ∧ (∀ h ∈ s.hq.heldCpl, .cpl h.1 h.2.slot h.2.pasid h.2.cpl.bytes ∈ t.out) ∧
      t.hq.queues = s.hq.queues)) ∧
    (s.hq.pcie = .d0 → (∀ e ∈ s.hq.vecs, e.2.winEnd = none ∧ e.2.pending = false) → Completes .aspmL1Entry s (fun t =>
      t.hq.pcie = .l1 ∧ .aspmL1 ∈ t.out ∧ t.hq.queues = s.hq.queues)) ∧
    Completes .pmeTurnOff s (fun t => .pmeAck ∈ t.out ∧ t.hq.queues = s.hq.queues ∧ t.hq.pcie = s.hq.pcie)) ∧
  (∀ (s : State) (up : Bool),
    (s.targetOf 0x90F = none → Completes (.pcieLinkStateChange up) s (fun t =>
      t = { s with hq := { s.hq with linkUp := up }, stewInt := { s.stewInt with lost := true } })) ∧
    (∀ c, s.targetOf 0x90F = some c → Completes (.pcieLinkStateChange up) s (fun t =>
      t.hq.linkUp = up ∧ .intr c 0x90F ∈ t.out)) ∧
    Completes .atsInvalidate s (fun t => t = { s with out := .atsDone :: s.out }))

/-- Setting ENABLE moves queue 0 from DISABLED to ACTIVE with its pointers at 0 and phase 1, and is ignored while ID_READY.ADMIN
is 0 (R27, R38); clearing it moves queue 0 to DRAINING (R26). SHUTDOWN stops fetching (R28); it changes no queue's state.
RESTART and FLUSH_PENDING return a FROZEN queue to ACTIVE once no command started before the freeze is left: ELOG.VALID is
cleared, and FLUSH_PENDING first completes the entries between SQ_HEAD and SQ_TAIL (R41). With such commands left they wait,
and RESTART_TAKES_EFFECT makes them good. -/
def Obligations.ControlBitsAndRestart : Prop :=
  (∀ s : State, s.barOpen = true →
    (bit s.hq.idReady 1 = true → (s.queue 0).st = .disabled → Completes .enableSet s (fun t =>
      t.hq.aqEnable = true ∧ (t.queue 0).st = .active ∧ (t.queue 0).sqHead = 0 ∧ (t.queue 0).sqTail = 0 ∧
      (t.queue 0).cqTail = 0 ∧ (t.queue 0).cqHead = 0 ∧ (t.queue 0).phase = true ∧ (t.queue 0).tags = 0 ∧
      (t.queue 0).sqBase = s.hq.aqSqBase ∧ (t.queue 0).cqBase = s.hq.aqCqBase ∧ (t.queue 0).vector = s.hq.aqVector ∧
      (∀ k, k ≠ 0 → t.queue k = s.queue k))) ∧
    (bit s.hq.idReady 1 = false → Completes .enableSet s (fun t => t.hq.aqEnable = s.hq.aqEnable ∧ t.queue 0 = s.queue 0)) ∧
    (s.hq.aqEnable = true → (s.queue 0).listens = true → s.unstarted 0 = [] → Completes .enableClear s (fun t =>
      t.hq.aqEnable = false ∧ (t.queue 0).st = .draining ∧ (∀ k, k ≠ 0 → t.queue k = s.queue k)))) ∧
  (∀ s : State, s.barOpen = true → (∀ q, s.unstarted q = []) → Completes .shutdown s (fun t =>
    t.hq.shutdown = true ∧ t.fetching = false ∧ (∀ q, t.queue q = s.queue q) ∧
    t = { s.barWrite with hq := { s.barWrite.hq with shutdown := true, stopFetch := true } })) ∧
  (∀ (s : State) (q : Nat), (s.queue q).st = .frozen → (s.queue q).held = [] →
    s.hq.cqAnswer = true → s.hq.pcie ≠ .d3hot →
    (s.startedOps q = [] → (s.queue q).flushPending = false →
      Completes (.restart q true) s (fun t => t.queue q = { s.queue q with
        st := .active, restartPending := false, elog := { (s.queue q).elog with valid := false } } ∧
        (∀ k, k ≠ q → t.queue k = s.queue k))) ∧
    (s.startedOps q = [] →
      Completes (.flushPending q true) s (fun t => (t.queue q).st = .active ∧ (t.queue q).elog.valid = false ∧
        ((s.queue q).unfetched ≤ 32 → (t.queue q).unfetched = 0 ∧
          (t.queue q).sqHead = (s.queue q).sqHead + BitVec.ofNat 5 (s.queue q).unfetched))) ∧
    (s.startedOps q ≠ [] →
      Completes (.restart q true) s (fun t => (t.queue q).st = .frozen ∧ (t.queue q).restartPending = true)) ∧
    (s.startedOps q = [] → (s.queue q).restartPending = true → (s.queue q).flushPending = false →
      Completes (.restartTakesEffect q true) s (fun t => t.queue q = { s.queue q with
        st := .active, restartPending := false, elog := { (s.queue q).elog with valid := false } } ∧
        (∀ k, k ≠ q → t.queue k = s.queue k))))

/-- REGISTER_WRITE writes a register by its access code (R2 to R4, R26, R27): a ring base keeps [11:0] at 0 and takes a write only
while queue 0 is DISABLED, CU_EVENT clears the bits written 1, CU_EVENT_MASK takes the value, CU_CTRL asks for the shutdown,
the MSI-X table, the doorbell pages, EV and the scrub control of a tile and the target registers take what is written; a write
of another width than the register's is ignored. The offset of Device Control in the model's configuration space is the
model's (log entry 4). -/
def Obligations.RegisterWritesFollowAccessCodes : Prop :=
  ∀ (s : State) (v : DWord), s.barOpen = true →
    ((s.queue 0).st = .disabled → Completes (.registerWrite .bar0 0x10000 64 v) s (fun t =>
      t.hq.aqSqBase = (v &&& 0xFFFFFFFFFFFFF000) ∧ t.hq.aqCqBase = s.hq.aqCqBase)) ∧
    ((s.queue 0).st = .disabled → Completes (.registerWrite .bar0 0x10008 64 v) s (fun t =>
      t.hq.aqCqBase = (v &&& 0xFFFFFFFFFFFFF000) ∧ t.hq.aqSqBase = s.hq.aqSqBase)) ∧
    ((s.queue 0).st ≠ .disabled → Completes (.registerWrite .bar0 0x10000 64 v) s (fun t => t.hq.aqSqBase = s.hq.aqSqBase)) ∧
    Completes (.registerWrite .bar0 0x10020 32 v) s (fun t =>
      t.hq.cuEvent = (s.hq.cuEvent &&& ~~~(v.extractLsb' 0 32 &&& 0x1F)) ∧ t.hq.queues = s.hq.queues) ∧
    Completes (.registerWrite .bar0 0x10024 32 v) s (fun t =>
      t.hq.cuEventMask = v.extractLsb' 0 32 ∧ t.hq.cuEvent = s.hq.cuEvent ∧ t.hq.queues = s.hq.queues) ∧
    ((∀ e ∈ s.hq.queues, s.unstarted e.1 = []) → Completes (.registerWrite .bar0 0x10030 32 v) s (fun t =>
      t.hq.shutdown = (s.hq.shutdown || bit v 0) ∧ t.hq.queues = s.hq.queues)) ∧
    (∀ n, n < 2048 → (∀ k, k < 3 → Completes (.registerWrite .bar0 (0x500000 + 16 * n + 4 * k) 32 v) s (fun t =>
      (k = 0 → (t.vec n).addr = (s.vec n).addr.extractLsb' 32 32 ++ (v.extractLsb' 0 32 &&& 0xFFFFFFFC)) ∧
      (k = 1 → (t.vec n).addr = v.extractLsb' 0 32 ++ (s.vec n).addr.extractLsb' 0 32) ∧
      (k = 2 → (t.vec n).data = v.extractLsb' 0 32) ∧ (∀ j, j ≠ n → t.vec j = s.vec j) ∧ t.hq.queues = s.hq.queues)) ∧
      (bit v 0 = true → Completes (.registerWrite .bar0 (0x50000C + 16 * n) 32 v) s (fun t => t.vec n = { s.vec n with masked := true }))) ∧
    (∀ q, (s.queue q).listens = true → Completes (.registerWrite .bar2 (0x1000 * q) 32 v) s (fun t =>
      (t.queue q).sqTail = v.extractLsb' 0 5 ∧ (∀ k, k ≠ q → t.queue k = s.queue k))) ∧
    (∀ n w, w ≠ 32 → w ≠ 64 → Completes (.registerWrite .bar0 n w v) s (fun t => t = s.barWrite) ∧
      Completes (.registerWrite .bar2 n w v) s (fun t => t = s.barWrite)) ∧
    (∀ n w, w ≠ 32 → (∀ k, Completes (.registerWrite (.tile k) n w v) s (fun t => t = s)) ∧
      Completes (.registerWrite .steward n w v) s (fun t => t = s)) ∧
    (∀ k, k < 64 → Completes (.registerWrite (.tile k) 0x10 32 v) s (fun t => t = s.setCore k { s.core k with ev := v.extractLsb' 0 32 &&& 0x7F }) ∧
      Completes (.registerWrite (.tile k) 0xC20 32 v) s (fun t =>
        t = s.setTile k { s.tile k with thresh := v.extractLsb' 0 8, scrubEn := bit v 8 })) ∧
    Completes (.registerWrite .config 1 16 v) s (fun t =>
      (bits v 5 3 ≤ 2 → t.hq.maxPayload = v.extractLsb' 5 3) ∧ (bits v 12 3 ≤ 5 → t.hq.maxReadReq = v.extractLsb' 12 3) ∧
      t.hq.queues = s.hq.queues) ∧
    (∀ n, n < 4096 → s.intLock = false → Completes (.registerWrite .steward (0x02002000 + 4 * n) 32 v) s (fun t =>
      mget {} t.intTgt n = { core := v.extractLsb' 0 7, prio := v.extractLsb' 8 2, en := bit v 10 } ∧
      (∀ k, k ≠ n → mget {} t.intTgt k = mget {} s.intTgt k) ∧ t = { s with intTgt := t.intTgt }))

/-- SUBMISSION_FETCH takes the entry at SQ_HEAD of the queue that arbitration selects: the pointer advances, its tag is in use and
the command stands in the operation table, a RUN with its range list (R35, R42, R43, R75); a slot whose tag is in use freezes
the queue with TAG_IN_USE, and a failed read freezes it with SQE_FETCH_FAULT (R38, R88). DESCRIPTOR_LIST_READ gives a started
write command its list, with SLACK when the list describes more bytes than the command needs (R60 to R62); HOST_DATA_ARRIVAL
adds the bytes that came to what the command has received (R122), holding room for their group in the region's share (R121),
and stages nothing before a commit group is whole. -/
def Obligations.DataReachesTheStore : Prop :=
  (∀ (s s1 : State) (q : Nat) (pool : OpPool) (e : BitVec 512) (rl : HostRead), s.fetching = true → s.hq.cqAnswer = true →
    s.arbitrate = some (q, s1) → s1.opPool q = some pool →
    (bit (s1.queue q).tags (s1.queue q).sqHead.toNat = false →
      bit (s1.queue q).marks (s1.queue q).sqHead.toNat = false →
      opcodeKnown (Sqe.opcode e) = true → Sqe.subop e ≤ subopMax (Sqe.opcode e) →
      Completes (.submissionFetch (.ok e) rl true) s (fun t =>
        (t.queue q).sqHead = (s1.queue q).sqHead + 1 ∧ (t.queue q).unfetched = (s1.queue q).unfetched - 1 ∧
        bit (t.queue q).tags (s1.queue q).sqHead.toNat = true ∧
        t.op q (s1.queue q).sqHead.toNat = some
          { sqe := e, inst := (s1.queue q).inst, pool := pool, order := s.hq.fetchSeq, rlist := if Sqe.opcode e = 8 then rl else .ok [] } ∧
        .dmaRead q (s1.queue q).sqHead.toNat (s1.queue q).pasid ∈ t.out ∧
        (∀ k, k ≠ q → t.queue k = s1.queue k))) ∧
    (bit (s1.queue q).tags (s1.queue q).sqHead.toNat = true → (s1.queue q).st = .active → s1.unstarted q = [] →
      Completes (.submissionFetch (.ok e) rl true) s (fun t =>
        (t.queue q).st = .frozen ∧ (t.queue q).elog.valid = true ∧ (t.queue q).elog.code = 0x4C)) ∧
    (bit (s1.queue q).tags (s1.queue q).sqHead.toNat = false → (s1.queue q).st = .active → s1.unstarted q = [] →
      Completes (.submissionFetch .fault rl true) s (fun t =>
        (t.queue q).st = .frozen ∧ (t.queue q).elog.valid = true ∧ (t.queue q).elog.code = 0x4D))) ∧
  (∀ (s : State) (q tag n : Nat) (o : Op) (ds : List (BitVec 128)) (d : Bytes), s.op q tag = some o → o.started = true →
    s.hq.cqAnswer = true →
    (o.listOk = false → readsList o.sqe = true → walkList ds 0 0 0 0 = .ok n → Sqe.length o.sqe ≤ n →
      Sqe.opcode o.sqe ≠ 2 → Sqe.opcode o.sqe ≠ 8 →
      Completes (.descriptorListRead q tag (.ok ds) .ok true) s (fun t =>
        t.op q tag = some { o with listOk := true, slack := decide (Sqe.length o.sqe < n) } ∧
        t = { s with hq := { s.hq with ops := t.hq.ops }, out := .dmaRead q tag (s.queue q).pasid :: s.out })) ∧
    (∀ ti, o.listOk = true → s.jr.holdStep = 0 → Sqe.opcode o.sqe = 1 → Sqe.fReduce o.sqe = false → s.slabIdx o = some ti → d ≠ [] →
      o.bytesIn + d.length ≤ Sqe.length o.sqe → (o.pend ++ d).length < 1024 * groupGrains o →
      (o.share.isSome = true → Completes (.hostDataArrival q tag (.ok d) .ok true) s (fun t =>
        t.op q tag = some { o with pend := o.pend ++ d, bytesIn := o.bytesIn + d.length } ∧
        t = { s with hq := { s.hq with ops := t.hq.ops }, pw := t.pw, out := .dmaRead q tag (s.queue q).pasid :: s.out })) ∧
      (∀ p b, o.share = none → s.appendPlace ti = some (p, b) → s.stagedIn p + groupGrains o ≤ s.stageShare →
        Completes (.hostDataArrival q tag (.ok d) .ok true) s (fun t =>
          t.op q tag = some { o with pend := o.pend ++ d, bytesIn := o.bytesIn + d.length, share := some (p, groupGrains o) } ∧
          t = { s with hq := { s.hq with ops := t.hq.ops }, pw := t.pw, out := .dmaRead q tag (s.queue q).pasid :: s.out }))))

/-- The last bytes of an APPEND of one grain are staged at the slab's write pointer, the write pointer advances by one and the
command completes with that pointer as its first grain (R64, R65, R120). -/
def Obligations.AppendStagesAtWritePointer : Prop :=
  ∀ (s : State) (q tag ti p b : Nat) (o : Op) (d : Bytes), s.op q tag = some o → o.started = true → o.listOk = true →
    Sqe.opcode o.sqe = 1 → Sqe.fReduce o.sqe = false → Sqe.fStream o.sqe = false → Sqe.fXts o.sqe = false →
    Sqe.length o.sqe = 1024 → o.grains = 0 → o.blocks = 0 → o.bytesIn = 0 → o.pend = [] → o.share = none → o.binsBad = none → o.slack = false → o.keyGen = none →
    d.length = 1024 →
    Posting s q → s.hq.cqAnswer = true → s.jr.holdStep = 0 → s.slabIdx o = some ti → s.appendPlace ti = some (p, b) →
    s.canStage p b 1 (mget [] s.st.tails ti).length (mget [] s.st.tails ti).length 0 = true →
    (s.slab ti).wp + 1 < Config.slabGrains → s.staged.all (fun e => e.issued) = true →
    (s.band p b).st = .opened → (s.staged.filter (fun e => decide (e.region = p ∧ e.band = b))).length < 511 →
    Completes (.hostDataArrival q tag (.ok d) .ok true) s (fun t =>
      (t.slab ti).wp = (s.slab ti).wp + 1 ∧ (t.slab ti).st = (s.slab ti).st ∧
      (∃ e ∈ t.staged, e.slab = ti ∧ e.grain = (s.slab ti).wp ∧ e.region = p ∧ e.band = b ∧ e.data = d ∧ e.last = true) ∧
      Ended s t q tag .success 0x00 (writeResult (s.slab ti).wp 1 0 0))

/-- The end of a moderation window sends its vector's message and closes the window (R51); unmasking a vector sends the message
that was pending (R52). The delivery commit point makes a raised source DELIVERED and sets the pending bit (R419, R421),
unless INT_CMASK masks it (R420); INT_ACK makes it IDLE again (R422); INT_CMASK takes the mask; writing 1 to a bit of TL_EVP
clears it (R241); LOCK locks the target table (R416). -/
def Obligations.InterruptsAreDelivered : Prop :=
  (∀ (s : State) (v e : Nat), s.hq.pcie ≠ .d3hot → s.hq.funcMask = false →
    ((s.vec v).winEnd = some e → (s.vec v).masked = false → Completes (.moderationWindowEnd v) s (fun t =>
      t.now = Nat.max s.now e ∧ t.out = .msix v :: s.out ∧ t.vec v = { s.vec v with posted := 0, winEnd := none } ∧
      (∀ k, k ≠ v → t.vec k = s.vec k))) ∧
    ((s.vec v).winEnd = some e → (s.vec v).masked = true → Completes (.moderationWindowEnd v) s (fun t =>
      t.out = s.out ∧ t.vec v = { s.vec v with posted := 0, winEnd := none, pending := true })) ∧
    ((s.vec v).pending = true → Completes (.vectorUnmask v) s (fun t =>
      .msix v ∈ t.out ∧ t.vec v = { s.vec v with masked := false, pending := false } ∧ (∀ k, k ≠ v → t.vec k = s.vec k))) ∧
    ((s.vec v).pending = false → Completes (.vectorUnmask v) s (fun t =>
      t.vec v = { s.vec v with masked := false } ∧ (∀ k, k ≠ v → t.vec k = s.vec k)))) ∧
  (∀ (s : State) (c n : Nat) (v : Word), c < 64 →
    (mget .idle (s.intc c).src n = .raised → s.fullMask c = false → (s.intc c).masks (s.srcPrio n) = false → (s.core c).item ≠ none →
      Completes (.deliveryCommit c n) s (fun t => mget .idle (t.intc c).src n = .delivered ∧ bit (t.core c).evp 5 = true ∧
        (∀ k, k ≠ n → mget .idle (t.intc c).src k = mget .idle (s.intc c).src k))) ∧
    (mget .idle (s.intc c).src n = .raised → s.fullMask c = false → (s.intc c).masks (s.srcPrio n) = true → s.sleepMode c ≠ 2 →
      exec (.deliveryCommit c n) s = .next s) ∧
    (v.toNat % 4096 = n → mget .idle (s.intc c).src n = .delivered → Completes (.intAck c v) s (fun t =>
      mget .idle (t.intc c).src n = .idle ∧ (∀ k, k ≠ n → mget .idle (t.intc c).src k = mget .idle (s.intc c).src k))) ∧
    exec (.intCmask c v) s = .next (s.setIntc c { s.intc c with cmask := v.extractLsb' 0 4 }) ∧
    (bit v 5 = false → exec (.tlEvpWrite c v) s = .next (s.setCore c { s.core c with evp := (s.core c).evp &&& ~~~(v &&& 0x7F) })) ∧
    exec .lock s = .next { s with intLock := true })

/-- The end of a drain clears the queue's context: it is DISABLED, or, after an instance reset, ACTIVE again with its ring zeroed
(R38, R47). A Function Level Reset with no guest instance and no command running leaves every queue DISABLED with its context
cleared, ENABLE clear, nothing held, and the moderation of every vector at count 1 and window 0 (R24). That the function is
then in D0 is the model's (log entry 4). -/
def Obligations.DrainAndFunctionReset : Prop :=
  (∀ (s : State) (q : Nat), (s.queue q).st = .draining → s.startedOps q = [] →
    ((s.queue q).drain ≠ .instReset → (s.queue q).drain ≠ .delete → Completes (.queueDrainEnd q true) s (fun t =>
      t = s.setQueue q {} ∧ t.queue q = {} ∧ (∀ k, k ≠ q → t.queue k = s.queue k))) ∧
    ((s.queue q).drain = .delete → (s.queue q).held = [] → Completes (.queueDrainEnd q true) s (fun t =>
      t.queue q = {} ∧ (∀ k, k ≠ q → t.queue k = s.queue k))) ∧
    ((s.queue q).drain = .instReset → Completes (.queueDrainEnd q true) s (fun t =>
      (t.queue q).st = .active ∧ (t.queue q).phase = true ∧ (t.queue q).cqTail = 0 ∧ (t.queue q).sqHead = 0 ∧
      (t.queue q).inst = (s.queue q).inst ∧ .ringZero q (s.queue q).pasid ∈ t.out ∧ (∀ k, k ≠ q → t.queue k = s.queue k)))) ∧
  (∀ s : State, (∀ e ∈ s.hq.insts, e.1 = 0 ∨ e.2.st = .free) → (∀ q, s.startedOps q = []) → mwf {} s.hq.queues = true →
    mwf {} s.hq.vecs = true →
    Completes .functionLevelReset s (fun t =>
      (∀ q, (s.queue q).st ≠ .disabled → t.queue q = {}) ∧ t.hq.aqEnable = false ∧ t.hq.heldCpl = [] ∧ t.hq.heldMsg = [] ∧
      (∀ v, (t.vec v).count = 1 ∧ (t.vec v).window = 0 ∧ (t.vec v).winEnd = none) ∧ t.hq.pcie = .d0 ∧
      t.hq.insts = s.hq.insts))

/-! ### Data commands (03, 04) -/

/-- APPEND and OVERWRITE start on a slab they may write: the command takes its first grain and then waits for its data (R65, R70,
R75). Without INLINE its descriptor list is read first (R60); with XTS it holds a reference to its key's current generation
(R346, R352). -/
def Obligations.WriteCommandsStart : Prop :=
  ∀ (s : State) (q tag ti : Nat) (o : Op), Startable s q tag o → s.hq.cqAnswer = true → s.slabIdx o = some ti →
    s.slabFree ti o.inst false = true → s.slabReady ti o.inst = true →
    (Sqe.opcode o.sqe = 1 → s.appendOwn o.sqe o = none → Sqe.fXts o.sqe = false →
      Completes (.append q tag true) s (fun t =>
        t = s.setOp q tag (some { o with
          started := true, listOk := Sqe.fInline o.sqe, waiting := none, first := (s.slab ti).wp, base := (s.slab ti).wp
          pend := if Sqe.fStream o.sqe then mget [] s.st.tails ti else [] }))) ∧
    (∀ n u, Sqe.opcode o.sqe = 1 → s.appendOwn o.sqe o = none → Sqe.fXts o.sqe = true →
      s.takeKey false (Sqe.kslot o.sqe) = (some n, u) →
      Completes (.append q tag true) s (fun t =>
        (∃ x, t.op q tag = some x ∧ x.started = true ∧ x.keyGen = some (Sqe.kslot o.sqe, n)) ∧ t.keys = u.keys)) ∧
    (Sqe.opcode o.sqe = 3 → s.overwriteOwn o.sqe o = none → Sqe.fXts o.sqe = false →
      Completes (.overwrite q tag true) s (fun t =>
        t = s.setOp q tag (some { o with
          started := true, listOk := Sqe.fInline o.sqe, waiting := none, first := Sqe.grain o.sqe })))

/-- READ of one grain. A grain still in protected staging is written to the host's buffer and the command completes with RESULT
1,024; a programmed one that the read cache does not hold is asked of its link as one READ_PAGE of its codeword (R64, R68,
R171); without INLINE the descriptor list is read first (R60). -/
def Obligations.ReadServesGrain : Prop :=
  ∀ (s : State) (q tag ti p b a : Nat) (o : Op), Startable s q tag o → Posting s q → s.hq.cqAnswer = true →
    Sqe.opcode o.sqe = 2 → Sqe.fReduce o.sqe = false → Sqe.fXts o.sqe = false → Sqe.length o.sqe = 1024 →
    s.readOwn o.sqe o = none → s.slabIdx o = some ti → o.slack = false → o.keyGen = none → o.bytesOut = 0 → o.units = 0 →
    s.readReady ti o.inst (Sqe.grain o.sqe) (Sqe.grain o.sqe + 1) = true →
    s.grainAt ti (Sqe.grain o.sqe) = some (p, b, a) →
    (Sqe.fInline o.sqe = false → Completes (.read q tag .ok true) s (fun t =>
      t = s.setOp q tag (some { o with started := true, listOk := false, waiting := none }))) ∧
    (∀ e, Sqe.fInline o.sqe = true → s.stagedAt p b a = some e → e.poison = false →
      Completes (.read q tag .ok true) s (fun t =>
        .hostWrite q tag 0 (s.queue q).pasid e.data ∈ t.out ∧ Ended s t q tag .success 0x00 1024)) ∧
    (∀ cid, Sqe.fInline o.sqe = true → s.stagedAt p b a = none → s.cached ti (Sqe.grain o.sqe) = none → s.jr.holdStep = 0 → s.reachable (s.loc p b a) = true →
      (s.link (s.loc p b a).link).st = .active → (s.link (s.loc p b a).link).retraining = none →
      (s.link (s.loc p b a).link).onLadder (s.loc p b a) = none → (s.link (s.loc p b a).link).freeCid = some cid →
      Completes (.read q tag .ok true) s (fun t =>
        (∃ m, mget none (t.link (s.loc p b a).link).cmds cid = some m ∧ m.op = .readPage ∧ m.die = (s.loc p b a).die ∧
          m.block = (s.loc p b a).block ∧ m.page = (s.loc p b a).page ∧
          m.why = .hostRead q tag [(Sqe.grain o.sqe, grainIdx a)]) ∧
        (∃ x, t.op q tag = some x ∧ x.started = true ∧ x.want = [Sqe.grain o.sqe])))

/-- OPEN takes the band that placement gives, whose dieblocks are read on their first row before it is OPEN, and leaves the slab
OPEN with its write pointer at 0 (R71, R93, R98, R137); CLOSE leaves it FULL at its write pointer, which is its RESULT, with
its band CLOSED (R71, R96); RESET leaves it EMPTY (R71). FLUSH codes a held stream tail as one short block, stores its unit at
the write pointer and ends the tail (R67); with no tail it stores nothing and its RESULT is 0 (R64). -/
def Obligations.SlabAndFlushCommands : Prop :=
  (∀ (s : State) (q tag ti : Nat) (o : Op), Startable s q tag o → Posting s q → s.hq.cqAnswer = true → o.slack = false →
    o.keyGen = none → flagsOk o.sqe = true → s.slabIdx o = some ti → s.journalRoom 8 = true →
    (∀ p b, Sqe.opcode o.sqe = 4 → o.first = 0 → o.grains = 0 → o.blocks = 0 → (s.slab ti).st = .empty → s.place? = some (p, b) →
      (List.range 8).any s.passes12 = true →
      Completes (.openSlab q tag true) s (fun t =>
        t.slab ti = { st := .opened, region := p, band := b, wp := 0, inst := o.inst } ∧ (t.band p b).taken = true ∧
        (t.band p b).checking = List.range 8 ∧ (t.band p b).role = 0 ∧ Ended s t q tag .success 0x00 0)) ∧
    (Sqe.opcode o.sqe = 5 → (s.slab ti).st = .opened → mget [] s.st.tails ti = [] → s.slabFree ti o.inst false = true →
      s.slabReady ti o.inst = true → s.staged.all (fun e => e.issued) = true → mget none s.st.moves ti = none →
      Completes (.closeSlab q tag true) s (fun t =>
        t.slab ti = { s.slab ti with st := .full } ∧
        ((s.band (s.slab ti).region (s.slab ti).band).taken = false → (t.band (s.slab ti).region (s.slab ti).band).st = .closed) ∧
        (t.band (s.slab ti).region (s.slab ti).band).closedAt = some s.now ∧
        Ended s t q tag .success 0x00 (BitVec.ofNat 64 (s.slab ti).wp))) ∧
    (Sqe.opcode o.sqe = 6 → (s.slab ti).st = .opened ∨ (s.slab ti).st = .full → s.slabFree ti o.inst true = true →
      s.slabReady ti o.inst = true → s.emptyRoom ti = true → (s.band (s.slab ti).region (s.slab ti).band).st ≠ .free →
      mget none s.st.moves ti = none → (∀ e ∈ s.st.logs, ∀ l, e.2 = some l → (s.band l.region l.band).st ≠ .free) →
      (let u := (s.setOp q tag (some { o with started := true, listOk := true, waiting := none })).emptySlab ti;
        (u.spareReserve : Int) ≤ u.sparePool) →
      Completes (.resetSlab q tag true) s (fun t =>
        t.slab ti = { st := .empty, inst := (s.slab ti).inst } ∧ mget [] t.st.tails ti = [] ∧
        Ended s t q tag .success 0x00 0))) ∧
  (∀ (s : State) (q tag ti p b : Nat) (o : Op), Startable s q tag o → Posting s q → s.hq.cqAnswer = true →
    Sqe.opcode o.sqe = 7 → flagsOk o.sqe = true → o.slack = false → o.keyGen = none → o.grains = 0 → o.blocks = 0 → o.share = none →
    s.slabIdx o = some ti → (s.slab ti).st = .opened → s.slabFree ti o.inst false = true → s.slabReady ti o.inst = true →
    (mget [] s.st.tails ti = [] → Completes (.flushTail q tag true) s (fun t =>
      t.st = s.st ∧ t.staged = s.staged ∧ Ended s t q tag .success 0x00 0)) ∧
    (let n := (unitGrains (krfSlab (mget [] s.st.tails ti))).length;
      mget [] s.st.tails ti ≠ [] → s.appendPlace ti = some (p, b) →
      s.canStage p b n 0 (mget [] s.st.tails ti).length 0 = true → (s.slab ti).wp + n < Config.slabGrains →
      s.staged.all (fun e => e.issued) = true → (s.band p b).st = .opened →
      (s.staged.filter (fun e => decide (e.region = p ∧ e.band = b))).length + n < 512 →
      Completes (.flushTail q tag true) s (fun t =>
        mget [] t.st.tails ti = [] ∧ (t.slab ti).tail = false ∧ (t.slab ti).wp = (s.slab ti).wp + n ∧
        t.staged.length = s.staged.length + n ∧
        Ended s t q tag .success 0x00 (writeResult (s.slab ti).wp n 0 0))))

/-- RUN, once none of its causes refuses it, waits to start (R206, R223); RUN_START gives it its record: the handle, the ranges of
the list read with its entry, the output cap and the slab it writes (R72, R75, R217). -/
def Obligations.RunIsAdmittedAndStarts : Prop :=
  ∀ (s : State) (q tag : Nat) (o : Op), s.op q tag = some o → o.started = false → s.hq.cqAnswer = true →
    Sqe.opcode o.sqe = 8 →
    (o.checked = false → s.orderOk q tag o = true → s.commonRefusal q o.sqe = none → s.runOwn o.sqe o = none →
      Completes (.run q tag true) s (fun t => t = s.setOp q tag (some { o with checked := true }))) ∧
    (∀ l sb pb p, o.checked = true → Sqe.fResume o.sqe = false → s.orderOk q tag o = true → o.rlist = .ok l →
      s.pipeOf o.inst (runHandle o.sqe) = some p → s.runStartRefusal o p o.ranges sb = none →
      s.runReady o o.ranges = true → s.runLimitOk o.inst = true → toSlabRun o.sqe = false →
      Sqe.fInline o.sqe = false → Sqe.length o.sqe ≠ 0 →
      Completes (.runStart q tag (.ok sb) (.ok []) (.ok pb) true) s (fun t =>
        (∃ x, t.op q tag = some x ∧ x.started = true ∧ x.listOk = false) ∧
        (∃ r, t.runOf (opKey q tag) = some r ∧ r.inst = o.inst ∧ r.handle = runHandle o.sqe ∧ r.pipe = p ∧
          r.ranges = rangeEntries (runCount o.sqe) l ∧ r.cap = some (Sqe.length o.sqe) ∧ r.runs = 1 ∧ r.toSlab = none)))

/-- PROGRAM_LOAD and PIPELINE_DESCRIPTOR_LOAD admit an image on which admission finds nothing, under the instance's lowest free
handle, which is the RESULT (R73, R243); PROGRAM_DROP frees a handle that nothing uses (R73). -/
def Obligations.ProgramStoreCommands : Prop :=
  ∀ (s : State) (q tag h : Nat) (o : Op) (img : Bytes), s.hq.cqAnswer = true → Posting s q → o.slack = false →
    (DataHere s q tag o (s.loadOwn o.sqe o) → Sqe.opcode o.sqe = 9 → Sqe.subop o.sqe = 0 →
      s.freeHandle o.inst = some h → (checkProgram (slice img 0 (Sqe.length o.sqe))).1 = [] →
      Completes (.programLoad q tag (.ok img) .ok true) s (fun t =>
        t.prog o.inst h = some (.program (slice img 0 (Sqe.length o.sqe)) (checkProgram (slice img 0 (Sqe.length o.sqe))).2.1
          (checkProgram (slice img 0 (Sqe.length o.sqe))).2.2) ∧
        Ended s t q tag .success 0x00 (BitVec.ofNat 64 h))) ∧
    (DataHere s q tag o (s.loadOwn o.sqe o) → Sqe.opcode o.sqe = 9 → Sqe.subop o.sqe = 1 →
      s.freeHandle o.inst = some h → s.checkPipeline o.inst (slice img 0 (Sqe.length o.sqe)) = [] →
      Completes (.pipelineDescriptorLoad q tag (.ok img) .ok true) s (fun t =>
        t.prog o.inst h = some (.pipeline (slice img 0 (Sqe.length o.sqe))) ∧
        Ended s t q tag .success 0x00 (BitVec.ofNat 64 h))) ∧
    (Startable s q tag o → Sqe.opcode o.sqe = 10 → flagsOk o.sqe = true → (s.prog o.inst (Sqe.field o.sqe 36 2)).isSome = true →
      s.handleBusy o.inst (Sqe.field o.sqe 36 2) = false →
      Completes (.programDrop q tag true) s (fun t =>
        t.prog o.inst (Sqe.field o.sqe 36 2) = none ∧
        (∀ k, k ≠ progKey o.inst (Sqe.field o.sqe 36 2) → mget none t.ld.progs k = mget none s.ld.progs k) ∧
        Ended s t q tag .success 0x00 0))

/-! ### Keys (14, 15) -/

/-- A KEY load takes its material into the slot, and KEY_SCHEDULE_DONE makes it the current generation, retaining the previous one
only while it is referenced (R74, R344, R351, R368). A zeroise leaves the slot empty at once: no generation is held and no
load is under way (R74, R353, R369). -/
def Obligations.KeyLoadsAndZeroise : Prop :=
  (∀ (s : State) (q tag k : Nat) (o : Op) (b : Bytes), s.hq.cqAnswer = true →
    (DataHere s q tag o (s.keyOwn o.sqe o) → Sqe.opcode o.sqe = 0x0B → Sqe.subop o.sqe = 0 →
      (s.cslot (Sqe.kslot o.sqe)).load = none → halvesEqual (slice b 0 (Sqe.length o.sqe)) = false →
      Completes (.cipherLoad q tag (.ok b) true) s (fun t =>
        t.cslot (Sqe.kslot o.sqe) = { s.cslot (Sqe.kslot o.sqe) with load := some (slice b 0 (Sqe.length o.sqe), q, tag) } ∧
        (∀ j, j ≠ Sqe.kslot o.sqe → t.cslot j = s.cslot j) ∧ t.keys.hmac = s.keys.hmac)) ∧
    (DataHere s q tag o (s.keyOwn o.sqe o) → Sqe.opcode o.sqe = 0x0B → Sqe.subop o.sqe = 2 →
      (s.hslot (Sqe.kslot o.sqe)).load = none →
      Completes (.hmacLoad q tag (.ok b) true) s (fun t =>
        t.hslot (Sqe.kslot o.sqe) = { s.hslot (Sqe.kslot o.sqe) with load := some (slice b 0 (Sqe.length o.sqe), q, tag) } ∧
        (∀ j, j ≠ Sqe.kslot o.sqe → t.hslot j = s.hslot j) ∧ t.keys.cipher = s.keys.cipher)) ∧
    ((s.cslot k).load = some (b, q, tag) → (s.cslot k).old = none → Posting s q → s.op q tag = some o → o.slack = false →
      Completes (.keyScheduleDone false k true) s (fun t =>
        (∃ g, (t.cslot k).cur = some g ∧ g.key = b ∧ g.refs = 0 ∧ g.num = (s.cslot k).gens + 1) ∧
        (t.cslot k).load = none ∧
        (t.cslot k).old = (match (s.cslot k).cur with | some c => if c.refs = 0 then none else some c | none => none) ∧
        Ended s t q tag .success 0x00 0)) ∧
    ((s.hslot k).load = some (b, q, tag) → (s.hslot k).old = none → Posting s q → s.op q tag = some o → o.slack = false →
      Completes (.keyScheduleDone true k true) s (fun t =>
        (∃ g, (t.hslot k).cur = some g ∧ g.inner = (hmacStates b).1 ∧ g.outer = (hmacStates b).2 ∧ g.refs = 0) ∧
        (t.hslot k).load = none ∧ Ended s t q tag .success 0x00 0))) ∧
  (∀ (s : State) (q tag : Nat) (o : Op), Startable s q tag o → s.hq.cqAnswer = true → s.keyOwn o.sqe o = none →
    Posting s q → o.slack = false → Sqe.opcode o.sqe = 0x0B → s.ld.runs = [] → s.ld.regions = [] → s.tiles = [] →
    (∀ e ∈ s.hq.ops, ∀ a, e.2 = some a → a.keyGen = none) →
    (Sqe.subop o.sqe = 1 → (s.cslot (Sqe.kslot o.sqe)).load = none →
      Completes (.cipherZeroise q tag true) s (fun t =>
        (t.cslot (Sqe.kslot o.sqe)).cur = none ∧ (t.cslot (Sqe.kslot o.sqe)).old = none ∧
        (t.cslot (Sqe.kslot o.sqe)).load = none ∧ (∀ j, j ≠ Sqe.kslot o.sqe → t.cslot j = s.cslot j) ∧
        Ended s t q tag .success 0x00 0)) ∧
    (Sqe.subop o.sqe = 3 → (s.hslot (Sqe.kslot o.sqe)).load = none →
      Completes (.hmacZeroise q tag true) s (fun t =>
        (t.hslot (Sqe.kslot o.sqe)).cur = none ∧ (t.hslot (Sqe.kslot o.sqe)).old = none ∧
        (t.hslot (Sqe.kslot o.sqe)).load = none ∧ (∀ j, j ≠ Sqe.kslot o.sqe → t.hslot j = s.hslot j) ∧
        Ended s t q tag .success 0x00 0)))

/-! ### The CAM (16) -/

/-- A CAM command on its request block may run: it is alone of its queue, its LENGTH is 48, its context lies in the instance's
range, and no change of the table is under way (R381, R393, R394). -/
def Obligations.CamCommandsChangeEntries : Prop :=
  ∀ (s : State) (q tag k i : Nat) (o : Op) (p : Place) (b : Bytes), DataHere s q tag o (camOwn o.sqe) → s.hq.cqAnswer = true →
    Posting s q → o.slack = false → Sqe.opcode o.sqe = 0x0C →
    s.camEarlier q o = false → s.cam.changing = false → s.cam.placing = [] →
    (s.inst o.inst).hasCam (camReq b).ctx = true → (s.inst o.inst).camAz128 = false →
    (Sqe.subop o.sqe = 1 → ((s.cam.regionEntries (s.inst o.inst)).any (fun f => f.2.same (camReq b).place)) = false →
      (s.cam.regionEntries (s.inst o.inst)).length < (s.inst o.inst).camQuota →
      s.cam.nativeRoom (s.inst o.inst) (camReq b).place = some (k, []) → s.cam.inServ k = true → (s.place k).valid = false →
      Completes (.camInsert q tag (.ok b) true) s (fun t =>
        t.place k = (camReq b).place ∧ (∀ j, j ≠ k → t.place j = s.place j) ∧ Ended s t q tag .success 0x00 0)) ∧
    (Sqe.subop o.sqe = 2 → s.cam.target (s.inst o.inst) (camReq b) = .ok (some (k, p)) → s.cam.entryAt k = some (i, p) →
      Completes (.camDelete q tag (.ok b) true) s (fun t =>
        t.place i = {} ∧ (∀ j, j ≠ i → t.place j = s.place j) ∧ Ended s t q tag .success 0x00 0)) ∧
    (Sqe.subop o.sqe = 3 → s.cam.target (s.inst o.inst) (camReq b) = .ok (some (k, p)) → s.cam.entryAt k = some (i, p) →
      Completes (.camUpdate q tag (.ok b) true) s (fun t =>
        t.place i = { p with result := (camReq b).result } ∧ (∀ j, j ≠ i → t.place j = s.place j) ∧
        Ended s t q tag .success 0x00 0)) ∧
    (Sqe.subop o.sqe = 4 → s.cam.target (s.inst o.inst) (camReq b) = .ok (some (k, p)) →
      Completes (.camRead q tag (.ok b) .ok true) s (fun t =>
        .auxWrite q tag (Sqe.aptr o.sqe) (s.queue q).pasid (p.block 0) ∈ t.out ∧ t.cam = s.cam ∧ Ended s t q tag .success 0x00 0)) ∧
    (Sqe.subop o.sqe = 5 →
      Completes (.camClear q tag (.ok b) true) s (fun t =>
        t.cam.places = ((((s.cam.regionEntries (s.inst o.inst)).filter (fun e => decide (e.2.ctx = (camReq b).ctx))).map
          (·.1)).foldl (fun c k => c.clear k) s.cam).places ∧
        Ended s t q tag .success 0x00 (BitVec.ofNat 64
          ((s.cam.regionEntries (s.inst o.inst)).filter (fun e => decide (e.2.ctx = (camReq b).ctx))).length)))

/-- CAM_SEARCH joins the requests of the host queue engine's port; SEARCH_START grants the next port in turn and looks the key up
in the table as it stands; SEARCH_RESPONSE completes the command with the result of the winner, or with NO_MATCH, and sets
TL_EVP.CAM of a core whose item searched (R241, R382 to R385, R393, R395). A move copies an entry to its new index and empties
the old one (R387); the end of the placing of a failed segment lets its held searches go on (R429); the parity scan counts and
reports what it finds, and a second failure of a segment within 1 s takes the segment out of service (R428). -/
def Obligations.CamSearchesMovesAndFailures : Prop :=
  (∀ (s : State) (q tag p : Nat) (o : Op) (b : Bytes) (x : Search) (rest : List Search),
    (DataHere s q tag o (camOwn o.sqe) → s.hq.cqAnswer = true → Sqe.opcode o.sqe = 0x0C → Sqe.subop o.sqe = 0 →
      s.camEarlier q o = false → (s.inst o.inst).hasCam (camReq b).ctx = true →
      (s.inst o.inst).camAz128 = false → (mget [] s.cam.waiting 8).all (fun y => decide (y.cmd ≠ some (q, tag))) = true →
      s.cam.flying.all (fun y => decide (y.cmd ≠ some (q, tag))) = true →
      Completes (.camSearch q tag (.ok b) true) s (fun t =>
        (∃ y, mget [] t.cam.waiting 8 = mget [] s.cam.waiting 8 ++ [y] ∧ y.key = (camReq b).key ∧ y.ctx = (camReq b).ctx ∧
          y.cmd = some (q, tag)) ∧ t.cam.places = s.cam.places)) ∧
    (p < 9 → s.cam.nextPort = p → s.portSearch p = some (x, rest) →
      Completes .searchStart s (fun t =>
        (∃ y, t.cam.flying = s.cam.flying ++ [y] ∧ y.resp = some (s.camResponse x.inst x.key x.ctx) ∧ y.cmd = x.cmd ∧
          y.core = x.core) ∧
        mget [] t.cam.waiting p = rest ∧ t.cam.nextPort = (p + 1) % 9 ∧ t.cam.searches = s.cam.searches + 1 ∧
        t.cam.places = s.cam.places ∧ t = { s with cam := t.cam })) ∧
    (s.cam.flying = x :: rest → x.core = none → x.cmd = some (q, tag) → s.op q tag = some o → s.hq.cqAnswer = true →
      Posting s q → o.slack = false → Sqe.aptr o.sqe = 0 →
      Completes (.searchResponse .ok true) s (fun t =>
        t.cam.flying = rest ∧ t.now = Nat.max s.now (x.startAt + 23) ∧
        Ended s t q tag .success (if respHit (x.resp.getD 0) then 0x00 else 0x03) (respResult (x.resp.getD 0)))) ∧
    (∀ (c n : Nat) (a : Word) (me : Item), s.cam.flying = x :: rest → x.core = some (c, n, a) → (s.core c).item = some me → me.seq = n →
      s.hq.cqAnswer = true → Completes (.searchResponse .ok true) s (fun t =>
        t.cam.flying = rest ∧ t.now = Nat.max s.now (x.startAt + 23) ∧ bit (t.core c).evp 2 = true ∧
        (t.core c).camsOut = (s.core c).camsOut - 1 ∧ t.hq = s.hq))) ∧
  (∀ (s : State) (i j k seg : Nat) (x : Place) (l : List (Nat × Nat)),
    (s.cam.placing = [] → s.cam.moves = (i, j) :: (k, k) :: l → s.cam.entryAt i = some (i, x) → i ≠ j → s.hq.cqAnswer = true →
      s.cam.inServ j = true → (s.place j).valid = false →
      Completes (.camMove true) s (fun t =>
        t.cam.moves = (k, k) :: l ∧ t.place j = { x with old := none } ∧ t.place i = {} ∧
        (∀ n, n ≠ i → n ≠ j → t.place n = s.place n) ∧ t.cam.moved = (s.cam.moved + 1) % 4294967296 ∧
        t = { s with cam := t.cam })) ∧
    (s.cam.scanEn = true → k < Config.camPlaces → bit s.cam.inService (k / Config.camSegPlaces) = true →
      mget 0 s.cam.failAt (k / Config.camSegPlaces) = 0 → s.hq.dramPresent = true →
      Completes (.camParityScan (some k)) s (fun t =>
        t.cam.parity = satAdd 65535 s.cam.parity 1 ∧ t.cam.errValid = true ∧
        t.cam.errSeg = BitVec.ofNat 4 (k / Config.camSegPlaces) ∧ t.cam.places = s.cam.places ∧ t = { s.raise 0x90B with cam := t.cam })) ∧
    (s.cam.scanEn = true → k < Config.camPlaces → bit s.cam.inService (k / Config.camSegPlaces) = true →
      mget 0 s.cam.failAt (k / Config.camSegPlaces) ≠ 0 →
      s.now + 1 < mget 0 s.cam.failAt (k / Config.camSegPlaces) + 1000000000 → s.hq.dramPresent = true →
      Completes (.camParityScan (some k)) s (fun t =>
        bit t.cam.inService (k / Config.camSegPlaces) = false ∧ t.cam.placing = s.cam.placing ++ [k / Config.camSegPlaces] ∧
        (∀ n, n / Config.camSegPlaces = k / Config.camSegPlaces → t.place n = {}))) ∧
    (s.cam.placing.contains seg = true → s.cam.directory.all (fun e => decide (e.1 / Config.camSegPlaces ≠ seg)) = true →
      s.ld.runs = [] → s.ld.regions = [] → s.tiles = [] →
      Completes (.camSegmentPlacingDone seg) s (fun t =>
        t.cam.placing.contains seg = false ∧ t.cam.places = s.cam.places ∧ t.cam.directory = s.cam.directory)))

/-- The winner of a search is the matching place with the lowest PRIO and the lowest index among those; COUNT is the number of
matching places at its PRIO, saturating at 255, and MULTI says that it is 2 or more (R383). -/
def Obligations.CamWinner : Prop :=
  ∀ (s : State) (key : BitVec 128) (ctx inst : Nat),
    let hits := s.cam.live.filter (fun e => e.2.2.hits key ctx);
    (s.cam.winner key ctx = none ↔ hits = []) ∧
    (∀ k x n, s.cam.winner key ctx = some (k, x, n) →
      (∃ i, (k, i, x) ∈ hits) ∧ (∀ e ∈ hits, x.prio < e.2.2.prio ∨ (x.prio = e.2.2.prio ∧ k ≤ e.1)) ∧
      n = Nat.min 255 (hits.filter (fun e => decide (e.2.2.prio = x.prio))).length ∧
      respMulti (s.camResponse inst key ctx) = decide (2 ≤ n))

/-! ### Custodian commands (03) -/

/-- INSTANCE_CREATE gives the instance the lowest free extents, every slab of them EMPTY, and its quota (R83, R91); INSTANCE_RESET
and INSTANCE_DELETE put it into RESETTING, drain its queues and, without KEEP, zeroise its key slots (R47, R49, R354); they
complete once nothing of the instance is left, ACTIVE again after a reset and FREE after a delete (R47, R49); 5 ms after the
start what is left is a leak, returned with its health event (R443). -/
def Obligations.InstanceLifecycle : Prop :=
  ∀ (s : State) (q tag i : Nat) (o : Op), s.hq.cqAnswer = true → Posting s q → 1 ≤ i →
    (Startable s q tag o → o.slack = false → flagsOk o.sqe = true → Sqe.opcode o.sqe = 0x80 → fInstance o.sqe = i →
      32 ≤ Sqe.field o.sqe 44 4 → Sqe.field o.sqe 44 4 ≤ 65536 → (s.inst i).st = .free →
      s.slabSum + Sqe.field o.sqe 40 4 ≤ s.st.exported →
      (let ex := lowestFree s.allExtents Config.slabEntries 8 0 (Sqe.field o.sqe 40 4);
        covered ex = Sqe.field o.sqe 40 4 → s.journalRoom 8 = true →
        (s.spareReserve : Int) + Sqe.field o.sqe 40 4 ≤ s.sparePool → mwf {} s.hq.insts = true →
        (∀ e ∈ s.st.slabs, ex.any (fun x => decide (x.1 ≤ e.1 ∧ e.1 < x.1 + x.2)) = false) →
        Completes (.instanceCreate q tag true) s (fun t =>
          t.inst i = { s.inst i with st := .active, quota := Sqe.field o.sqe 44 4, extents := ex } ∧ (∀ ti, t.slab ti = s.slab ti) ∧
          t.st.exported = s.st.exported ∧ Ended s t q tag .success 0x00 0))) ∧
    (∀ n keep, Startable s q tag o → flagsOk o.sqe = true → fInstance o.sqe = i → (s.inst i).st = .active → Quiet s →
      s.tiles = [] → s.ld.regions = [] → (∀ e ∈ s.hq.ops, ∀ a, e.2 = some a → a.inst ≠ i ∧ a.keyGen = none) →
      (∀ e ∈ s.keys.cipher, e.2.load = none) → (∀ e ∈ s.keys.hmac, e.2.load = none) →
      (Sqe.opcode o.sqe = 0x82 → keep = decide (Sqe.field o.sqe 37 1 % 2 = 1) →
        Completes (.instanceReset q tag true) s (fun t =>
          t.inst i = { s.inst i with st := .resetting, prior := .active, resetOp := some (q, tag), resetAt := s.now,
                                     resetDelete := false, keepKeys := keep } ∧
          (n ≠ 0 → (s.queue n).inst = i → (s.queue n).listens = true →
            (t.queue n).st = .draining ∧ (t.queue n).drain = .instReset) ∧
          (keep = false → ∀ k, (s.inst i).hasCipher k = true → (t.cslot k).cur = none) ∧
          (keep = true → mwf {} s.keys.cipher = true → mwf {} s.keys.hmac = true → ∀ k, t.cslot k = s.cslot k ∧ t.hslot k = s.hslot k))) ∧
      (Sqe.opcode o.sqe = 0x81 → s.journalRoom 8 = true →
        Completes (.instanceDelete q tag true) s (fun t =>
          t.inst i = { s.inst i with st := .resetting, prior := .active, resetOp := some (q, tag), resetAt := s.now,
                                     resetDelete := true, keepKeys := false } ∧
          (n ≠ 0 → (s.queue n).inst = i → (s.queue n).listens = true →
            (t.queue n).st = .draining ∧ (t.queue n).drain = .instDelete) ∧
          (∀ k, (s.inst i).hasCipher k = true → (t.cslot k).cur = none)))) ∧
    (s.op q tag = some o → o.slack = false → (s.inst i).st = .resetting → (s.inst i).resetOp = some (q, tag) →
      (∀ e ∈ s.hq.queues, e.2.inst ≠ i ∨ e.2.st ≠ .draining) → (∀ e ∈ s.hq.ops, ∀ a, e.2 = some a → a.inst ≠ i) →
      ((s.inst i).resetDelete = false → Completes (.instanceResetComplete i true) s (fun t =>
        t.inst i = { s.inst i with st := .active, resetOp := none, resetAt := 0, resetDelete := false, keepKeys := false,
                                   prior := .active } ∧ Ended s t q tag .success 0x00 0)) ∧
      ((s.inst i).resetDelete = true → Quiet s → s.slabsOf i = [] → (s.spareReserve : Int) ≤ s.sparePool → mwf {} s.hq.insts = true →
        Completes (.instanceResetComplete i true) s (fun t =>
          t.inst i = {} ∧ (∀ h, h < 65536 → t.prog i h = none) ∧ Ended s t q tag .success 0x00 0))) ∧
    ((s.inst i).st = .resetting → (∀ e ∈ s.hq.ops, ∀ a, e.2 = some a → a.inst ≠ i) → s.flowsOf i ≠ 0 →
      Completes (.instanceResetTimeout i) s (fun t =>
        t.now = Nat.max s.now ((s.inst i).resetAt + 5000000) ∧ t.health.mismatches = s.health.mismatches + 1 ∧
        (∃ e, t.health.events.head? = some e ∧ e.kind = 0x80 ∧ e.arg = 5) ∧
        (∀ e ∈ t.ld.flows, ∀ f, e.2 = some f → f.inst ≠ i)))

/-- QUEUE_CREATE makes the queue ACTIVE with its pointers at 0, phase 1 and the class, weight, vector, rings and PASID it was
given (R33, R38, R46, R83); QUEUE_DELETE puts it into DRAINING (R38, R83); the other queues but the custodian's own stay. -/
def Obligations.QueueCommands : Prop :=
  ∀ (s : State) (q tag n : Nat) (o : Op), Startable s q tag o → Posting s q → s.hq.cqAnswer = true → o.slack = false →
    flagsOk o.sqe = true → Sqe.field o.sqe 36 2 = n → 1 ≤ n → n ≤ 4095 →
    (∀ i, Sqe.opcode o.sqe = 0x83 → Sqe.field o.sqe 38 1 = i → 1 ≤ Sqe.field o.sqe 40 1 → bits (Sqe.dptr o.sqe) 0 12 = 0 →
      bits (Sqe.aptr o.sqe) 0 12 = 0 → (s.queue n).st = .disabled → (s.inst i).st ≠ .free →
      (Sqe.field o.sqe 42 2 % 2048 ≠ 0 ∨ i = 0) →
      (∀ k, k < 4 → ∀ j, s.frameInst (n / 4 * 4 + k) = some j → j = i) →
      Completes (.queueCreate q tag true) s (fun t =>
        t.queue n = { st := .active, inst := i, cls := BitVec.ofNat 2 (Sqe.field o.sqe 39 1),
                      weight := BitVec.ofNat 8 (Sqe.field o.sqe 40 1), vector := BitVec.ofNat 11 (Sqe.field o.sqe 42 2),
                      pasid := (s.inst i).pasid, sqBase := Sqe.dptr o.sqe, cqBase := Sqe.aptr o.sqe, phase := true } ∧
        (∀ k, k ≠ n → k ≠ q → t.queue k = s.queue k) ∧ Ended s t q tag .success 0x00 0 ∧
        t = { s with hq := t.hq, pw := t.pw, out := t.out })) ∧
    (Sqe.opcode o.sqe = 0x84 → n ≠ q → (s.queue n).listens = true → s.unstarted n = [] →
      Completes (.queueDelete q tag true) s (fun t =>
        t.queue n = { s.queue n with st := .draining, restartPending := false, flushPending := false, marks := 0, drain := .delete } ∧
        (∀ k, k ≠ n → k ≠ q → t.queue k = s.queue k) ∧ Ended s t q tag .success 0x00 0 ∧
        t = { s with hq := t.hq, pw := t.pw, out := t.out }))

/-- PASID_BIND and its UNBIND set and clear an instance's PASID (R45, R83); KEY_GRANT and CAM_GRANT give it ranges, its removed
key slots empty (R83, R354, R381, R386); MODERATE sets a vector's count and window (R51). -/
def Obligations.GrantsAndModeration : Prop :=
  ∀ (s : State) (q tag i : Nat) (o : Op), Startable s q tag o → Posting s q → s.hq.cqAnswer = true → o.slack = false →
    flagsOk o.sqe = true → fInstance o.sqe = i →
    (Sqe.opcode o.sqe = 0x85 → 1 ≤ i → s.queuesOff i = true →
      (Sqe.field o.sqe 40 4 < 2147483648 →
        s.hq.insts.all (fun x => decide (x.1 = i ∨ x.2.pasid ≠ some (BitVec.ofNat 20 (Sqe.field o.sqe 40 4)))) = true →
        Completes (.pasidBind q tag true) s (fun t =>
          t.inst i = { s.inst i with pasid := some (BitVec.ofNat 20 (Sqe.field o.sqe 40 4)) } ∧
          (∀ j, j ≠ i → t.inst j = s.inst j) ∧ Ended s t q tag .success 0x00 0 ∧
          t = { s with hq := t.hq, pw := t.pw, out := t.out })) ∧
      (2147483648 ≤ Sqe.field o.sqe 40 4 →
        Completes (.pasidUnbind q tag true) s (fun t =>
          t.inst i = { s.inst i with pasid := none } ∧ (∀ j, j ≠ i → t.inst j = s.inst j) ∧ Ended s t q tag .success 0x00 0 ∧
          t = { s with hq := t.hq, pw := t.pw, out := t.out }))) ∧
    (∀ cb cn hb hn, Sqe.opcode o.sqe = 0x86 → Sqe.field o.sqe 40 2 = cb → Sqe.field o.sqe 42 2 = cn → Sqe.field o.sqe 44 2 = hb →
      Sqe.field o.sqe 46 2 = hn → cb + cn ≤ 4096 → hb + hn ≤ 256 → (hn = 0 ∨ hb + hn ≤ 254) →
      s.hq.insts.all (fun x => decide (x.1 = i) ||
        !(rangesShare cb cn x.2.keyBase x.2.keyCount || rangesShare hb hn x.2.hmacBase x.2.hmacCount)) = true →
      s.ld.runs = [] → (∀ e ∈ s.hq.ops, ∀ a, e.2 = some a → a.keyGen = none) →
      (∀ e ∈ s.keys.cipher, e.2.load = none) → (∀ e ∈ s.keys.hmac, e.2.load = none) →
      Completes (.keyGrant q tag true) s (fun t =>
        t.inst i = { s.inst i with keyBase := cb, keyCount := cn, hmacBase := hb, hmacCount := hn } ∧
        (∀ j, j ≠ i → t.inst j = s.inst j) ∧
        (∀ k, (s.inst i).hasCipher k = true → (k < cb ∨ cb + cn ≤ k) → (t.cslot k).cur = none) ∧
        (∀ k, (s.inst i).hasCipher k = false ∨ (cb ≤ k ∧ k < cb + cn) → t.cslot k = s.cslot k) ∧
        Ended s t q tag .success 0x00 0)) ∧
    (∀ y, Sqe.opcode o.sqe = 0x87 → Sqe.field o.sqe 40 2 + Sqe.field o.sqe 42 2 ≤ 65536 →
      s.hq.insts.all (fun x => decide (x.1 = i) ||
        !rangesShare (Sqe.field o.sqe 40 2) (Sqe.field o.sqe 42 2) x.2.camBase x.2.camCount) = true →
      s.camGranted i o.sqe = some y → s.cam.changing = false → s.cam.placing = [] →
      s.cam.regionEntries (s.inst i) = [] →
      Completes (.camGrant q tag true) s (fun t =>
        t.inst i = { s.inst i with
          camBase := Sqe.field o.sqe 40 2, camCount := Sqe.field o.sqe 42 2, camQuota := Sqe.field o.sqe 44 4
          camAz128 := decide (Sqe.subop o.sqe = 1), camStart := y.camStart, camLen := y.camLen, camGap := y.camGap } ∧
        (∀ j, j ≠ i → t.inst j = s.inst j) ∧ Ended s t q tag .success 0x00 0)) ∧
    (∀ v, Sqe.opcode o.sqe = 0x88 → Sqe.field o.sqe 36 2 % 2048 = v → 1 ≤ Sqe.field o.sqe 38 1 → Sqe.field o.sqe 38 1 ≤ 32 →
      Sqe.field o.sqe 40 2 ≤ 1000 →
      Completes (.moderate q tag true) s (fun t =>
        (t.vec v).count = Sqe.field o.sqe 38 1 ∧ (t.vec v).window = Sqe.field o.sqe 40 2 ∧
        (∀ k, k ≠ v → (t.vec k).count = (s.vec k).count ∧ (t.vec k).window = (s.vec k).window) ∧
        Ended s t q tag .success 0x00 0 ∧ t = { s with hq := t.hq, pw := t.pw, out := t.out }))

/-- LOG_READ gives the error log page of a queue (R32) or the health report (R439), DICT_READ an entry's value (R463, R477), cut
at LENGTH, which is the RESULT (R83); DICT_WRITE of a persistent entry puts the value in force and asks for a save, and
CONFIG_SAVE_DONE puts the other copy in force with the next SEQ and completes the command (R460, R466). -/
def Obligations.LogsAndDictionary : Prop :=
  ∀ (s : State) (q tag : Nat) (o : Op), s.hq.cqAnswer = true → Posting s q → o.slack = false → flagsOk o.sqe = true →
    dptrOk o.sqe = true →
    (DataHere s q tag o none → Sqe.opcode o.sqe = 0x89 → Sqe.subop o.sqe = 0 → Sqe.field o.sqe 36 2 ≤ 4095 →
      (let b := (s.queue (Sqe.field o.sqe 36 2)).elog.bytes.take (Sqe.length o.sqe);
        Completes (.logReadErrorLog q tag .ok true) s (fun t =>
          .hostWrite q tag 0 (s.queue q).pasid b ∈ t.out ∧ Ended s t q tag .success 0x00 (BitVec.ofNat 64 b.length) ∧
          t = { s with hq := t.hq, pw := t.pw, out := t.out }))) ∧
    (DataHere s q tag o none → Sqe.opcode o.sqe = 0x89 → Sqe.subop o.sqe = 1 →
      Completes (.logReadHealthReport q tag .ok true) s (fun t =>
        .hostWrite q tag 0 (s.queue q).pasid (s.healthReport.take (Sqe.length o.sqe)) ∈ t.out ∧
        Ended s t q tag .success 0x00 (BitVec.ofNat 64 (s.healthReport.take (Sqe.length o.sqe)).length) ∧
        t = { s with hq := t.hq, pw := t.pw, out := t.out })) ∧
    (∀ x, DataHere s q tag o none → Sqe.opcode o.sqe = 0x8A → Sqe.subop o.sqe = 0 →
      s.accessStatus 2 (Sqe.field o.sqe 40 4) false = (dOK, some x) →
      Completes (.dictRead q tag .ok true) s (fun t =>
        .hostWrite q tag 0 (s.queue q).pasid ((s.entryValue x).take (Sqe.length o.sqe)) ∈ t.out ∧
        Ended s t q tag .success 0x00 (BitVec.ofNat 64 ((s.entryValue x).take (Sqe.length o.sqe)).length) ∧
        t = { s with hq := t.hq, pw := t.pw, out := t.out })) ∧
    (∀ x b, DataHere s q tag o none → Sqe.opcode o.sqe = 0x8A → Sqe.subop o.sqe = 1 → o.checked = false →
      s.accessStatus 2 (Sqe.field o.sqe 40 4) true = (dOK, some x) → x.sizeOk (Sqe.length o.sqe) = true → x.cls = .p →
      keyEntry x.num = false → x.num ≠ 0x010001 → s.rangeOk x (slice b 0 (Sqe.length o.sqe)) = true → s.dict.saving = none →
      Quiet s →
      (let u : State := { s with dict := { s.dict with vals := mset [] s.dict.vals x.num (slice b 0 (Sqe.length o.sqe)) } };
        (u.spareReserve : Int) ≤ u.sparePool) →
      Completes (.dictWrite q tag (.ok b) true) s (fun t =>
        mget [] t.dict.vals x.num = slice b 0 (Sqe.length o.sqe) ∧ t.dict.saving = some [.cmd q tag] ∧
        (∃ y, t.op q tag = some y ∧ y.checked = true))) ∧
    (s.op q tag = some o → Sqe.opcode o.sqe = 0x8A → o.checked = true → s.dict.saving = some [.cmd q tag] → s.dict.nextSave = [] →
      s.dict.inForce = 0 → Completes (.configSaveDone true) s (fun t =>
        t.dict.inForce = 1 ∧ t.dict.copyB = copyBytes (copySeq s.dict.copyA + 1) s.dict.base s.dict.names s.dict.overlays ∧ .norCopy 1 t.dict.copyB ∈ t.out ∧
        t.dict.copyA = s.dict.copyA ∧ t.dict.saving = none ∧ Ended s t q tag .success 0x00 0))

/-! None -/

/-- ABORT of a command that has not started ends it aborted with code 0x60 and completes after it; of a slot not yet fetched it
marks the slot; of a command that has completed it gives ALREADY_COMPLETE (R79, R80, R82). SELF_TEST starts its test, one at a
time, and once nothing of the test is left to do its row completes the command, with the bands verified and the findings as
RESULT (R64, R86). A data command that has waited as long as the wait limit is refused NOT_READY, and its queue does not
freeze (R77, R88); a WRITE_CLOSED instance whose spare pool has been at or above the reserve for 1 s is ACTIVE again, with
health event 0x62 (R120, R438). -/
def Obligations.AbortsTestsAndWaits : Prop :=
  (∀ (s : State) (q tag tq tt : Nat) (o x : Op), Startable s q tag o → Posting s q → s.hq.cqAnswer = true → o.slack = false →
    Sqe.opcode o.sqe = 0x0D → s.abortOwn q o.sqe o = none → abortQueue o.sqe = tq → abortTag o.sqe = tt →
    (s.op tq tt = some x → x.started = false → x.slack = false → tq ≠ q → Posting s tq → s.ld.runs = [] →
      Completes (.abort q tag true) s (fun t =>
        Ended s t tq tt .aborted 0x60 0 ∧ Ended s t q tag .success 0x00 0 ∧ (∀ k, k ≠ q → k ≠ tq → t.queue k = s.queue k))) ∧
    (s.op tq tt = some x → x.started = false → x.slack = false → tq = q → s.ld.runs = [] →
      Completes (.abort q tag true) s (fun t =>
        nextEntry s q tt .aborted 0x60 0 false ∈ t.out ∧ t.op q tt = none ∧ t.op q tag = none ∧
        (t.queue q).cqTail = (s.queue q).cqTail + 2 ∧ (∀ k, k ≠ q → t.queue k = s.queue k))) ∧
    (s.op tq tt = none → (tt + 32 - (s.queue tq).sqHead.toNat) % 32 < (s.queue tq).unfetched → (s.queue tq).listens = true →
      Completes (.abort q tag true) s (fun t =>
        (t.queue tq).marks = setBit (s.queue tq).marks tt true ∧
        (tq ≠ q → t.queue tq = { s.queue tq with marks := setBit (s.queue tq).marks tt true }) ∧
        Ended s t q tag .success 0x00 0 ∧ (∀ k, k ≠ q → k ≠ tq → t.queue k = s.queue k))) ∧
    (s.op tq tt = none → (s.queue tq).unfetched ≤ (tt + 32 - (s.queue tq).sqHead.toNat) % 32 →
      Completes (.abort q tag true) s (fun t =>
        Ended s t q tag .success 0x01 0 ∧ (∀ k, k ≠ q → t.queue k = s.queue k) ∧ t = { s with hq := t.hq, pw := t.pw, out := t.out }))) ∧
  (∀ (s : State) (q tag : Nat) (o : Op), s.op q tag = some o → s.hq.cqAnswer = true → Posting s q → Sqe.opcode o.sqe = 0x8D →
    (Startable s q tag o → flagsOk o.sqe = true → s.stew.selfTest = none →
      (Sqe.subop o.sqe = 0 → Completes (.selfTestShort q tag true) s (fun t =>
        (∃ x, t.stew.selfTest = some x ∧ x.q = q ∧ x.tag = tag ∧ x.extended = false) ∧
        (∃ x, t.op q tag = some x ∧ x.started = true))) ∧
      (Sqe.subop o.sqe = 1 → Completes (.selfTestExtended q tag true) s (fun t =>
        (∃ x, t.stew.selfTest = some x ∧ x.q = q ∧ x.tag = tag ∧ x.extended = true) ∧
        (∃ x, t.op q tag = some x ∧ x.started = true)))) ∧
    (∀ x : SelfTest, o.started = true → s.stew.selfTest = some x → x.q = q → x.tag = tag → x.todo = [] →
      s.countCmds (fun m => decide (m.why = .selfTest)) = 0 →
      s.st.verifies.all (fun e => match e.2 with | some v => !v.test | none => true) = true →
      (Sqe.subop o.sqe = 0 → Completes (.selfTestShort q tag true) s (fun t => t.stew.selfTest = none ∧
        Ended s t q tag .success 0x00 (BitVec.ofNat 64 (x.verified % 2 ^ 32 + (s.health.nEvents - x.found) % 65536 * 2 ^ 32)))) ∧
      (Sqe.subop o.sqe = 1 → Completes (.selfTestExtended q tag true) s (fun t => t.stew.selfTest = none ∧
        Ended s t q tag .success 0x00 (BitVec.ofNat 64 (x.verified % 2 ^ 32 + (s.health.nEvents - x.found) % 65536 * 2 ^ 32)))))) ∧
  (∀ (s : State) (q tag i w : Nat) (o : Op),
    (s.op q tag = some o → o.slack = false → o.waiting = some w → s.hq.cqAnswer = true → Posting s q →
      Completes (.readWaitLimit q tag true) s (fun t =>
        t.now = Nat.max s.now (w + 1000000 * s.waitLimitMs) ∧ (t.queue q).st = .active ∧ Ended s t q tag .refused 0x1D 0)) ∧
    ((s.inst i).st = .writeClosed → (s.inst i).spareOkSince = some w → (s.spareReserve : Int) ≤ s.sparePool →
      Completes (.writeClosedReopen i) s (fun t =>
        t.now = Nat.max s.now (w + 1000000000) ∧ t.inst i = { s.inst i with st := .active, spareOkSince := none } ∧
        (∀ j, j ≠ i → t.inst j = s.inst j) ∧ t.health.nEvents = s.health.nEvents + 1 ∧
        (∃ e, t.health.events.head? = some e ∧ e.kind = 0x62 ∧ e.arg = BitVec.ofNat 64 i))))

/-- FORMAT ends in its row where the journal buffer has room for all that the slabs hold: no slab is then OPEN or FULL, the
exported count is that of R92 less what R117 retires, and keys, queues and instances stay (R84, R91, R92); SANITIZE also
empties every key slot, the CAM and the program stores (R84, R232, R354), and goes on erasing bands until every one is erased
(R85). -/
def Obligations.FormatAndSanitize : Prop :=
  ∀ (s : State) (q tag : Nat) (o : Op), Startable s q tag o → Posting s q → s.hq.cqAnswer = true → o.slack = false →
    flagsOk o.sqe = true → s.guestsOff = true → s.storeIdle q tag = true →
    (∀ e ∈ s.hq.ops, ∀ a, e.2 = some a → a.started = true → Sqe.opcode a.sqe ≠ 0x8B ∧ Sqe.opcode a.sqe ≠ 0x8C) →
    (Sqe.opcode o.sqe = 0x8B → Quiet s → mwf ({} : Slab) s.st.slabs = true →
      s.journalRoom (16 + s.st.slabs.length * (4 + s.st.logs.length) + s.st.exts.length) = true →
      (∀ e ∈ s.st.slabs, e.2.st = .opened ∨ e.2.st = .full → (s.band e.2.region e.2.band).st ≠ .free) →
      (∀ e ∈ s.st.logs, ∀ l, e.2 = some l → (s.band l.region l.band).st ≠ .free) →
      Completes (.format q tag true) s (fun t =>
        (∀ ti, (t.slab ti).st = .empty ∨ (t.slab ti).st = .retired) ∧ (∀ ti, (t.slab ti).wp = 0) ∧
        t.st.exported ≤ s.exportedCount ∧ t.st.descs = [] ∧ t.keys = s.keys ∧ t.st.formatting = false ∧
        (∀ k, k ≠ q → t.queue k = s.queue k) ∧ Ended s t q tag .success 0x00 0)) ∧
    (Sqe.opcode o.sqe = 0x8C → s.st.sanitizing = false → s.st.formatting = false → s.cam.changing = false → s.ld.runs = [] →
      (∀ e ∈ s.hq.ops, ∀ a, e.2 = some a → a.keyGen = none) →
      (∀ e ∈ s.keys.cipher, e.2.load = none) → (∀ e ∈ s.keys.hmac, e.2.load = none) →
      Completes (.sanitize q tag true) s (fun t =>
        (∀ k, k < 4096 → (t.cslot k).cur = none) ∧ (∀ k, k < 256 → (t.hslot k).cur = none) ∧ t.cam.places = [] ∧ t.ld.progs = [] ∧
        ((t.st.sanitizing = true ∧ (∃ x, t.op q tag = some x ∧ x.started = true)) ∨
         (t.st.sanitizing = false ∧ Ended s t q tag .success 0x00 0))))

/-! ### The field network (21) -/

/-- An unauthenticated request is served with the observer role: READ gives the whole value, BREAD a part of it, and a write is
DENIED without effect (R465, R467, R472, R476); every request that reaches the port raises source 0x90E (R415). A write
accepted from an authenticated role takes the request's counter and puts the value in force, to be answered when its save is
done (R460, R466, R474, R478); a block write gathers its parts until LAST (R476) and is discarded 10 s after its last part
(R476); NOTIFY sends one frame and clears what was due (R479). -/
def Obligations.NetworkReadsAndWrites : Prop :=
  (∀ (s : State) (port : Nat) (f c : Bytes) (x : DEntry), port < 2 → s.stew.boot = .firmware → s.param 0x0A0003 0 / 2 ^ port % 2 = 0 →
    f.take 6 = s.macBytes → ethType f = [0x88, 0xB5] → c = ethClient f → s.targetOf 0x90E = none → kdpLengthOk c = true → kdpFormatOk c = true → kRole c = 0 →
    (let u := (s.wakeUp).raise 0x90E;
      (kOp c = 1 → kLen c = 0 → s.accessStatus 0 (kEntry c) false = (dOK, some x) → (u.entryValue x).length ≤ 1024 →
        Completes (.kdpRead port f) s (fun t =>
          t = u.emit (.kdp port (ethFrame (ethSrc f) u.macBytes (u.kdpFrame c dOK (u.entryValue x)))) ∧ t.dict = s.dict ∧ t.stewInt.lost = true)) ∧
      (kOp c = 3 → s.accessStatus 0 (kEntry c) false = (dOK, some x) → kOffset c + kLen c ≤ (u.entryValue x).length →
        Completes (.kdpBread port f) s (fun t =>
          t = u.emit (.kdp port (ethFrame (ethSrc f) u.macBytes (u.kdpFrame c dOK (slice (u.entryValue x) (kOffset c) (kLen c))))) ∧ t.dict = s.dict)) ∧
      (kOp c = 2 → Completes (.kdpWrite port f) s (fun t =>
        t = u.emit (.kdp port (ethFrame (ethSrc f) u.macBytes (u.kdpFrame c dDENIED []))) ∧ t.dict = s.dict)) ∧
      (∀ ok, kOp c = 4 → Completes (.kdpBwrite port f ok) s (fun t =>
        t = u.emit (.kdp port (ethFrame (ethSrc f) u.macBytes (u.kdpFrame c dDENIED []))) ∧ t.dict = s.dict)))) ∧
  (∀ (s : State) (port : Nat) (f c : Bytes) (x : DEntry), port < 2 → s.stew.boot = .firmware →
    s.param 0x0A0003 0 / 2 ^ port % 2 = 0 →
    (f.take 6 = s.macBytes → ethType f = [0x88, 0xB5] → c = ethClient f → s.targetOf 0x90E = none → s.pw.st = .p0 → kdpLengthOk c = true → kdpFormatOk c = true → kRole c ≠ 0 →
      s.kdpAccept c = .go → s.accessStatus (kRole c) (kEntry c) true = (dOK, some x) → x.cls = .p → keyEntry x.num = false → x.num ≠ 0x010001 →
      s.dict.saving = none → Quiet s →
      (kOp c = 2 → x.sizeOk (slice c 32 (kLen c)).length = true → s.rangeOk x (slice c 32 (kLen c)) = true →
        (let u : State := { s with dict := { s.dict with vals := mset [] s.dict.vals x.num (slice c 32 (kLen c)) } };
          (u.spareReserve : Int) ≤ u.sparePool) →
        Completes (.kdpWrite port f) s (fun t =>
          mget [] t.dict.vals x.num = slice c 32 (kLen c) ∧ t.dict.saving = some [.kdp port (ethSrc f) (c.take 32) (kRole c)] ∧
          (t.role (kRole c)).counter = kCounter c ∧ (t.role (kRole c)).lastXid = some (kXid c))) ∧
      (∀ ok, kOp c = 4 → kFirst c = true → kOffset c = 0 → kLast c = false →
        Completes (.kdpBwrite port f ok) s (fun t =>
          (t.role (kRole c)).gather = some { entry := kEntry c, data := slice c 32 (kLen c), lastAt := s.now } ∧
          (t.role (kRole c)).counter = kCounter c ∧ t.dict.vals = s.dict.vals))) ∧
    (∀ r g, (s.role r).gather = some g → Completes (.kdpBwriteTimeout r) s (fun t =>
      t.now = Nat.max s.now (g.lastAt + 10000000000) ∧ t.role r = { s.role r with gather := none } ∧
      (∀ k, k ≠ r → t.role k = s.role k))) ∧
    (mget false s.dict.notifyDue port = true → Completes (.notify port) s (fun t =>
      (∃ g, t.out = .kdp port g :: s.out ∧ byteNat (ethClient g) 1 = 5 ∧
        leNat (slice (ethClient g) 32 4) = (mget 0 s.dict.notifyBits port).toNat ∧ (ethClient g).length = 46 ∧
        ethSrc g = s.macBytes ∧ ethType g = [0x88, 0xB5]) ∧
      mget false t.dict.notifyDue port = false ∧ mget 0 t.dict.notifyBits port = 0 ∧
      (mget 0 s.dict.notifyAt port ≠ 0 → mget 0 s.dict.notifyAt port - 1 + 100000000 ≤ t.now) ∧ s.now ≤ t.now ∧
      (∀ k, k ≠ port → mget false t.dict.notifyDue k = mget false s.dict.notifyDue k))))

/-! ### Pytan (09, 10) -/

/-- The arithmetic instructions: result and flags of each at its width (R225, R251). -/
def Obligations.ArithmeticResults : Prop :=
  ∀ (s : State) (c a b : Nat) (x : PyI) (u : State) (k : Core),
    let n := wbytes x.width;
    let m := 2 ^ (8 * n);
    let cy := if k.c then 1 else 0;
    let zn := fun (r : Nat) (cf vf : Option Bool) => ({ z := some (decide (r = 0)), n := some (r.testBit (8 * n - 1)), c := cf, v := vf } : FlagUp);
    (Reads s c 0x01 x a b u k → Gives (.mov c x) s c 0x01 x u k a (zn a none none)) ∧
    (Reads s c 0x02 x a b u k → Gives (.add c x) s c 0x02 x u k ((a + b) % m)
      (zn ((a + b) % m) (some (decide (m ≤ a + b))) (some (decide (sval n ((a + b) % m) ≠ sval n a + sval n b))))) ∧
    (Reads s c 0x03 x a b u k → Gives (.addc c x) s c 0x03 x u k ((a + b + cy) % m)
      (zn ((a + b + cy) % m) (some (decide (m ≤ a + b + cy))) (some (decide (sval n ((a + b + cy) % m) ≠ sval n a + sval n b + cy))))) ∧
    (Reads s c 0x04 x a b u k → Gives (.sub c x) s c 0x04 x u k (wrap n ((a : Int) - b))
      (zn (wrap n ((a : Int) - b)) (some (decide (a < b))) (some (decide (sval n (wrap n ((a : Int) - b)) ≠ sval n a - sval n b))))) ∧
    (Reads s c 0x05 x a b u k → Gives (.subc c x) s c 0x05 x u k (wrap n ((a : Int) - b - cy))
      (zn (wrap n ((a : Int) - b - cy)) (some (decide (a < b + cy)))
        (some (decide (sval n (wrap n ((a : Int) - b - cy)) ≠ sval n a - sval n b - cy))))) ∧
    (Reads s c 0x06 x a b u k → Gives (.neg c x) s c 0x06 x u k (wrap n (-(a : Int)))
      (zn (wrap n (-(a : Int))) (some (decide (0 < a))) (some (decide (sval n (wrap n (-(a : Int))) ≠ -sval n a))))) ∧
    (Reads s c 0x20 x a b u k → Gives (.mul c x) s c 0x20 x u k (a * b % m) (zn (a * b % m) (some false) (some false))) ∧
    (∀ r, Reads s c 0x21 x a b u k →
      r = (if bit x.cond 0 then wrap n (sval n a * sval n b / 2 ^ (8 * n)) else a * b / m) →
      Gives (.mulh c x) s c 0x21 x u k r (zn r (some false) (some false))) ∧
    (∀ r, Reads s c 0x22 x a b u k → r = (if (if bit x.cond 0 then decide (sval n b < sval n a) else decide (b < a)) then b else a) →
      Gives (.min c x) s c 0x22 x u k r (zn r none none)) ∧
    (∀ r, Reads s c 0x23 x a b u k → r = (if (if bit x.cond 0 then decide (sval n a < sval n b) else decide (a < b)) then b else a) →
      Gives (.max c x) s c 0x23 x u k r (zn r none none)) ∧
    (Reads s c 0x1D x a b u k → Gives (.widen c x) s c 0x1D x u k
      (wrap n (sval (2 ^ x.cond.toNat) (a % 2 ^ (8 * 2 ^ x.cond.toNat))))
      (zn (wrap n (sval (2 ^ x.cond.toNat) (a % 2 ^ (8 * 2 ^ x.cond.toNat)))) none none))

/-- The logic, shift, bit and count instructions, with counts taken modulo the width, and ADR, which takes an address and reads
nothing (R251, R252). -/
def Obligations.LogicAndShiftResults : Prop :=
  ∀ (s : State) (c a b : Nat) (x : PyI) (u : State) (k : Core),
    let n := wbytes x.width;
    let m := 2 ^ (8 * n);
    let j := b % (8 * n);
    let zn := fun (r : Nat) (cf vf : Option Bool) => ({ z := some (decide (r = 0)), n := some (r.testBit (8 * n - 1)), c := cf, v := vf } : FlagUp);
    let out := fun (x : Bool) => some (if j = 0 then false else x);
    (Reads s c 0x08 x a b u k → Gives (.and c x) s c 0x08 x u k (a &&& b) (zn (a &&& b) (some false) (some false))) ∧
    (Reads s c 0x09 x a b u k → Gives (.or c x) s c 0x09 x u k (a ||| b) (zn (a ||| b) (some false) (some false))) ∧
    (Reads s c 0x0A x a b u k → Gives (.xor c x) s c 0x0A x u k (a ^^^ b) (zn (a ^^^ b) (some false) (some false))) ∧
    (Reads s c 0x0B x a b u k → Gives (.andn c x) s c 0x0B x u k (a &&& (m - 1 - b)) (zn (a &&& (m - 1 - b)) (some false) (some false))) ∧
    (Reads s c 0x0C x a b u k → Gives (.not c x) s c 0x0C x u k (m - 1 - a) (zn (m - 1 - a) (some false) (some false))) ∧
    (Reads s c 0x10 x a b u k → Gives (.shl c x) s c 0x10 x u k (a * 2 ^ j % m)
      (zn (a * 2 ^ j % m) (out (a.testBit (8 * n - j))) (some false))) ∧
    (Reads s c 0x11 x a b u k → Gives (.shr c x) s c 0x11 x u k (a / 2 ^ j) (zn (a / 2 ^ j) (out (a.testBit (j - 1))) (some false))) ∧
    (Reads s c 0x12 x a b u k → Gives (.sar c x) s c 0x12 x u k (wrap n (sval n a / 2 ^ j))
      (zn (wrap n (sval n a / 2 ^ j)) (out (a.testBit (j - 1))) (some false))) ∧
    (∀ r, Reads s c 0x13 x a b u k → r = (a * 2 ^ j + a / 2 ^ (8 * n - j)) % m →
      Gives (.rol c x) s c 0x13 x u k r (zn r (out (r.testBit 0)) (some false))) ∧
    (∀ r, Reads s c 0x14 x a b u k → r = (a / 2 ^ j + a * 2 ^ (8 * n - j)) % m →
      Gives (.ror c x) s c 0x14 x u k r (zn r (out (r.testBit (8 * n - 1))) (some false))) ∧
    (Reads s c 0x18 x a b u k → Gives (.setb c x) s c 0x18 x u k (a ||| 2 ^ j) (zn (a ||| 2 ^ j) none none)) ∧
    (∀ r, Reads s c 0x19 x a b u k → r = (if a.testBit j then a - 2 ^ j else a) → Gives (.clrb c x) s c 0x19 x u k r (zn r none none)) ∧
    (Reads s c 0x1A x a b u k → Gives (.flpb c x) s c 0x1A x u k (a ^^^ 2 ^ j) (zn (a ^^^ 2 ^ j) none none)) ∧
    (∀ r, Reads s c 0x1B x a b u k → r = a / 2 ^ (b % 64) % 2 ^ (b / 256 % 64) % m → Gives (.fldu c x) s c 0x1B x u k r (zn r none none)) ∧
    (∀ r l f, Reads s c 0x1C x a b u k → l = b / 256 % 64 → f = a / 2 ^ (b % 64) % 2 ^ l →
      r = (if l = 0 then 0 else wrap n (if f.testBit (l - 1) then (f : Int) - 2 ^ l else f)) →
      Gives (.flds c x) s c 0x1C x u k r (zn r none none)) ∧
    (Reads s c 0x1E x a b u k → Gives (.popc c x) s c 0x1E x u k (ones (8 * n) a) { z := some (decide (ones (8 * n) a = 0)), n := some false }) ∧
    (Reads s c 0x1F x a b u k → Gives (.clz c x) s c 0x1F x u k (lead (8 * n) a) { z := some (decide (lead (8 * n) a = 0)), n := some false }) ∧
    (Issuing s c 0x24 x → ∀ u' k',
      (let k0 := (s.evalAt c 0x24 x).core c;
        (s.evalAt c 0x24 x).dest c (k0.address 4 x.s1).2 4 (k0.address 4 x.s1).1.toNat x.d = .ok () u' k' →
        Passes (.adr c x) s c 0x24 x u' k'))

/-- FRAME. A compute instruction whose operands are registers or immediates, and whose own words hold no error to correct, changes
nothing but its core: no byte of memory, no bank, no other tile; and in the core no address register but its D, and neither
item, events nor image (R224, R239). A MOV that stores to scratchpad writes the bytes of its width, low byte first, at the
address of D, and every other byte of the tile, and every other tile, reads as before (R227, R228, R238, R311). -/
def Obligations.ComputeAndStoreFrames : Prop :=
  (∀ (s t : State) (c op : Nat) (x : PyI) (i : Instr),
    (op, i) ∈ ([(0x01, .mov c x), (0x02, .add c x), (0x03, .addc c x), (0x04, .sub c x), (0x05, .subc c x), (0x06, .neg c x),
      (0x08, .and c x), (0x09, .or c x), (0x0A, .xor c x), (0x0B, .andn c x), (0x0C, .not c x), (0x10, .shl c x), (0x11, .shr c x),
      (0x12, .sar c x), (0x13, .rol c x), (0x14, .ror c x), (0x18, .setb c x), (0x19, .clrb c x), (0x1A, .flpb c x), (0x1B, .fldu c x),
      (0x1C, .flds c x), (0x1D, .widen c x), (0x1E, .popc c x), (0x1F, .clz c x), (0x20, .mul c x), (0x21, .mulh c x), (0x22, .min c x),
      (0x23, .max c x)] : List (Nat × Instr)) →
    Issuing s c op x → (s.fetch c op x).2 = s → opdIsMem x.d = false → opdIsMem x.s1 = false → opdIsMem x.s2 = false → (∀ b, (s.bank c b).next = none) →
    exec i s = .next t →
    t = { s with tiles := t.tiles } ∧ t.tile c = { s.tile c with core := t.core c } ∧ (∀ j, j ≠ c → t.tile j = s.tile j) ∧
    (∀ j q, t.peek j q 1 = s.peek j q 1) ∧
    (∀ r, x.d ≠ .reg r → (t.core c).areg r = (s.core c).areg r) ∧
    (x.d ≠ .lk → (t.core c).lk = (s.core c).lk) ∧ (x.d ≠ .rc → (t.core c).rc = (s.core c).rc) ∧
    (t.core c).item = (s.core c).item ∧ (t.core c).mode = (s.core c).mode ∧ (t.core c).ev = (s.core c).ev ∧
    (t.core c).evp = (s.core c).evp ∧ (t.core c).image = (s.core c).image) ∧
  (∀ (s u : State) (k : Core) (c a b p : Nat) (x : PyI), Reads s c 0x01 x a b u k → (s.fetch c 0x01 x).2 = s → opdIsMem x.d = true →
    opdIsMem x.s1 = false →
    (∀ b, (s.bank c b).next = none) →
    (let n := wbytes x.width;
      (k.address n x.d).1.toNat = p →
      ((p + n ≤ 0x1E0000 ∧ p / bankBytes = (p + n - 1) / bankBytes ∧ s.bankReady c (p / bankBytes) = true ∧
          (s.bank c (p / bankBytes)).admitsCore (s.core c) = true) ∨ (0x1F0000 ≤ p ∧ p + n ≤ 0x200000)) →
      memWf (s.tile c).mem = true → (s.tile c).synd = [] → (s.bank c (p / bankBytes)).remap = [] → (s.bank c (p / bankBytes)).flipArm = false →
      (s.bank c (p / bankBytes)).merge.length ≤ 5 →
      Completes (.mov c x) s (fun t =>
        t.peek c p n = natLe n a ∧
        (∀ q, q < 0x200000 → q < p ∨ p + n ≤ q → t.peek c q 1 = s.peek c q 1) ∧ (∀ j, j ≠ c → t.tile j = s.tile j))))

/-- JMP and CALL transfer after their delay slot, CALL leaving the address past it in LK; the instruction in the slot then goes on
at the target (R254, R255); SKIP and SKIPBIT make the next instruction be passed over (R253, R257); RPT waits for its string
instruction (R258). -/
def Obligations.ControlTransfer : Prop :=
  ∀ (s : State) (c : Nat) (x : PyI),
    let u := fun (op : Nat) => s.evalAt c op x;
    let k := fun (op : Nat) => (u op).core c;
    (Issuing s c 0x35 x → Passes (.nop c x) s c 0x35 x (u 0x35) (k 0x35) ∧
      (∀ v, (s.core c).delay = some v → ∀ t, exec (.nop c x) s = .next t → (t.core c).pc = v ∧ (t.core c).delay = none)) ∧
    (∀ a u1 k1, Issuing s c 0x30 x → (u 0x30).source c (k 0x30) 1 4 x.s1 = .ok a u1 k1 →
      Passes (.jmp c x) s c 0x30 x u1 { k1 with delay := some (BitVec.ofNat 32 a), indirect := !isImm x.s1 }) ∧
    (∀ a u1 k1, Issuing s c 0x31 x → (u 0x31).source c (k 0x31) 1 4 x.s1 = .ok a u1 k1 →
      (let slot := k1.pc.toNat + pyLen x 0x31;
        Passes (.call c x) s c 0x31 x u1 { k1.setLk (BitVec.ofNat 32 (slot + u1.lenAt k1 slot)) with
          delay := some (BitVec.ofNat 32 a), indirect := !isImm x.s1 })) ∧
    (Issuing s c 0x32 x → Passes (.skip c x) s c 0x32 x (u 0x32) { (k 0x32) with skip := (k 0x32).holds (k 0x32).eSeen x.cond.toNat }) ∧
    (∀ a b u2 k2, Reads s c 0x33 x a b u2 k2 →
      Passes (.skipbit c x) s c 0x33 x u2 { k2 with skip := decide (a.testBit (b % (8 * wbytes x.width)) = bit x.cond 0) }) ∧
    (Issuing s c 0x34 x → exec (.rpt c x) s = .next ((s.fetch c 0x34 x).2.setCore c { (s.fetch c 0x34 x).2.core c with
      pc := (s.core c).pc + 4, rpt := some ((s.core c).pc, bit x.cond 0), indirect := false })) ∧
    ((s.core c).mode = .running → (s.core c).item ≠ none → (s.core c).clockOff = false → (s.core c).skip = true → (s.core c).rpt = none →
      exec (.nop c x) s = .next (s.setCore c { s.core c with
        pc := (s.core c).pc + BitVec.ofNat 32 (pyLen x 0x35), skip := false, rpt := none, issued := (s.core c).issued + 1 }))

/-- A string instruction alone processes one element; under RPT with RC at 0 none (R251, R252, R258, R259). -/
def Obligations.StringElements : Prop :=
  ∀ (s : State) (c : Nat) (x : PyI),
    let u := fun (op : Nat) => s.evalAt c op x;
    let k := fun (op : Nat) => (u op).core c;
    let n := wbytes x.width;
    let A := fun (op : Nat) (r : BitVec 3) => ((k op).abase r).toNat;
    ((s.core c).rpt = none →
      (∀ b u1 k1 u2 k2, Issuing s c 0x38 x → (u 0x38).coreRead c (k 0x38) 1 6 (A 0x38 4) n = .ok b u1 k1 →
        u1.coreWrite c k1 3 (k1.abase 5).toNat b = .ok () u2 k2 → Passes (.scopy c x) s c 0x38 x u2 ((k2.bump 4 n).bump 5 n)) ∧
      (∀ a b u1 k1 u2 k2, Issuing s c 0x39 x → (u 0x39).coreRead c (k 0x39) 1 6 (A 0x39 4) n = .ok a u1 k1 →
        u1.coreRead c k1 2 11 (k1.abase 5).toNat n = .ok b u2 k2 →
        Passes (.scomp c x) s c 0x39 x u2 (((k2.bump 4 n).bump 5 n).flags (subOp n (leNat a) (leNat b) 0).2)) ∧
      (∀ a u1 k1, Issuing s c 0x3A x → (u 0x3A).coreRead c (k 0x3A) 1 6 (A 0x3A 4) n = .ok a u1 k1 →
        Passes (.sseek c x) s c 0x3A x u1 ((k1.bump 4 n).flags (subOp n (leNat a) ((k1.areg 0).toNat % 2 ^ (8 * n)) 0).2)) ∧
      (∀ u2 k2, Issuing s c 0x3B x → (u 0x3B).coreWrite c (k 0x3B) 3 (A 0x3B 5) (natLe n ((k 0x3B).areg 0).toNat) = .ok () u2 k2 →
        Passes (.sfill c x) s c 0x3B x u2 (k2.bump 5 n)) ∧
      (∀ a b u1 k1 u2 k2 u3 k3, Issuing s c 0x3C x → (u 0x3C).coreRead c (k 0x3C) 1 6 (A 0x3C 4) 1 = .ok a u1 k1 →
        u1.coreRead c k1 2 11 (k1.abase 1 + BitVec.ofNat 32 (leNat a)).toNat 1 = .ok b u2 k2 →
        u2.coreWrite c k2 3 (k2.abase 5).toNat b = .ok () u3 k3 →
        Passes (.smap c x) s c 0x3C x u3 ((k3.bump 4 1).bump 5 1)) ∧
      (∀ b u1 k1, Issuing s c 0x3D x → (u 0x3D).coreRead c (k 0x3D) 1 6 (A 0x3D 4) n = .ok b u1 k1 →
        (let v := b.foldl crc32cByte (k1.areg 0);
          Passes (.scrc c x) s c 0x3D x u1 (((k1.bump 4 n).setA 0 v).flags { z := some (decide (v = 0)) })))) ∧
    ((s.core c).rpt ≠ none →
      (Issuing s c 0x38 x → (k 0x38).rcSeen = 0 → Passes (.scopy c x) s c 0x38 x (u 0x38) (k 0x38)) ∧ (Issuing s c 0x39 x → (k 0x39).rcSeen = 0 → Passes (.scomp c x) s c 0x39 x (u 0x39) (k 0x39)) ∧
      (Issuing s c 0x3A x → (k 0x3A).rcSeen = 0 → Passes (.sseek c x) s c 0x3A x (u 0x3A) (k 0x3A)) ∧ (Issuing s c 0x3B x → (k 0x3B).rcSeen = 0 → Passes (.sfill c x) s c 0x3B x (u 0x3B) (k 0x3B)) ∧
      (Issuing s c 0x3C x → (k 0x3C).rcSeen = 0 → Passes (.smap c x) s c 0x3C x (u 0x3C) (k 0x3C)) ∧ (Issuing s c 0x3D x → (k 0x3D).rcSeen = 0 → Passes (.scrc c x) s c 0x3D x (u 0x3D) (k 0x3D)))

/-- DONE ends an item, which leaves its core once its engine jobs and searches have ended (R246); WFE waits until an enabled event
is pending (R261), WAITT until its time (R263), FENCE until the core's DRAM writes are settled (R233, R265). The watchdog, and
a word of an instruction that cannot be corrected when it is fetched, end the item with a fault, which is counted (R247, R268,
R270). -/
def Obligations.CoreWaits : Prop :=
  ∀ (s : State) (c : Nat) (x : PyI) (y : Item),
    let u := fun (op : Nat) => s.evalAt c op x;
    let k := fun (op : Nat) => (u op).core c;
    (Issuing s c 0x36 x → Passes (.done c x) s c 0x36 x (u 0x36) { (k 0x36) with mode := .done }) ∧
    (∀ w, (s.core c).mode = .done → (s.core c).item = some y → y.run = none → y.prio ≠ 0 → (s.core c).engOut = 0 → (s.core c).camsOut = 0 →
      (s.core c).heldPost = none → Completes (.doneTakesEffect c w true) s (fun t => (t.core c).item = none ∧ (t.core c).mode = .idle)) ∧
    (Issuing s c 0x40 x → (k 0x40).eSeen = false → Passes (.wfe c x) s c 0x40 x (u 0x40) { (k 0x40) with mode := .wfe }) ∧
    (Issuing s c 0x40 x → (k 0x40).eSeen = true → Passes (.wfe c x) s c 0x40 x (u 0x40) { (k 0x40) with seen := Nat.max (k 0x40).seen (k 0x40).evSeen }) ∧
    ((s.core c).mode = .wfe → (s.core c).evp &&& (s.core c).ev ≠ 0 → exec (.wfeWake c) s = .next (s.setCore c
      { s.core c with mode := .running, clockOff := false, seen := Nat.max (s.core c).seen (s.core c).evSeen })) ∧
    (∀ a u1 k1, Issuing s c 0x42 x → (u 0x42).source c (k 0x42) 1 8 x.s1 = .ok a u1 k1 →
      (a ≤ u1.now % 18446744073709551616 → Passes (.waitt c x) s c 0x42 x u1 { k1 with z := true }) ∧
      (u1.now % 18446744073709551616 < a → bit x.cond 0 = false → Passes (.waitt c x) s c 0x42 x u1 { k1 with mode := .waitt a false })) ∧
    (∀ due, (s.core c).mode = .waitt due false → exec (.waittWake c) s = .next (({ s with now := Nat.max s.now due } : State).setCore c
      { s.core c with mode := .running, clockOff := false, z := true })) ∧
    (∀ due, (s.core c).mode = .waitt due true → (s.core c).e = true → s.now < due → exec (.waittWake c) s = .next (s.setCore c
      { s.core c with mode := .running, clockOff := false, z := false })) ∧
    (Issuing s c 0x43 x → Passes (.fence c x) s c 0x43 x (u 0x43) { (k 0x43) with mode := .fence }) ∧
    ((s.core c).mode = .fence → Completes (.fenceDone c) s (fun t =>
      (t.core c) = { s.core c with mode := .running } ∧ t.ld.fences = s.ld.fences + 1 ∧
      (∀ w ∈ t.ld.unsettled, w.writer = c → w.fence ≠ none) ∧ t.ld.unsettled.length = s.ld.unsettled.length)) ∧
    ((s.core c).item = some y → y.run = none → y.prio ≠ 0 → y.kind = .posted → (s.core c).mode = .running →
      Completes (.watchdog c true) s (fun t =>
        t.now = Nat.max s.now ((s.core c).dispatched + 1000 * s.param 0x050011 1000) ∧ (t.core c).item = none ∧ (t.core c).mode = .idle ∧
        mget 0 t.health.faults (8 * y.inst + 7) = mget 0 s.health.faults (8 * y.inst + 7) + 1)) ∧
    ((s.core c).item = some y → y.run = none → y.prio ≠ 0 → y.kind = .posted → (s.core c).mode = .running → (s.core c).clockOff = false →
      (s.core c).skip = false → s.issueFault (s.core c) 0x35 x = none → s.groupAwake c 15 = true → (s.fetch c 0x35 x).1 = false →
      Completes (.nop c x) s (fun t => (t.core c).item = none ∧ (t.core c).mode = .idle ∧
        mget 0 t.health.faults (8 * y.inst + 6) = mget 0 s.health.faults (8 * y.inst + 6) + 1))

/-- SEV sets an event of a core of its instance (R262); POST gives Ladle an item, or is held for room (R264, R294); ENG posts a
descriptor to an engine of any class of the tile with room in its queue (R264, R287); CAMS sends a search (R264, R395);
ITEM_DISPATCH sets up an idle core for its next item (R244, R281). -/
def Obligations.PostsAndDispatch : Prop :=
  ∀ (s : State) (c : Nat) (x : PyI) (y : Item),
    let u := fun (op : Nat) => s.evalAt c op x;
    let k := fun (op : Nat) => (u op).core c;
    (∀ a u1 k1 j, Issuing s c 0x41 x → (u 0x41).source c (k 0x41) 1 (wbytes x.width) x.s1 = .ok a u1 k1 → x.cond = 0 → a % 64 = j → j ≠ c →
      (u1.core j).instOf = some (k1.instOf.getD 0) →
      Completes (.sev c x) s (fun t => (t.core j).evp = (u1.core j).evp ||| 1 ∧ (∀ i, i ≠ j → i ≠ c → t.tile i = u1.tile i))) ∧
    (∀ a b u1 k1 u2 k2, Issuing s c 0x48 x → (u 0x48).source c (k 0x48) 1 4 x.s1 = .ok a u1 k1 → u1.coreRead c k1 1 6 a 32 = .ok b u2 k2 →
      (let it := postedItem (BitVec.ofNat 256 (leNat b)) c (k2.item.getD {});
        (k2.heldPost ≠ none → Passes (.post c x) s c 0x48 x u2 { k2 with z := false, c := true }) ∧
        (k2.heldPost = none → u2.takesPost it = false → Passes (.post c x) s c 0x48 x u2 { k2 with z := false, c := false, heldPost := some it }) ∧
        (k2.heldPost = none → u2.takesPost it = true → it.timed = false →
          Completes (.post c x) s (fun t => (t.core c).z = true ∧ t.ld.seq = u2.ld.seq + 1)))) ∧
    ((s.core c).heldPost = some y → s.takesPost y = true → (s.core c).item ≠ none → Completes (.postAccepted c) s (fun t =>
      (t.core c).heldPost = none ∧ bit (t.core c).evp 6 = true ∧ t.ld.seq = s.ld.seq + 1)) ∧
    (∀ a b u1 k1 u2 k2, Issuing s c 0x49 x → (u 0x49).source c (k 0x49) 1 4 x.s1 = .ok a u1 k1 →
      u1.coreRead c k1 1 6 a (if x.cond = 0 then 48 else 32) = .ok b u2 k2 →
      (let y := u2.tile c;
        let full := if x.cond = 0 then 32 ≤ y.crypt.cxQ.length else if x.cond = 1 then 16 ≤ y.lanes.rxQ.length
          else if x.cond = 2 then 16 ≤ y.lanes.exQ.length else 16 ≤ y.crypt.dgQ.length;
        (full → Passes (.eng c x) s c 0x49 x (u2.setCore c k2) { k2 with z := false }) ∧
        (¬ full → Completes (.eng c x) s (fun t => (t.core c).z = true ∧ (t.core c).engOut = k2.engOut + 1)))) ∧
    (∀ a b u1 k1 u2 k2, Issuing s c 0x4A x → (u 0x4A).source c (k 0x4A) 1 4 x.s1 = .ok a u1 k1 → u1.coreRead c k1 1 6 a 32 = .ok b u2 k2 →
      (let d := (k2.address 4 x.d).1;
        let k3 := (k2.address 4 x.d).2;
        u2.respPlace c k3 d.toNat = none →
        (8 ≤ k3.camsOut → Passes (.cams c x) s c 0x4A x u2 { k3 with z := false }) ∧
        (k3.camsOut < 8 → (u2.inst (k3.item.getD {}).inst).hasCam (camsCtx b) = true →
          Completes (.cams c x) s (fun t =>
            (t.core c).z = true ∧ (t.core c).camsOut = k3.camsOut + 1 ∧
            (∃ q, mget [] t.cam.waiting (regionOfTile c) = mget [] u2.cam.waiting (regionOfTile c) ++ [q] ∧ q.key = camsKey b ∧
              q.ctx = camsCtx b ∧ q.core = some (c, (k3.item.getD {}).seq, d)))))) ∧
    (s.coreIdle c = true → (s.tile c).quiesced = false → (s.tile c).retired = false → s.nextItem c = some y → y.kind ≠ .segment →
      s.entryOk y.inst y.handle y.entry.toNat = true →
      Completes (.itemDispatch c true) s (fun t =>
        (t.core c).item = some y ∧ (t.core c).mode = .running ∧ (t.core c).pc = y.entry ∧ (t.core c).areg 0 = y.arg ∧
        (t.core c).areg 7 = 0x00200000 ∧ (∀ r, r ≠ 0 → r ≠ 7 → (t.core c).areg r = 0) ∧ (t.core c).lk = 0 ∧ (t.core c).rc = 0 ∧
        (t.core c).z = false ∧ (t.core c).ev = 0x7F ∧ (t.core c).evp = 0 ∧ (t.core c).dispatched = s.now ∧
        (∀ i, i ≠ c → t.core i = s.core i)))

/-! ### Tile memory (12) -/

/-- A write of an owner register waits until its handover, which zeroes the bank first when it changes instance (R306, R308); bank
15 takes no owner (R305); a handover to the core sets TL_EVP.BANK (R306). TL_RET takes its RETAIN bits, a group enters
retention with its merge buffers empty and wakes in group order, 12 µs after the wake before it (R314); clearing bits of the
conflict and collide registers clears only what they name (R304, R310). -/
def Obligations.BankAndTileRegisters : Prop :=
  (∀ (s : State) (c b : Nat) (v : Word) (n : Nat) (f : Bool),
    (∀ w, b ≠ 15 → (s.bank c b).retired = false → exec (.bankOwnerWrite c b v w) s = .next (s.setBank c b
      { s.bank c b with next := some (v, (s.core c).issued, decide (w = .core)) })) ∧
    (∀ w, exec (.bankOwnerWrite c 15 v w) s = .next s) ∧
    ((s.bank c b).next = some (v, n, f) → (s.bank c b).inst ≠ v.extractLsb' 8 8 →
      exec (.bankHandover c b) s = .next (s.setBank c b { s.bank c b with next := none, zeroing := some v })) ∧
    ((s.bank c b).next = some (v, n, f) → (s.bank c b).inst = v.extractLsb' 8 8 → (s.bank c b).kind ≠ 6 → v.extractLsb' 0 3 ≠ 6 →
      Completes (.bankHandover c b) s (fun t =>
        t.bank c b = { s.bank c b with
          kind := v.extractLsb' 0 3, unit := v.extractLsb' 3 5, inst := v.extractLsb' 8 8, next := none, zeroing := none } ∧
        (∀ k, k ≠ b → t.bank c k = s.bank c k) ∧ (t.tile c).mem = (s.tile c).mem ∧
        (v.extractLsb' 0 3 = 1 → (s.core c).item ≠ none → (t.core c).evp = (s.core c).evp ||| 8))) ∧
    ((s.bank c b).zeroing = some v → Completes (.bankZeroingDone c b) s (fun t =>
      (t.bank c b).zeroing = none ∧ (t.bank c b).merge = [] ∧ (t.bank c b).inst = v.extractLsb' 8 8 ∧
      (∀ a, a / bankBytes = b → mget 0 (t.tile c).mem a = 0) ∧ (∀ a, a / bankBytes ≠ b → mget 0 (t.tile c).mem a = mget 0 (s.tile c).mem a)))) ∧
  (∀ (s : State) (c b g : Nat) (v : Word),
    Completes (.tlRetWrite c v) s (fun t =>
      t = s.setTile c { s.tile c with retain := v.extractLsb' 0 4, wakeFrom := (t.tile c).wakeFrom } ∧
      ((~~~(s.tile c).retain &&& ~~~(s.tile c).awake) = 0 → (t.tile c).wakeFrom = s.now)) ∧
    (bit (s.tile c).retain g = true → bit (s.tile c).awake g = true → (∀ i, i < 4 → (s.bank c (4 * g + i)).merge = []) →
      exec (.retentionEntry c g) s = .next (s.setTile c { s.tile c with awake := setBit (s.tile c).awake g false })) ∧
    (bit (s.tile c).retain g = false → bit (s.tile c).awake g = false →
      (∀ i, i < g → bit (s.tile c).awake i = true ∨ bit (s.tile c).retain i = true) →
      Completes (.retentionWakeDone c g) s (fun t =>
        t = { s with now := t.now }.setTile c { s.tile c with awake := setBit (s.tile c).awake g true, wakeFrom := t.now } ∧
        t.now = Nat.max s.now ((s.tile c).wakeFrom + 12000))) ∧
    Completes (.conflictCounterClear c v) s (fun t =>
      (∀ i, bit v i = true → mget 0 (t.tile c).confLost i = 0 ∧ mget 0 (t.tile c).confWin i = 0) ∧
      (∀ i, bit v i = false → mget 0 (t.tile c).confLost i = mget 0 (s.tile c).confLost i) ∧ (t.tile c).mem = (s.tile c).mem) ∧
    (bit v 15 = true → exec (.collideClear c b v) s = .next (s.setBank c b { s.bank c b with colValid := false, colCount := 0 })) ∧
    (bit v 15 = false → exec (.collideClear c b v) s = .next s))

/-- MERGE_ENTRY_WRITE writes the oldest entry of a merge buffer to the array (R313); SCRUB_READ corrects what it finds and counts
it (R317, R322); REMAP_ENTRY_WRITE copies a word into spare cells, after which it reads the same (R320); BUCKET_LEAK takes 1
from every bucket (R319, R401); HARD_FAULT_CHECK remaps a word that errs again (R320); MAP_STORE_SCRUB counts a correction
(R323). -/
def Obligations.ErrorCorrection : Prop :=
  ∀ (s : State) (c b : Nat),
    (∀ e r, (s.bank c b).merge = e :: r → (s.bank c b).flipArm = false → (∀ f ∈ r, f.word ≠ e.word) →
      Completes (.mergeEntryWrite c b) s (fun t =>
        (t.bank c b).merge = r ∧ t.rawWord c b e.word = (e.data, 0) ∧ (t.readWord c b e.word 10).1 = some e.data ∧
        (∀ k, k ≠ b → t.bank c k = s.bank c k))) ∧
    (∀ w i, (s.tile c).scrubEn = true → s.groupAwake c b = true → (s.bank c b).scrubAt = w → (s.bank c b).remap = [] →
      (∀ e ∈ (s.bank c b).merge, e.word ≠ w) → i < 32 → mget 0 (s.tile c).synd (wordKey b w) = 0 →
      (s.bank c b).bucket + 1 < (s.tile c).thresh.toNat → (s.bank c b).bucket < 255 →
      Completes (.scrubRead c b (BitVec.ofNat 39 (2 ^ i)) none) s (fun t =>
        t.rawWord c b w = ((s.rawWord c b w).1, 0) ∧ (t.bank c b).cecnt = satAdd 65535 (s.bank c b).cecnt 1 ∧
        (t.bank c b).bucket = (s.bank c b).bucket + 1 ∧ (t.bank c b).errAddr = BitVec.ofNat 15 w ∧
        t.health.corrSram = s.health.corrSram + 1 ∧ (t.bank c b).scrubAt = (w + 1) % 32768)) ∧
    (∀ n d (w : BitVec 15), n < 4 → (s.bank c b).remap = [] → (∀ e ∈ (s.bank c b).merge, e.word ≠ w.toNat) →
      s.rawWord c b w.toNat = (d, 0) →
      Completes (.remapEntryWrite c b n (BitVec.ofNat 32 (w.toNat + 2147483648))) s (fun t =>
        mget (0, false) (t.bank c b).remap n = (w, true) ∧ mget 0 (t.tile c).spare (4 * b + n) = eccCheck d ++ d ∧
        t.rawWord c b w.toNat = (d, 0))) ∧
    (mwf {} s.tiles = true → mwf {} (s.tile c).banks = true → Completes .bucketLeak s (fun t =>
      (t.bank c b).bucket = (s.bank c b).bucket - 1 ∧ (t.bank c b).cecnt = (s.bank c b).cecnt ∧ (t.tile c).mem = (s.tile c).mem ∧
      (t.core c) = s.core c ∧ t.now = s.now)) ∧
    (∀ w synd, (s.bank c b).checkWord = some (w, synd) → w < 32768 → (s.bank c b).remap = [] →
      Completes (.hardFaultCheck c b synd) s (fun t =>
        (t.bank c b).checkWord = none ∧ mget (0, false) (t.bank c b).remap 0 = (BitVec.ofNat 15 w, true) ∧
        (t.rawWord c b w).1 = (s.rawWord c b w).1 ∧ (∃ e, t.health.events.head? = some e ∧ e.kind = 0x02 ∧ e.tile = c))) ∧
    (∀ k, k < 7 → exec (.mapStoreScrub (BitVec.ofNat 7 (2 ^ k))) s =
      .next { s with health := { s.health with corrSram := s.health.corrSram + 1 } })

/-! ### Engine lanes (13, 14, 15) -/

/-- The end of an engine job: what it computes lies in scratchpad, the lane's counters have its bytes, and its poster, its item
still running, has one job less outstanding and TL_EVP.ENG set (R241, R338, R341, R365, R373). -/
def Obligations.EngineJobEnds : Prop :=
  ∀ (s u v : State) (c h lane : Nat) (j : Job) (b : Bytes) (x : Item), s.hq.cqAnswer = true → j.core = some h → (s.core h).item = some x → x.seq = j.item →
    (let s1 := s.setLanes c { (s.tile c).lanes with rxRun := none };
      (s.tile c).lanes.rxRun = some j → jValid true j.desc = true → jResume j.desc = false → jHost j.desc = true → jFinal j.desc = true →
      0 < jLen j.desc → jLen j.desc ≤ 4096 → s1.laneRead h unitReducer j.inst 12 (jSrc j.desc) (jLen j.desc) = (.ok b, s1) →
      b.length = jLen j.desc → (krfHost b).length ≤ jRoom j.desc → s1.laneWrite h unitReducer j.inst 12 (jDst j.desc) (krfHost b) = (none, u) →
      Completes (.reducerJobEnd c true) s (fun t =>
        (t.tile c).lanes.rxIn = (s.tile c).lanes.rxIn + jLen j.desc ∧ (t.tile c).lanes.rxOut = (s.tile c).lanes.rxOut + (krfHost b).length ∧
        (t.tile c).lanes.rxDone = satAdd 0xFFFFFF (s.tile c).lanes.rxDone 1 ∧ (t.tile c).lanes.rxErr = (s.tile c).lanes.rxErr ∧
        (t.core h).engOut = (s.core h).engOut - 1 ∧ bit (t.core h).evp 1 = true)) ∧
    (∀ r, let s1 := s.setLanes c { (s.tile c).lanes with exRun := none };
      (s.tile c).lanes.exRun = some j → jValid false j.desc = true → jResume j.desc = false → jHost j.desc = true →
      s1.laneRead h unitExpander j.inst 13 (jSrc j.desc) (jLen j.desc) = (.ok b, s1) →
      expandHostUnits (jRoom j.desc) (b.length + 1) b {} = r → r.code = 0 →
      s1.laneWrite h unitExpander j.inst 13 (jDst j.desc) r.out = (none, u) →
      Completes (.expanderJobEnd c true) s (fun t =>
        (t.tile c).lanes.exIn = (s.tile c).lanes.exIn + r.used ∧ (t.tile c).lanes.exOut = (s.tile c).lanes.exOut + r.out.length ∧
        (t.tile c).lanes.exDone = satAdd 0xFFFFFF (s.tile c).lanes.exDone 1 ∧ (t.tile c).lanes.exErr = (s.tile c).lanes.exErr ∧
        (t.core h).engOut = (s.core h).engOut - 1 ∧ bit (t.core h).evp 1 = true)) ∧
    (let s1 := s.setCrypt c { (s.tile c).crypt with cxRun := mset none (s.tile c).crypt.cxRun lane none };
      mget none (s.tile c).crypt.cxRun lane = some j → s1.cipherRun c j (cLen j.desc) = (none, u) → u.cipherFinish c j = (0, v) →
      (v.core h).item = some x →
      Completes (.cipherJobEnd c lane true) s (fun t =>
        (t.tile c).crypt.cxText = (v.tile c).crypt.cxText + cLen j.desc ∧
        (t.tile c).crypt.cxDone = satAdd 0xFFFFFF (v.tile c).crypt.cxDone 1 ∧ (t.tile c).crypt.cxErr = (v.tile c).crypt.cxErr ∧
        (t.core h).engOut = (v.core h).engOut - 1 ∧ bit (t.core h).evp 1 = true)) ∧
    (let s1 := s.setCrypt c { (s.tile c).crypt with dgRun := mset none (s.tile c).crypt.dgRun lane none };
      mget none (s.tile c).crypt.dgRun lane = some j → s1.digestRun c j (cLen j.desc) = (none, u) →
      u.digestFinish c j true true = (0, compareWords true true, v) → dCompare j.desc = true → (v.core h).item = some x →
      Completes (.digestJobEnd c lane true true true) s (fun t =>
        (t.tile c).crypt.dgText = (v.tile c).crypt.dgText + cLen j.desc ∧
        (t.tile c).crypt.dgDone = satAdd 0xFFFFFF (v.tile c).crypt.dgDone 1 ∧
        (t.tile c).crypt.dgMatch = satAdd 0xFFFF (v.tile c).crypt.dgMatch 1 ∧ (t.tile c).crypt.dgFault = (v.tile c).crypt.dgFault ∧
        (t.core h).engOut = (v.core h).engOut - 1 ∧ bit (t.core h).evp 1 = true))

/-- At a segment boundary 4,096 bytes more of the lane's job are done, and with the tile's queue empty the lane keeps it (R350,
R357, R373); two failed known-answer tests in a row retire a decoder or a lane (R428). -/
def Obligations.LaneBoundariesAndTests : Prop :=
  ∀ (s u : State) (c l n : Nat) (j : Job),
    (mget none (s.tile c).crypt.cxRun l = some j → j.done + 4096 < cLen j.desc → s.cipherRun c j (j.done + 4096) = (none, u) →
      (u.tile c).crypt.cxQ = [] → l < u.cxLanes c → bit (u.tile c).crypt.cxEn l = true →
      exec (.cipherSegmentBoundary c l 0) s = .next (u.setCrypt c { (u.tile c).crypt with
        cxRun := mset none (u.tile c).crypt.cxRun l (some { j with done := j.done + 4096 }) })) ∧
    (mget none (s.tile c).crypt.dgRun l = some j → j.done + 4096 < cLen j.desc → s.digestRun c j (j.done + 4096) = (none, u) →
      (u.tile c).crypt.dgQ = [] → l < u.dgLanes c → bit (u.tile c).crypt.dgEn l = true →
      exec (.digestSegmentBoundary c l) s = .next (u.setCrypt c { (u.tile c).crypt with
        dgRun := mset none (u.tile c).crypt.dgRun l (some { j with done := j.done + 4096 }) })) ∧
    ((s.link n).katFails = 1 → Completes (.decoderKnownAnswerTest false n false) s (fun t =>
      (t.link n).hardRetired = true ∧ (t.link n).degraded = true ∧ (t.link n).katFails = 2)) ∧
    ((s.tile c).lanes.katSoft = 1 → Completes (.decoderKnownAnswerTest true c false) s (fun t => (t.tile c).lanes.softRetired = true)) ∧
    (Completes (.decoderKnownAnswerTest true c true) s (fun t =>
      (t.tile c).lanes.katSoft = 0 ∧ (t.tile c).lanes.softRetired = (s.tile c).lanes.softRetired)) ∧
    ((s.tile c).lanes.exRun = none → (s.tile c).lanes.katEx = 1 → (s.tile c).lanes.exRetired = false →
      Completes (.laneKnownAnswerTest c .expander false) s (fun t => (t.tile c).lanes.exRetired = true ∧
        (∃ e, t.health.events.head? = some e ∧ e.kind = 0x01 ∧ e.arg = BitVec.ofNat 64 (6 + 256 * c)))) ∧
    ((s.tile c).lanes.rxRun = none → Completes (.laneKnownAnswerTest c .reducer true) s (fun t =>
      (t.tile c).lanes.katRx = 0 ∧ (t.tile c).lanes.rxRetired = (s.tile c).lanes.rxRetired)) ∧
    ((s.tile c).lanes.rxRun = none → (s.tile c).lanes.katRx = 1 → (s.tile c).lanes.rxRetired = false →
      Completes (.laneKnownAnswerTest c .reducer false) s (fun t => (t.tile c).lanes.rxRetired = true)) ∧
    exec (.laneKnownAnswerTest c (.digest l) true) s = .next s

/-! ### Interrupts (18) -/

/-- A doorbell write moves an IDLE source to RAISED; one for a source that is RAISED or DELIVERED changes nothing but the count of
merged writes; one that comes with the acknowledgement of its source finds it acknowledged (R418). -/
def Obligations.InterruptDoorbells : Prop :=
  ∀ (s : State) (c n : Nat) (v : Word), c ≤ 64 → v.toNat % 4096 = n → srcReserved n = false →
    (mget .idle (s.intc c).src n = .idle → Completes (.intDoorbell c v) s (fun t => mget .idle (t.intc c).src n = .raised)) ∧
    (mget .idle (s.intc c).src n ≠ .idle → exec (.intDoorbell c v) s = .next (s.setIntc c
      { s.intc c with merged := satAdd 0xFFFFFFFF (s.intc c).merged 1 })) ∧
    (mget .idle (s.intc c).src n = .delivered → ∀ u, exec (.intAck c v) s = .next u →
      Completes (.intDoorbell c v) u (fun t => mget .idle (t.intc c).src n = .raised))

/-- A tile restart makes every DELIVERED source of the tile's controller RAISED again and keeps every RAISED one, and doorbell
writes are accepted while the tile is quiesced (R423). -/
def Obligations.TileRestartKeepsSources : Prop :=
  ∀ (s : State) (c : Nat), c < 64 → (s.tile c).quiesced = true →
    ((s.tile c).retired = false → (s.tile c).restarting = false → ((s.tile c).recent s.now).length < 3 →
      Completes (.tileRestart c true) s (fun t => ∀ n,
        (mget .idle (s.intc c).src n = .delivered → mget .idle (t.intc c).src n = .raised) ∧
        (mget .idle (s.intc c).src n = .raised → mget .idle (t.intc c).src n = .raised))) ∧
    (∀ (n : Nat) (v : Word), v.toNat % 4096 = n → srcReserved n = false → mget .idle (s.intc c).src n = .idle →
      Completes (.intDoorbell c v) s (fun t => mget .idle (t.intc c).src n = .raised))

/-! ### Faults (19) -/

/-- A tile fault quiesces its tile: it takes no more work, and what it ran returns to its queue (R430, R431); the restart resets
it and its end takes it into use again (R433); a restart that fails, or a third quiesce within 1 h, retires it (R433). A
region fault takes the region out of use and its restart brings it back (R436); a chip fault clears ID_READY, reports itself
and starts the steps of R131 (R437); a ledger recount that finds a link credit lost returns it and records the leak (R442). -/
def Obligations.TileRegionAndChipFaults : Prop :=
  (∀ (s : State) (c : Nat), c < 64 →
    (∀ x : Item, (s.tile c).quiesced = false → ((s.core c).item = none ∨
        ((s.core c).item = some x ∧ x.run = none ∧ x.kind ≠ .segment ∧ x.banks = 0)) →
      Completes (.heartbeatMissed c true) s (fun t => (t.tile c).quiesced = true ∧ (t.tile c).cause = 1 ∧ (t.core c).item = none ∧
        ((s.core c).item = some x → ∃ y ∈ (t.region x.region).ready, y.seq = x.seq ∧ y.entry = x.entry ∧ y.arg = x.arg) ∧
        (∃ e, t.health.events.head? = some e ∧ e.kind = 0x10 ∧ e.arg = 1 ∧ e.tile = c)) ∧
      (∀ k u, (k, u) ∈ ([(2, .core), (3, .slice), (4, .crossbar), (5, .intc)] : List (Nat × TileUnit)) →
        Completes (.tileParityError c u) s (fun t => (t.tile c).quiesced = true ∧ (t.tile c).cause = k ∧ (t.core c).item = none ∧
          (∃ e, t.health.events.head? = some e ∧ e.kind = 0x10 ∧ e.arg = BitVec.ofNat 64 k ∧ e.tile = c)))) ∧
    ((s.tile c).quiesced = true → (s.tile c).retired = false → (s.tile c).restarting = false →
      (((s.tile c).recent s.now).length < 3 → Completes (.tileRestart c true) s (fun t =>
        (t.core c).item = none ∧ (t.core c).evp = 0 ∧ (t.tile c).restarting = true ∧ (t.tile c).mem = (s.tile c).mem ∧
        (t.tile c).banks = (s.tile c).banks ∧ (∀ k, mget .idle (t.intc c).src k ≠ .delivered) ∧ (∀ k, k ≠ c → t.tile k = s.tile k))) ∧
      (∀ ok, ok = false ∨ 3 ≤ ((s.tile c).recent s.now).length → Completes (.tileRestart c ok) s (fun t =>
        (t.tile c).retired = true ∧ (t.tile c).quiesced = true ∧ (∃ e, t.health.events.head? = some e ∧ e.kind = 0x12)))) ∧
    ((s.tile c).restarting = true → Completes (.tileRestartDone c) s (fun t =>
      (t.tile c).quiesced = false ∧ (t.tile c).restarting = false ∧ t.health.tileRestarts = s.health.tileRestarts + 1))) ∧
  (∀ (s : State) (p cause : Nat), p < 8 →
    ((s.region p).restarting = false → (s.region p).faultAt = none → (∀ i, i < 8 → (s.core (8 * p + i)).item = none) →
      Completes (.regionFault p cause true) s (fun t => (t.region p).restarting = true ∧ bit t.hq.idReady (8 + p) = false ∧
        (t.region p).faultAt = some s.now ∧ (∃ e, t.health.events.head? = some e ∧ e.kind = 0x30 ∧ e.region = p))) ∧
    ((s.region p).restarting = true → Quiet s → (∀ e ∈ s.st.bands, e.2.st ≠ .stale) →
      Completes (.regionRestartDone p true) s (fun t => (t.region p).restarting = false ∧ bit t.hq.idReady (8 + p) = true ∧
        t.health.regionRestarts = s.health.regionRestarts + 1)) ∧
    (∀ x : ChipCause, s.stew.boot ≠ .chipFault → s.hq.ops = [] → s.jr.holdStep = 0 → Completes (.chipFault x true) s (fun t =>
      t.stew.boot = .chipFault ∧ t.fetching = false ∧ .aer ∈ t.out ∧ bit t.hq.idReady 3 = false ∧ t.jr.holdStep ≠ 0 ∧ t.ld.runs = [])) ∧
    (∀ l n, s.books 1 (2 * l) = n + 1 → (s.link l).waiting = [] → Completes (.ledgerCheck 1 (2 * l) n) s (fun t =>
      t.health.mismatches = s.health.mismatches + 1 ∧
      (t.link l).charged = (((s.link l).charged.1 + 4095) % 4096, (s.link l).charged.2) ∧ (∀ k, k ≠ l → t.link k = s.link k) ∧
      (∃ e, t.health.events.head? = some e ∧ e.kind = 0x80 ∧ e.link = l ∧ e.arg = 1 ∧ e.arg2 = 0xFFFFFFFF))))

/-! ### Rhaent links (06) -/

/-- A good frame in sequence is accepted, acknowledged and its credits granted again, those of read data as it enters the tile's
ingress ring, whose size is the model's (log entry 77; R155 to R157, R159, R160); one whose payload check fails is answered
with NAK once (R160); ACK releases held frames up to its SEQ, NAK and the replay timeout resend what is held (R161); CRD
updates a total (R156); a credit stall leads to RECOVERY (R158, R165). -/
def Obligations.LinkFramesAndReplay : Prop :=
  ∀ (s : State) (l : Nat) (line : List (BitVec 130)) (hdr : DWord) (p : Bytes) (w : Word), IdleLink (s.link l) →
    ((s.link l).carries = true → rxLine line = .frame hdr p true → hdrSeq hdr = (s.link l).rxSeq + 1 →
      (hdrType hdr = 2 → Completes (.rsp l line) s (fun t =>
        (t.link l).rxSeq = hdrSeq hdr ∧ (t.link l).nakHold = none ∧
        (t.link l).granted = (((s.link l).granted.1 + frameCredits (hdrLen hdr)) % 4096, (s.link l).granted.2) ∧
        .ctl l (ctlWord cACK (BitVec.ofNat 16 (hdrSeq hdr).toNat)) ∈ t.out ∧ (∀ k, k ≠ l → t.link k = s.link k))) ∧
      (hdrType hdr = 3 → ∀ cid n r c, (s.link l).rdFor = (cid, n + 2) :: r → mget none (s.link l).climbs cid = some c →
        Completes (.rdata l line 0 true) s (fun t =>
          (t.link l).rxSeq = hdrSeq hdr ∧ (t.link l).rdFor = (cid, n + 1) :: r ∧
          (∃ d, mget none (t.link l).climbs cid = some d ∧ d.frames = c.frames ++ [p] ∧ d.framesLeft = c.framesLeft - 1 ∧ d.rung = c.rung) ∧
          ((s.link l).ring < ringFrames → (t.link l).ring = (s.link l).ring + 1 ∧
            (t.link l).granted = ((s.link l).granted.1, ((s.link l).granted.2 + frameCredits (hdrLen hdr)) % 4096)) ∧
          (ringFrames ≤ (s.link l).ring → (t.link l).granted = (s.link l).granted ∧
            (t.link l).owed = (s.link l).owed ++ [frameCredits (hdrLen hdr)])))) ∧
    ((s.link l).carries = true → rxLine line = .frame hdr p false → (s.link l).nakHold = none → Completes (.rsp l line) s (fun t =>
      (t.link l).rxSeq = (s.link l).rxSeq ∧ (t.link l).nakHold = some s.now ∧
      .ctl l (ctlWord cNAK (BitVec.ofNat 16 (s.link l).rxSeq.toNat)) ∈ t.out)) ∧
    (∀ a f b, ctlIs cACK w = true → (s.link l).carries = true → (s.link l).held = a ++ f :: b → f.seq = (ctlArg w).setWidth 12 →
      (∀ g ∈ a, g.seq ≠ f.seq) → Completes (.ack l w) s (fun t => (t.link l).held = b ∧ (t.link l).resendOldest = 0)) ∧
    (ctlIs cNAK w = true → (s.link l).carries = true → (s.link l).held ≠ [] → (∀ f ∈ (s.link l).held, f.seq ≠ (ctlArg w).setWidth 12) →
      (s.link l).resendOldest < 3 → Completes (.nak l w) s (fun t =>
        (t.link l).held = (s.link l).held ∧ (t.link l).resendOldest = (s.link l).resendOldest + 1 ∧
        (t.link l).resends = satAdd 65535 (s.link l).resends (s.link l).held.length ∧
        (∀ f ∈ (s.link l).held, .frame l ((s.link l).hdrFor f) f.payload ∈ t.out))) ∧
    (ctlIs cCRD w = true → (s.link l).st = .active → bits w 20 2 = 0 → Completes (.crd l w) s (fun t =>
      (t.link l).total = (bits w 8 12, (s.link l).total.2) ∧ (t.link l).held = (s.link l).held)) ∧
    ((s.link l).held ≠ [] → (s.link l).carries = true → (s.link l).resendOldest < 3 → Completes (.replayTimeout l) s (fun t =>
      t.now = Nat.max s.now ((s.link l).heldAt + 16000) ∧ (t.link l).held = (s.link l).held ∧
      (∀ f ∈ (s.link l).held, .frame l ((s.link l).hdrFor f) f.payload ∈ t.out))) ∧
    (∀ a, (s.link l).nakHold = some a → Completes (.nakHoldoffEnd l) s (fun t =>
      t.now = Nat.max s.now (a + 16000) ∧ (t.link l).nakHold = none ∧ (t.link l).rxSeq = (s.link l).rxSeq))

/-- A credit stall, a hunt of 1 µs, and a failed recovery each start a recovery (R153, R158, R165); two failed recoveries in a row
start a full retrain, whose failure takes the link DOWN (R165); the degraded mark follows R166. -/
def Obligations.RecoveryAndRetrain : Prop :=
  ∀ (s : State) (l : Nat), ((s.link l).recTimes.filter (fun a => decide (s.now < a + 1000000000))).length < 15 →
    (∀ f vc, (s.link l).st = .active → (s.link l).hunting = false → (vc = 0 ∨ vc = 2) → f ∈ (s.link l).waiting → f.vc = vc →
      (s.link l).avail vc < frameCredits f.len → Completes (.creditStall l vc) s (fun t =>
        t.now = Nat.max s.now ((if vc = 0 then (s.link l).totalAt.1 else (s.link l).totalAt.2) + 10000000) ∧
        t.health.stalls = s.health.stalls + 1 ∧ (t.link l).st = .recovery ∧
        (t.link l).recoveries = satAdd 255 (s.link l).recoveries 1)) ∧
    (∀ shs, (s.link l).carries = true → lockLost shs = true → Completes (.lossOfLock l shs) s (fun t =>
      (t.link l).hunting = true ∧ (t.link l).huntAt = s.now ∧ (t.link l).hunts = satAdd 255 (s.link l).hunts 1)) ∧
    ((s.link l).st = .active → (s.link l).hunting = true → Completes (.blockHuntTimeout l) s (fun t =>
      t.now = Nat.max s.now ((s.link l).huntAt + 1000) ∧ (t.link l).st = .recovery ∧ (t.link l).hunting = false)) ∧
    ((s.link l).st = .recovery → (s.link l).failedRec = 0 → Completes (.recoveryTimeout l) s (fun t =>
      t.now = Nat.max s.now ((s.link l).trainAt + 8000) ∧ (t.link l).st = .recovery ∧ (t.link l).failedRec = 1)) ∧
    ((s.link l).st = .recovery → (s.link l).failedRec = 1 → (s.link l).cmds = [] → Completes (.recoveryTimeout l) s (fun t =>
      (t.link l).st = .train ∧ (t.link l).retraining = some t.now ∧ (t.link l).held = (s.link l).held ∧
      t.health.linkRetrains = s.health.linkRetrains + 1)) ∧
    (∀ a, (s.link l).retraining = some a → (s.link l).st = .train → (s.link l).cmds = [] → (s.link l).queue = [] → Quiet s →
      (∀ e ∈ s.st.bands, e.2.st ≠ .opened ∧ e.2.st ≠ .closed) → Completes (.fullRetrainFailure l) s (fun t =>
        t.now = Nat.max s.now (a + 26000000) ∧ (t.link l).st = .down ∧ (t.link l).retraining = none)) ∧
    Completes (.linkDegraded l) s (fun t => (t.link l).degraded = (s.link l).isDegraded s.now ∧ (t.link l).st = (s.link l).st)

/-- The training of a link, step by step: signal, block lock, TS1, the trial of the eight presets, TS2 and the reading of the
descriptor (R157, R162, R163, R177), the limits on it, and the waves of bring-up (R164). A link enters STANDBY or SLEEPING
when its bridge answers, and is ACTIVE again once WAKE has been answered and block lock is confirmed (R167). -/
def Obligations.TrainingAndLowPowerLinks : Prop :=
  (∀ (s : State) (l : Nat) (w : Word) (line : List (BitVec 130)), IdleLink (s.link l) →
    ((s.link l).st = .detect →
      (s.now < (s.link l).trainAt + 100000000 → Completes (.signalDetect l) s (fun t => t.now = Nat.max s.now ((s.link l).trainAt + 10000) ∧ (t.link l).st = .train ∧
        (t.link l).total = (0, 0) ∧ (t.link l).locked = false)) ∧
      ((s.link l).trainAt + 100000000 ≤ s.now → Completes (.signalDetect l) s (fun t => (t.link l).st = .absent)) ∧
      Completes (.detectTimeout l) s (fun t => t.now = Nat.max s.now ((s.link l).trainAt + 100000000) ∧ (t.link l).st = .absent)) ∧
    ((s.link l).st = .train → (lockAt line).isSome = true → Completes (.blockLock l line) s (fun t => (t.link l).locked = true ∧ (t.link l).st = .train)) ∧
    ((s.link l).st = .train → (s.link l).locked = true → (s.link l).ts1s = 7 → (s.link l).trial = none → (s.link l).equalised = false →
      ctlIs cTS1 w = true → s.now < (s.link l).limit → Completes (.ts1 l w) s (fun t => (t.link l).trial = some (0, []) ∧ (t.link l).trainAt = s.now)) ∧
    (∀ p done q, (s.link l).st = .train → (s.link l).trial = some (p, done) → p < 7 →
      Nat.max s.now ((s.link l).trainAt + 2000000 * (p + 1)) < (s.link l).limit →
      Completes (.equalisationPreset l q) s (fun t => (t.link l).trial = some (p + 1, done ++ [(p, q)]) ∧
        t.now = Nat.max s.now ((s.link l).trainAt + 2000000 * (p + 1)))) ∧
    (∀ done q, (s.link l).st = .train → (s.link l).trial = some (7, done) →
      Nat.max s.now ((s.link l).trainAt + 16000000) < (s.link l).limit → Completes (.equalisationPreset l q) s (fun t =>
      (t.link l).trial = none ∧ (t.link l).equalised = true ∧ (t.link l).presetRx = BitVec.ofNat 3 (bestPreset (done ++ [(7, q)])))) ∧
    (∀ cid, (s.link l).st = .train → (s.link l).equalised = true → (s.link l).ts2s = 15 → (s.link l).retraining = none →
      ctlIs cTS2 w = true → bits w 8 8 = 1 → s.now < (s.link l).limit → (s.link l).freeCid = some cid → Completes (.ts2 l w) s (fun t =>
        (t.link l).st = .enumerate ∧ (t.link l).granted = (32, 576) ∧ (t.link l).rxSeq = 4095 ∧
        (∃ m, mget none (t.link l).cmds cid = some m ∧ m.op = .descriptor ∧ m.why = .enumerate))) ∧
    ((s.link l).st = .train → (s.link l).retraining = none → (s.link l).cmds = [] → Quiet s →
      (∀ e ∈ s.st.bands, e.2.st ≠ .opened ∧ e.2.st ≠ .closed) → Completes (.trainingLimit l) s (fun t =>
        t.now = Nat.max s.now (s.link l).limit ∧ (t.link l).st = .down)) ∧
    (0 < s.stew.wave → (∀ k ∈ s.waveLinks s.stew.wave, (s.link k).st = .active ∨ (s.link k).st = .absent) →
      s.stew.wave * s.stew.waveSize < 512 → Completes .enumerationWave s (fun t => t.stew.wave = s.stew.wave + 1 ∧
        (∀ k ∈ s.waveLinks (s.stew.wave + 1), k < 512 → s.tableField 0x030002 k 1 0 = 0 →
          (t.link k).st = .detect ∧ (t.link k).presetTx = 2)))) ∧
  (∀ (s : State) (l : Nat) (w : Word) (line : List (BitVec 130)),
    (ctlIs cSTBY w = true → (s.link l).st = .active → (s.link l).req = some .standby → Completes (.stby l w) s (fun t =>
      (t.link l).st = .standby ∧ (t.link l).req = none ∧ (∀ k, k ≠ l → t.link k = s.link k))) ∧
    (ctlIs cSLEEP w = true → (s.link l).st = .active → (s.link l).req = some .sleeping → s.pw.entering ≠ some .p2 →
      Completes (.sleep l w) s (fun t => (t.link l).st = .sleeping ∧ (t.link l).req = none ∧ (∀ k, k ≠ l → t.link k = s.link k))) ∧
    (ctlIs cWAKE w = true → (s.link l).wakeSent = true → (s.link l).st = .standby ∨ (s.link l).st = .sleeping → Completes (.wake l w) s (fun t =>
      (t.link l).req = some .active ∧ (t.link l).st = (s.link l).st ∧ (t.link l).locked = false)) ∧
    ((s.link l).st = .standby → (s.link l).req = some .active → IdleLink (s.link l) → (s.link l).held = [] → Quiet s →
      (∀ e ∈ s.st.bands, e.2.eraseWait = []) → (lockAt line).isSome = true → Completes (.blockLock l line) s (fun t => (t.link l).st = .active ∧ (t.link l).req = none)))

/-! ### Media (07) -/

/-- The end of a media command frees its ID (R171, R172); a response to READ_PAGE announces its frames (R174); a program or an
erase that passes does what it was for (R96, R101, R186, R189); the value of a STATUS or GET_FEATURE response is kept (R172,
R173). -/
def Obligations.MediaResponses : Prop :=
  ∀ (s : State) (l cid : Nat) (rec : BitVec 128) (m : MCmd), IdleLink (s.link l) → cid < 256 → respCid rec = cid →
    mget none (s.link l).cmds cid = some m → Quiet s → s.hq.cqAnswer = true → s.jr.holdStep = 0 → s.jr.rescueWait = [] → s.jr.rescueAgain = [] →
    (respStatus rec = .pass →
    (∀ c q tag gs, m.op = .readPage → m.why = .hostRead q tag gs → mget none (s.link l).climbs cid = some c → c.responded = false →
      0 < respFrames rec → (mget {} (s.link l).susp m.die).active = false →
      Completes (.readPageResponse l rec false true) s (fun t =>
        mget none (t.link l).climbs cid = some { c with responded := true, framesLeft := respFrames rec } ∧
        (t.link l).rdFor = (s.link l).rdFor ++ [(cid, respFrames rec)] ∧ mget none (t.link l).cmds cid = some m)) ∧
    (∀ die plane, m.op = .program → m.why = .pilotProg die plane 2047 →
      Completes (.programResponse l rec true) s (fun t =>
        mget none (t.link l).cmds cid = none ∧ t.pilotAge = s.pilotAge ∧ (∀ k, k ≠ l → t.link k = s.link k))) ∧
    (∀ die plane d, m.op = .erase → m.why = .pilotErase die plane → (s.link l).desc = some d →
      Completes (.eraseResponse l rec true) s (fun t => mget 0 t.pilotAge (64 * l + 4 * die + plane) = s.ageNow)) ∧
    (∀ k r, m.op = .program → m.why = .row k r →
      (let p := bandRegion k;
        let b := bandIndex k;
        s.rowStaged p b r ≠ [] → (∀ e ∈ s.rowStaged p b r, e.programmed = true ∨ grainTile e.at_ = tileOfLink l % 8) →
        s.countCmds (fun x => decide (x.why = .parity k r)) = 0 → bandKey p b = k →
        Completes (.programResponse l rec true) s (fun t =>
          t.rowStaged p b r = [] ∧ mget none (t.link l).cmds cid = none))) ∧
    (∀ k, m.op = .erase → m.why = .bandErase k → (s.bandAt k).erasePend = [tileOfLink l % 8] → (s.bandAt k).lossy = false →
      s.st.sanitizing = false → (s.bandAt k).st = .erasing → s.journalRoom 4 = true →
      Completes (.eraseResponse l rec true) s (fun t =>
        (t.bandAt k).own = (s.bandAt k).own + 1 ∧ (t.bandAt k).erasePend = [] ∧ (t.bandAt k).st = .free)) ∧
    (m.op = .status → Completes (.statusResponse l rec) s (fun t => mget none (t.link l).cmds cid = none ∧ t.st = s.st ∧
      mget 0 (t.link l).dieStatus m.die = respValue rec)) ∧
    (m.op = .getFeature → Completes (.getFeatureResponse l rec) s (fun t => mget none (t.link l).cmds cid = none ∧ t.st = s.st ∧
      mget 0 (t.link l).features (256 * m.die + m.level) = respValue rec)) ∧
    (m.op = .setFeature → Completes (.setFeatureResponse l rec) s (fun t => mget none (t.link l).cmds cid = none ∧ t.st = s.st ∧
      mget 0 (t.link l).features (256 * m.die + m.level) = m.arg)) ∧
    (m.op = .suspend → (s.link l).readWaits m.die = true → Completes (.suspendResponse l rec) s (fun t =>
      mget none (t.link l).cmds cid = none ∧ (mget {} (t.link l).susp m.die).since = s.now))) ∧
    (m.op = .resume → Completes (.resumeResponse l rec) s (fun t => mget none (t.link l).cmds cid = none ∧ t.st = s.st)) ∧
    (m.op = .suspend → respStatus rec = .notSuspended → Completes (.suspendResponse l rec) s (fun t =>
      mget none (t.link l).cmds cid = none ∧ (mget {} (t.link l).susp m.die).active = false))

/-- A supported descriptor makes its link ACTIVE and gives its region its geometry (R177, R178); a die that answers nothing has
failed (R199); suspensions begin and end as R200 has it; pilots are read and rewritten (R189, R190). -/
def Obligations.StacksDiesAndPilots : Prop :=
  ∀ (s : State) (l cid die plane : Nat) (rec : BitVec 128) (m : MCmd) (b : Bytes) (d : StackDesc), IdleLink (s.link l) → s.hq.cqAnswer = true →
    cid < 256 → respCid rec = cid → respStatus rec = .pass → s.jr.holdStep = 0 →
    (mget none (s.link l).cmds cid = some m → m.op = .descriptor → (s.link l).st = .enumerate → StackDesc.ofBytes b = some d →
      descSupported d = true → s.now < (s.link l).trainAt + enumLimit d.dies →
      (∀ e ∈ s.links, regionOfLink e.1 = regionOfLink l → e.2.desc = none) → Quiet s → (∀ e ∈ s.st.bands, e.2.eraseWait = []) →
      Completes (.descriptorResponse l rec b) s (fun t =>
        (t.link l).st = .active ∧ (t.link l).desc = some d ∧ (t.link l).dies = d.dies ∧ t.geomOf (regionOfLink l) = (d.dies, d.blocks))) ∧
    ((s.link l).cmds = [(cid, some m)] → (s.link l).climbs = [] → m.op = .status → m.die = die → Quiet s →
      s.st.failedDies.contains (16 * l + die) = false →
      (∀ e ∈ s.st.bands, e.2.st ≠ .opened ∧ e.2.st ≠ .closed ∧ e.2.st ≠ .verified) →
      Completes (.dieNoAnswer l die true) s (fun t =>
        t.st.failedDies = s.st.failedDies ++ [16 * l + die] ∧ mget none (t.link l).cmds cid = some { m with why := .firmware } ∧
        (∃ e, t.health.events.head? = some e ∧ e.kind = 0x23 ∧ e.link = l ∧ e.arg = BitVec.ofNat 64 die))) ∧
    (∀ x, (s.link l).busyWith die = some m → m.op = .program → (s.link l).readWaits die = true → mget {} (s.link l).susp die = {} →
      (s.link l).st = .active → (s.link l).freeCid = some x →
      Completes (.suspendWait l die) s (fun t =>
        (mget {} (t.link l).susp die).active = true ∧ (mget {} (t.link l).susp die).count = 1 ∧
        (∃ y, mget none (t.link l).cmds x = some y ∧ y.op = .suspend ∧ y.die = die))) ∧
    (∀ x, (mget {} (s.link l).susp die).active = true → (s.link l).st = .active → (s.link l).freeCid = some x →
      Completes (.suspendLimit l die) s (fun t =>
        t.now = Nat.max s.now ((mget {} (s.link l).susp die).since + 2000000) ∧ (mget {} (t.link l).susp die).active = false ∧
        (∃ y, mget none (t.link l).cmds x = some y ∧ y.op = .resume ∧ y.die = die))) ∧
    (∀ y b k, mget none (s.link l).cmds cid = some m → m.op = .readPilot → m.why = .pilot die plane b k →
      mget none (s.link l).pilots (4 * die + plane) = some y → y.got.length < 16 →
      (∀ u v, Completes (.readPilotResponse l rec u v) s (fun t =>
        ∃ z, mget none (t.link l).pilots (4 * die + plane) = some z ∧ z.got = y.got ++ [(m.offs.getD (b - 1) 0, u, v)] ∧
          z.boundary = y.boundary ∧ z.wordline = y.wordline))) ∧
    (Completes .pilotSweep s (fun t =>
      t.now = Nat.max s.now (s.stew.pilotAt + 1000000000 * s.param 0x030010 600) ∧ t.stew.pilotAt = t.now ∧
      t.stew.pilotWl = (s.stew.pilotWl + 1) % 512)) ∧
    (∀ x, (s.link l).desc = some d → (s.link l).st = .active → (s.link l).freeCid = some x →
      Completes (.pilotRewrite l die plane) s (fun t =>
        ∃ y, mget none (t.link l).cmds x = some y ∧ y.op = .erase ∧ y.die = die ∧ y.block = d.pilot ∧ y.why = .pilotErase die plane))

/-- The decode of the one codeword a READ of a grain waits for writes the grain to the host's buffer and completes the command
(R68, R179, R180, R184, R191); a failed decode senses again on the next rung (R191, R193); a rebuild that its tag CRC confirms
counts on rung 5 and gives the codeword (R181, R182, R194). -/
def Obligations.DecodeDeliversOrClimbs : Prop :=
  ∀ (s : State) (l cid q tag g i : Nat) (m : MCmd) (c : Climb) (o : Op) (cw : Bytes),
    IdleLink (s.link l) → mget none (s.link l).cmds cid = some m → m.op = .readPage → mget none (s.link l).climbs cid = some c →
    Quiet s → s.hq.cqAnswer = true → (s.link l).pilots = [] → cid < 256 →
    (c.responded = true → c.framesLeft = 0 → c.rung = 0 → (s.link l).hardRetired = false → c.joined = [] → m.why = .hostRead q tag [(g, i)] →
      s.op q tag = some o → o.started = true → o.want = [g] → Sqe.opcode o.sqe = 2 → Sqe.fReduce o.sqe = false → o.keyGen = none →
      o.slack = false → o.bytesOut = 0 → (s.slabIdx o).isSome = true → Posting s q →
      cw.length = 4608 → ldpcOk cw = true → tagPoison (cwOpen (readLoc l m).seed cw).2 = false →
      (s.bandAt (s.bandAtPlace l m.die m.block)).role = 2 →
      Completes (.codewordDecode l cid (.ok cw) .ok true) s (fun t =>
        .hostWrite q tag (1024 * (g - Sqe.grain o.sqe)) (s.queue q).pasid (slice (cwOpen (readLoc l m).seed cw).1 (1024 * i) 1024) ∈ t.out ∧
        Ended s t q tag .success 0x00 1024 ∧
        mget none (t.link l).cmds cid = none ∧ mget 0 t.health.rung 0 = mget 0 s.health.rung 0 + 1)) ∧
    (c.responded = true → c.framesLeft = 0 → c.rung < 4 → (2 ≤ c.rung ∨ (s.link l).hardRetired = true → s.onSoft l cid = true) →
      (c.rung = 1 → c.sub ≠ 0) →
      Completes (.codewordDecode l cid .fail .ok true) s (fun t =>
        ∃ d x, mget none (t.link l).climbs cid = some d ∧ d.rung = c.rung + 1 ∧ d.responded = false ∧
          mget none (t.link l).cmds cid = some x ∧ x.why = m.why ∧ x.sstep = (if c.rung = 0 then 0 else 2) ∧
          x.reads = (if c.rung = 0 then 1 else if c.rung = 1 then 3 else if c.rung = 2 then 5 else 7))) ∧
    (c.rung = 5 → c.rebuild = 0 → c.joined = [] → c.parts.length = 8 → m.why = .selfTest →
      (s.bandAt (s.bandAtPlace l m.die m.block)).role = 2 →
      tagOk (cwOpen (s.homeOfRead l m).seed (xorAll 4608 c.parts)).2 = true →
      Completes (.parityRebuild l cid .ok true) s (fun t =>
        mget 0 t.health.rung 5 = mget 0 s.health.rung 5 + 1 ∧ mget none (t.link l).cmds cid = none))

/-! ### DRAM (17) -/

/-- The DRAM commands: refresh, calibration, MR4, the closing of an idle row, retraining of one subchannel at a time, and bursts
as they return, in the order of the queues (R400 to R404, R406 to R411). -/
def Obligations.DramCommands : Prop :=
  ∀ (s : State) (c n : Nat), c < 4 → n < 2 → (s.subch c n).inService = true → (s.subch c n).selfRefresh = false →
    (∀ r, r < 2 → exec (.dramRefresh c n r) s = .next (s.setSubch c n { s.subch c n with refreshes := (s.subch c n).refreshes + 1 })) ∧
    (exec (.zqCalibration c n) s = .next (s.setSubch c n { s.subch c n with zqDone := (s.subch c n).zqDone + 1 })) ∧
    (∀ r rate temp, temp < (s.subch c n).trainTemp + 10 → (s.subch c n).trainTemp < temp + 10 →
      exec (.mr4Read c n r rate temp) s =
        .next (s.setSubch c n { s.subch c n with
          refreshRate := if r = 0 then (rate, (s.subch c n).refreshRate.2) else ((s.subch c n).refreshRate.1, rate), temp := temp })) ∧
    (∀ r rate temp, (s.subch c n).trainTemp + 10 ≤ temp ∨ temp + 10 ≤ (s.subch c n).trainTemp → (s.subch c n).training = false →
      (s.subch c (1 - n)).training = false → Completes (.mr4Read c n r rate temp) s (fun t => (t.subch c n).training = true ∧ (t.subch c n).temp = temp)) ∧
    (∀ r b, (mget {} (s.subch c n).banks (64 * r + b)).isOpen = true → Completes (.rowIdleClose c n r b) s (fun t =>
      (mget {} (t.subch c n).banks (64 * r + b)).isOpen = false ∧
      (mget {} (t.subch c n).banks (64 * r + b)).counter = (mget {} (s.subch c n).banks (64 * r + b)).counter)) ∧
    (∀ v : Word, bit v 1 = true → bit v 2 = true → (s.subch c 0).inService = true → (s.subch c 1).inService = true →
      (s.subch c 0).training = false → (s.subch c 1).training = false →
      Completes (.dcRetrainWrite c v) s (fun t => (t.chan c).scrubEn = bit v 0 ∧ (t.subch c 0).training = true ∧
        (t.subch c 1).training = false ∧ (t.subch c 1).retrain = true)) ∧
    (∀ drift, s.param 0x010023 8 < drift → (s.subch c n).training = false → (s.subch c (1 - n)).training = false →
      Completes (.dqsOscillatorDrift c n drift) s (fun t => (t.subch c n).training = true)) ∧
    ((s.subch c n).training = true → Completes (.dramRetrainDone c n true) s (fun t =>
      (t.subch c n).training = false ∧ (t.subch c n).trainTemp = (s.subch c n).temp ∧ (t.subch c n).inService = true)) ∧
    (∀ (q : DramReq) beats, (∀ e ∈ beats.zipIdx, (reqRead q e.1 e.2).synd = 0 ∧ (reqRead q e.1 e.2).apMis = false) →
      (s.subch c n).reads = [] → (s.subch c n).writes = [] → (s.subch c n).training = false →
      (∀ r, q.access = .read r → (s.subch c n).outside = [] → (s.subch c n).scrubDue = false →
        Completes (.dramReadReturn c n [q] beats) s (fun t =>
          mget {} (t.subch c n).banks (reqBank q) = (mget {} (s.subch c n).banks (reqBank q)).access q.row ∧
          (t.subch c n).reads = [] ∧ (t.chan c).cecnt = (s.chan c).cecnt ∧ t.health = s.health ∧ t.ld = s.ld)) ∧
      ((s.chan c).scrubEn = true → q.access = .read .journal → Completes (.dramScrub c n q.rank q.bank q.row q.col beats) s (fun t =>
        (t.subch c n).scrubAt = (s.subch c n).scrubAt + 1 ∧ (t.chan c).cecnt = (s.chan c).cecnt ∧ t.health = s.health))) ∧
    (∀ (q w : DramReq) d mir r e, q.access = .read r → w.access = .write (BitVec.allOnes 64) d mir → reqBurst w = reqBurst q →
      (s.subch c n).reads = [] → (s.subch c n).writes = [e] → e.req = w → (s.subch c n).outside = [] → (s.subch c n).training = false →
      Completes (.dramReadReturn c n [q] []) s (fun t => .dramForward c n d ∈ t.out ∧ (t.subch c n).reads = [])) ∧
    (∀ (q : DramReq) b r, q.access = .read r → (reqRead q b 0).synd = 3 → (reqRead q b 0).apMis = false → (s.subch c n).ueTimes = [] → c < 2 →
      (s.subch c n).reads = [] → (s.subch c n).writes = [] → (s.subch c n).outside = [] → (s.subch c n).scrubDue = false →
      (s.subch c n).training = false → (s.subch (mirrorOf c) n).serves = true → reqMirrored q = true →
      Completes (.dramReadReturn c n [q] [b]) s (fun t =>
        .dramMirror (mirrorOf c) n ∈ t.out ∧ .dramWriteBack c n ∈ t.out ∧ (t.chan c).ue = true ∧ t.health.ueDram = s.health.ueDram + 1 ∧ t.ld = s.ld))

/-! ### The journal, checkpoints and recovery (05, 20) -/

/-- A flush fills the pages with PAD and hands them to flash (R127), while the spare pool can give the journal its bands; a page
that both copies hold leaves the line in order (R128). A checkpoint begins on its timer or on journal volume, taking bands for
its two copies; once those are ready and nothing journaled before its start still waits, its end writes the map and a
CHECKPOINT entry, and the two newest are kept (R129, R130, R186, R440). -/
def Obligations.JournalAndCheckpoints : Prop :=
  (∀ s : State, s.jr.holdStep = 0 →
    ((s.spareReserve : Int) + 2 ≤ s.sparePool →
      (let flushed := fun (t : State) =>
          t.jr.buf = [] ∧ t.jr.lastFlush = t.now ∧ t.staged = s.staged ∧ t.hq.queues = s.hq.queues ∧ t.jr.flash = s.jr.flash ∧
          ∃ pads : List JEntry, t.jr.flying = s.jr.flying ++ s.jr.buf ++ pads ∧ (s.jr.buf.length + pads.length) % 512 = 0 ∧
            pads.length < 512 ∧ (∀ e ∈ pads, e.body = .pad);
        Completes .journalInterval s (fun t => t.now = Nat.max s.now (s.jr.lastFlush + s.journalIntervalNs) ∧ flushed t) ∧
        (6144 ≤ s.jr.buf.length → Completes .journalBufferThreshold s (fun t => t.now = s.now ∧ flushed t)))) ∧
    (s.jr.flying ≠ [] → s.hq.cqAnswer = true → s.pageOver = true → s.copyReady s.jr.regA = true → s.copyReady s.jr.regB = true →
      s.jr.acts = [] → Still s →
      Completes (.journalPagePersisted true) s (fun t =>
        t.jr.flash = s.jr.flash ++ s.jr.flying.take 512 ∧ t.jr.flying = s.jr.flying.drop 512 ∧ t.jr.regA = s.jr.regA ∧
        t.jr.regB = s.jr.regB))) ∧
  (∀ s : State, s.jr.holdStep = 0 →
    (s.jr.ckptRun = none → bit s.hq.idReady 3 = true → s.st.moves = [] →
      Completes .checkpointTimer s (fun t => t.now = Nat.max s.now (s.jr.ckptAt + 1000000000 * s.param 0x040043 60) ∧
        t.jr.ckptRun = some (s.jr.jseq + 1, false)) ∧
      (s.param 0x040042 4 * 1073741824 ≤ s.jr.written → Completes .checkpointJournalVolume s (fun t =>
        t.now = s.now ∧ t.jr.ckptRun = some (s.jr.jseq + 1, false)))) ∧
    (∀ start clean, s.jr.ckptRun = some (start, clean) → s.jr.ckptBands ≠ [] → (∀ k ∈ s.jr.ckptBands, (s.bandAt k).taken = false) →
      (∀ a ∈ s.jr.acts, start ≤ a.1) → s.journalRoom 16 = true → s.hq.cqAnswer = true → s.st.sanitizing = false →
      Completes (.checkpointDone true) s (fun t =>
        (∃ c, t.jr.ckpts.head? = some c ∧ c.num = (s.jr.ckptNum + 1) % 65536 ∧ c.start = start ∧ c.clean = clean ∧
          c.image = s.st ∧ c.insts = s.hq.insts ∧ c.health = s.health ∧ c.levels = s.levels ∧ c.pilotAge = s.pilotAge ∧
          c.ageClock = s.ageNow ∧ c.bands = s.jr.ckptBands) ∧
        t.jr.ckpts.length ≤ 2 ∧ t.jr.ckptRun = none ∧ t.jr.written = 0 ∧
        (Quiet s → s.jr.jbands = [] → s.jr.ckpts.length ≤ 1 → t.st = s.st ∧
          t.jr.buf = s.jr.buf ++ [⟨s.jr.jseq + 1, 0, false,
            .checkpoint ((s.jr.ckptNum + 1) % 65536) start clean s.jr.regA s.jr.regB⟩]))))

/-- Recovery takes the map from the newest checkpoint of which a copy is valid, and after an unclean stop from the journal
replayed over it (R134 to R136); MAP_READY sets `ID_READY.MAP`, counts an unsafe shutdown and, after an unclean stop, begins a
checkpoint (R137, R438); the wall-time deadline follows R186. -/
def Obligations.RecoveryLoadsTheMap : Prop :=
  ∀ s : State,
    (∀ x c, s.jr.recovered = false → bit s.hq.idReady 3 = false → s.stew.boot = .firmware → s.recoverable x = true →
      s.startCkpt x = some c → Completes (.recoveryStart x) s (fun t =>
        t.jr.recovered = true ∧ t.jr.clean = s.stopClean c ∧ t.levels = c.levels ∧ t.pilotAge = c.pilotAge ∧
        (let r := if s.stopClean c then { st := c.image, insts := c.insts }
            else replay { st := c.image, insts := c.insts } c.start (s.readable x);
          t.st.remaps = r.st.remaps ∧ t.st.moves = r.st.moves ∧ t.st.retiredDb = r.st.retiredDb ∧ t.st.exported = r.st.exported) ∧
        (s.stopClean c = true → t.st.exts = c.image.exts ∧ ((∀ e ∈ s.st.bands, e.2.torn = false) → t.st.bands = c.image.bands) ∧
          (mwf ({} : Slab) c.image.slabs = true →
            ∀ ti, (t.slab ti).wp = (mget ({} : Slab) c.image.slabs ti).wp ∧ (t.slab ti).st = (mget ({} : Slab) c.image.slabs ti).st)))) ∧
    (s.jr.recovered = true → bit s.hq.idReady 3 = false → (∀ e ∈ s.hq.insts, e.2.st ≠ .resetting) → Quiet s →
      Completes .mapReady s (fun t =>
        t.hq.idReady = s.hq.idReady ||| 8 ∧ t.stew.mapAt = s.now ∧ bit t.hq.cuEvent 0 = true ∧ t.jr.unsafeStop = false ∧
        t.health.unsafeShutdowns = s.health.unsafeShutdowns + (if s.jr.unsafeStop then 1 else 0) ∧
        (s.jr.clean = false → s.jr.holdStep = 0 → t.jr.ckptRun.isSome = true))) ∧
    (bit s.hq.idReady 3 = true → s.stew.wallUsed = false → Completes .wallTimeDeadline s (fun t =>
      t.now = Nat.max s.now (s.stew.mapAt + 60000000000) ∧ t.stew.wallUsed = true ∧ t.stew.ageClock = s.stew.ageClock ∧
      (∃ e, t.health.events.head? = some e ∧ e.kind = 0x73 ∧ e.arg = BitVec.ofNat 64 s.stew.ageClock)))

/-! ### Power loss, resets and bring-up (05, 20) -/

/-- SHUTDOWN and POWER_FAIL# run the steps of R131: fetching stops and what is staged is rescued; in P2 and P3 nothing is left to
do (R485), and before the map is loaded there is nothing to flush, so that a SHUTDOWN ends at once with
`CU_STATUS.SHUTDOWN_DONE` (R28); 10 ms after POWER_FAIL# has gone high the device resets itself (R133, R522). A loss of the
supplies before their end is recorded (R123). -/
def Obligations.StopsRescueStaging : Prop :=
  ∀ s : State,
    (s.hq.shutdown = true → s.hq.shutdownDone = false → s.anyStarted = false → s.jr.holdStep = 0 →
      Completes .shutdownDone s (fun t => t.hq.stopFetch = true ∧ t.jr.holdFor = .shutdown ∧ t.staged = [] ∧
        2 ≤ t.jr.holdStep ∧ t.jr.holdStep ≤ 5 ∧ (s.jr.recovered = true → t.jr.rescue.map (·.data) = s.staged.map (·.data)) ∧
        (s.asleep = true → t.hq.shutdownDone = true ∧ t.jr.holdStep = 5) ∧
        (s.jr.recovered = false → s.jr.flying = [] → s.countCmds (fun m => decide (m.why = .rescue)) = 0 →
          t.hq.shutdownDone = true ∧ t.jr.holdStep = 5))) ∧
    (s.stew.supplies = true → s.stew.powerFail = false → s.stew.boot ≠ .off → s.jr.holdStep = 0 →
      Completes .powerFailAsserted s (fun t => t.now = s.now + 1000 ∧ t.stew.powerFail = true ∧ t.hq.stopFetch = true ∧
        t.jr.holdFor = .powerFail ∧ t.staged = [] ∧ 2 ≤ t.jr.holdStep ∧ t.jr.holdStep ≤ 5 ∧
        (s.jr.recovered = true → t.jr.rescue.map (·.data) = s.staged.map (·.data)))) ∧
    (s.jr.holdStep = 5 → s.jr.holdFor = .powerFail → s.stew.powerFail = false → Completes .powerFailReturn s (fun t =>
      t.now = Nat.max s.now (s.stew.highAt + 10000000) ∧ t.hq.queues = [] ∧ t.tiles = [] ∧ t.jr.holdStep = 0)) ∧
    (s.stew.powerFail = true →
      exec .powerFailReturn s = .next { s with stew := { s.stew with powerFail := false, highAt := s.now } }) ∧
    (s.stew.supplies = true → Completes .powerLoss s (fun t =>
      t.stew.supplies = false ∧ t.stew.boot = .off ∧ t.staged = [] ∧ t.hq.queues = [] ∧ t.tiles = [] ∧ t.links = [] ∧
      t.health.events = s.health.events ∧
      t.jr.unsafeStop = (s.jr.unsafeStop || decide (s.stew.boot ≠ .off ∧ s.jr.holdStep ≠ 5)))) ∧
    (s.stew.supplies = false → Completes .powerOn s (fun t =>
      t.stew.supplies = true ∧ t.stew.perst = true ∧ t.stew.boot = .off ∧ t.hq.queues = [] ∧ t.hq.idReady = 0))

/-- A reset pin takes the device into reset, with its namespaces kept (R445, R454), and its release samples the straps and starts
the boot ROM, the recovery service or the test mode (R444, R446). -/
def Obligations.ResetPins : Prop :=
  ∀ s : State, s.stew.supplies = true → s.stew.boot ≠ .off → s.stew.boot ≠ .chipFault → (s.hq.shutdownDone = true ∨ s.jr.holdStep = 5) →
    (let inReset := fun (t : State) => t.stew.boot = .off ∧ t.hq.linkUp = false ∧ t.hq.queues = [] ∧ t.hq.idReady = 0 ∧ t.tiles = [] ∧
        t.intLock = false ∧ t.intTgt = [] ∧ t.st = s.st ∧ t.jr.flash = s.jr.flash ∧ (∀ i, (t.inst i).extents = (s.inst i).extents);
      mwf {} s.hq.insts = true →
      Completes .perstAsserted s (fun t => t.stew.perst = true ∧ inReset t) ∧
      Completes .devRstAsserted s (fun t => t.stew.devRst = true ∧ t.now = s.now + 1000 ∧ inReset t)) ∧
    (∀ (u : State) (id : BitVec 5) (sel : BitVec 2), u.stew.supplies = true → u.stew.boot = .off →
      (let started := fun (t : State) => t.stew.boot = (if sel = 2 then .recovery else if sel = 3 then .test else .rom) ∧
          t.stew.image = (if sel = 1 then 1 else 0) ∧ t.stew.nodeId = id ∧ t.stew.bootSel = sel ∧ t.stew.time0 = u.now ∧ t.hq = u.hq;
        (u.stew.perst = true → u.stew.devRst = false → Completes (.perstDeasserted id sel) u (fun t => t.stew.perst = false ∧ started t)) ∧
        (u.stew.devRst = true → u.stew.perst = false → Completes (.devRstDeasserted id sel) u (fun t => t.stew.devRst = false ∧ started t))))

/-- A boot image whose header is valid and whose digest is fused and not revoked starts; any other is passed over, once to the
other image and then to the recovery service (R376, R448, R449, R451). The ready bits follow R452, and DRAM R396 and R408. -/
def Obligations.BootAndReadyBits : Prop :=
  ∀ (s : State),
    (∀ img : BootImage, s.stew.boot = .rom →
      (bootHeaderOk img = true → s.bootHits img.digest ≠ 0 → Completes (.bootImageLoaded img) s (fun t =>
        t.stew.boot = .firmware ∧ t.stew.version = img.version ∧ t.stew.bdDone = true ∧ t.stew.bdHit = s.bootHits img.digest ∧
        t.stew.wave = 1)) ∧
      (bootHeaderOk img = false ∨ s.bootHits img.digest = 0 →
        (s.stew.tried = 0 → Completes (.bootImageLoaded img) s (fun t =>
          t.stew.boot = .rom ∧ t.stew.tried = 1 ∧ t.stew.image = 1 - s.stew.image)) ∧
        (s.stew.tried ≠ 0 → Completes (.bootImageLoaded img) s (fun t => t.stew.boot = .recovery)))) ∧
    (s.stew.boot ≠ .off → s.stew.boot ≠ .chipFault → Completes .cfgReady s (fun t =>
      t.hq.linkUp = true ∧ t.hq.idReady = setBit s.hq.idReady 0 true)) ∧
    (s.stew.boot = .firmware →
      Completes .adminReady s (fun t => t.hq.idReady = setBit s.hq.idReady 1 true) ∧
      (∀ gib v, (gib = 32 ∨ gib = 48 ∨ gib = 64 ∨ gib = 96 ∨ gib = 128) → bit s.hq.idReady 2 = false → s.ld.runs = [] →
        Completes (.dramReady gib [(0, .ok v), (1, .ok v), (4, .ok v), (5, .ok v)]) s (fun t =>
          t.hq.idReady = setBit s.hq.idReady 2 true ∧ t.hq.dramPresent = true ∧ t.dram.gib = gib ∧ t.dram.chMask = 5 ∧
          (∀ n, n < 2 → (t.subch 0 n).inService = true ∧ (t.subch 2 n).inService = true))) ∧
      (∀ p, p < 8 → (s.region p).restarting = false → s.regionReady p = false → (∀ i, i < 64 → s.linkSettled (64 * p + i) = true) →
        (∀ e ∈ s.st.bands, e.2.st ≠ .stale) → Quiet s → Completes (.regionReady p) s (fun t =>
          t.hq.idReady = setBit s.hq.idReady (8 + p) true)))

/-! ### Power states, clocks, throttling (22) -/

/-- P1, P2 and P3 are entered when their idle timers expire, and left for P0 (R482 to R486): core clocks, links, DRAM and the
tiles' retention as R482 has them. P2 flushes the journal first, and is entered with the last link's SLEEP (R167, R484). -/
def Obligations.PowerStates : Prop :=
  ∀ s : State,
    (s.mayEnter 1 .p0 = true → Completes .p1Entry s (fun t =>
      t.pw.st = .p1 ∧ t.now = Nat.max s.now (s.pw.idleAt + s.idleTimer 1) ∧ (∀ c, c < 64 → (t.core c).clockOff = true) ∧
      (∀ l, (s.link l).st = .active → (s.link l).held = [] → (s.link l).cmds = [] →
        (t.link l).req = some .standby ∧ .ctl l (ctlWord cSTBY 0) ∈ t.out))) ∧
    (s.mayEnter 2 .p1 = true → s.staged = [] → s.st.tails = [] → s.jr.recovered = true → Completes .p2Entry s (fun t =>
      t.pw.entering = some .p2 ∧ t.pw.flushed = true ∧ t.now = Nat.max s.now (s.pw.idleAt + s.idleTimer 2) ∧
      (∃ e ∈ t.jr.flying, e.body = .holdup t.now 0) ∧
      (∀ l, (s.link l).st = .standby → (t.link l).wakeSent = true ∧ .ctl l (ctlWord cWAKE 0) ∈ t.out))) ∧
    (∀ (l : Nat) (w : Word), ctlIs cSLEEP w = true → s.pw.entering = some .p2 → s.pw.flushed = true → s.rescuing = false → s.jr.holdStep = 0 →
      s.jr.buf = [] → s.jr.flying = [] → mwf ({} : Link) s.links = true → (s.link l).st = .active → (s.link l).req = some .sleeping →
      (∀ e ∈ s.links, e.1 ≠ l → e.2.st ≠ .active ∧ e.2.st ≠ .standby) → Completes (.sleep l w) s (fun t =>
        t.pw.st = .p2 ∧ t.pw.entering = none ∧ (t.link l).st = .sleeping ∧
        (∀ k, k < 64 → k ≠ s.awakeTile (regionOfTile k) → (t.tile k).retain = 0xF ∧ (t.tile k).clockMhz = 800) ∧
        (∀ c n, c < 4 → n < 2 → (s.subch c n).inService = true → (t.subch c n).selfRefresh = true))) ∧
    (s.mayEnter 3 .p2 = true → Completes .p3Entry s (fun t =>
      t.pw.st = .p3 ∧ t.now = Nat.max s.now (s.pw.idleAt + s.idleTimer 3) ∧ (∀ k, k < 64 → (t.tile k).retain = 0xF) ∧ t.dram.cache = [] ∧
      (∀ l, (s.link l).st = .sleeping → (s.link l).held = [] → (s.link l).cmds = [] →
        (t.link l).req = some .sleeping ∧ (t.link l).diesOff = true ∧ .ctl l (ctlWord cPARK 1) ∈ t.out))) ∧
    (s.pw.leaving = true → (∀ e ∈ s.links, e.2.st ≠ .standby ∧ e.2.st ≠ .sleeping) → (∀ k, (s.tile k).laneWork = false) → Quiet s →
      Completes .powerStateExitDone s (fun t =>
        t.pw.st = .p0 ∧ t.pw.leaving = false ∧ (∀ k, k < 64 → (t.tile k).retain = 0 ∧ (t.tile k).awake = 0xF ∧ (t.core k).clockOff = false) ∧
        (∀ c n, c < 4 → n < 2 → (s.subch c n).inService = true → (t.subch c n).selfRefresh = false)))

/-- A tile's clock falls to 0.8 GHz after 20 µs without work and rises to the ceiling with work, its region's rail following
(R488, R489, R491); a core at rest may stop its clock (R499); the governor and the region sensors take and undo throttling
steps (R492 to R495). -/
def Obligations.ClocksAndThrottling : Prop :=
  ∀ (s : State) (k : Nat),
    (k < 64 → s.tileBusy k = false → Completes (.tileClockDrop k) s (fun t =>
      t.now = Nat.max s.now ((s.tile k).idleSince + 20000) ∧ (t.tile k).clockMhz = 800 ∧
      (t.region (regionOfTile k)).vreq.toNat ≤ (s.region (regionOfTile k)).vreq.toNat)) ∧
    (k < 64 → s.tileBusy k = true → s.pw.st = .p0 → (s.tile k).clockMhz < ceilingMhz (s.stepsOf k) → Completes (.tileClockRaise k) s (fun t =>
      (t.tile k).clockMhz = ceilingMhz (s.stepsOf k) ∧
      railCode (ceilingMhz (s.stepsOf k)) ≤ (t.region (regionOfTile k)).vreq.toNat ∧
      ((s.region (regionOfTile k)).vreq.toNat < railCode (ceilingMhz (s.stepsOf k)) → t.now = s.now + 50000))) ∧
    (k < 64 → s.sleepMode k ≠ 0 → (s.core k).atRest = true → exec (.coreClockStop k) s = .next (s.setCore k { s.core k with clockOff := true })) ∧
    (s.sleepMode 64 ≠ 0 → Completes (.coreClockStop 64) s (fun t => t.stew.clockOff = true ∧ t.tiles = s.tiles)) ∧
    (∀ mW, s.stew.supplies = true → (∀ j, (s.tile j).laneWork = false) → Quiet s →
      (((mW :: s.pw.samples).take 10).length = 10 → 290000 < ((mW :: s.pw.samples).take 10).foldl (· + ·) 0 → s.pw.overAt = none →
        s.pw.steps < 20 → Completes (.governorEstimate mW) s (fun t => t.pw.steps = s.pw.steps + 1 ∧ t.pw.overAt = some t.now)) ∧
      (∀ b, mW < 27000 → s.pw.belowAt = some b → b + 10000000 ≤ s.now → s.pw.samples.length < 9 → 0 < s.pw.steps →
        Completes (.governorEstimate mW) s (fun t => t.pw.steps = s.pw.steps - 1)) ∧
      (s.pw.samples.length < 9 → 27000 ≤ mW → Completes (.governorEstimate mW) s (fun t =>
        t.pw.steps = s.pw.steps ∧ t.pw.samples = mW :: s.pw.samples ∧ t.pw.belowAt = none))) ∧
    (∀ temps : List Nat, s.stew.supplies = true → temps.length = 9 → (∀ d ∈ temps, d < 1100) → (∀ p, p < 8 → (s.region p).hot = false) →
      ((∀ d ∈ temps, d < 1000) → Completes (.thermalSample temps) s (fun t =>
        t.now = Nat.max s.now (s.pw.sampleAt + 1000000) ∧ t.pw.devTemp = temps.getD 0 0 ∧
        (∀ p, p < 8 → (t.region p).tempDeci = temps.getD (p + 1) 0 ∧ (t.region p).hot = false))) ∧
      (∀ p, p < 8 → 1000 ≤ temps.getD (p + 1) 0 → (∀ j, (s.tile j).laneWork = false) → Completes (.thermalSample temps) s (fun t =>
        (t.region p).hot = true ∧ (t.region p).steps = 1 ∧ t.stew.thermAlert = true ∧ bit t.hq.cuEvent 2 = true)))

/-! ### Ladle's own rows, and the store's background work (04, 11) -/

/-- Items the steward submits, ticks, the raise of background items, the steal delay and the Stockpot (R281, R282, R286, R287,
R292, R295). -/
def Obligations.LadleRows : Prop :=
  ∀ (s : State) (p : Nat) (x : Item),
    (∀ d : ItemDesc, s.canAccept (itemOfDesc d) = true →
      (s.toTimer (itemOfDesc d) = false → s.spills (itemOfDesc d).region (itemOfDesc d) = false → Completes (.stewardItemSubmit d) s (fun t =>
        t.ld.seq = s.ld.seq + 1 ∧ (t.region (itemOfDesc d).region).ready = (s.region (itemOfDesc d).region).ready ++
          [{ itemOfDesc d with seq := s.ld.seq + 1, fseen := s.ld.fences, enq := s.now }])) ∧
      (s.toTimer (itemOfDesc d) = true → Completes (.stewardItemSubmit d) s (fun t =>
        { itemOfDesc d with seq := s.ld.seq + 1, fseen := s.ld.fences } ∈ (t.region (itemOfDesc d).region).timers ∧
        (t.region (itemOfDesc d).region).timers.length = (s.region (itemOfDesc d).region).timers.length + 1))) ∧
    ((s.region p).timers = [x] → x.region = p → s.tickOf x.due ≤ s.endingTick p → s.hasPlace p x = true → s.spills p x = false →
      Completes (.timerTick p) s (fun t =>
        t.now = Nat.max s.now ((s.endingTick p + 1) * s.tickNs) ∧ (t.region p).timers = [] ∧ (t.region p).nextTick = s.endingTick p + 1 ∧
        (t.region p).ready = (s.region p).ready ++ [{ x with fseen := s.ld.fences, enq := t.now }])) ∧
    ((s.region p).ready.find? (fun (y : Item) => decide (y.kind = .background ∧ y.prio = 7) && !y.raised) = some x →
      Completes (.backgroundRaise p) s (fun t => t.now = Nat.max s.now (x.enq + 5000000) ∧ { x with raised := true } ∈ (t.region p).ready ∧
        (∀ r, r ≠ p → t.region r = s.region r))) ∧
    ((s.region p).ready = [x] → (∀ j, (s.tile j).laneWork = false) → s.now < x.enq + s.stealDelay →
      Completes (.stealDelayExpiry p) s (fun t => t.now = x.enq + s.stealDelay ∧ t.ld = s.ld)) ∧
    ((s.region p).spilled = [x] → (s.region p).ready.length < 3584 → Completes (.stockpotBringBack p) s (fun t =>
      (t.region p).spilled = [] ∧ (t.region p).ready = (s.region p).ready ++ [{ x with enq := s.now }]))

/-- A relocation takes a band, journals MOVE_BEGIN and marks the slab MOVING (R112); an old band is asked for refresh (R196); a
verify-read reads the band from its first row (R103); folding reads the next row resident in SLC, or programs one still staged
(R107). -/
def Obligations.BackgroundWork : Prop :=
  ∀ (s : State) (p b ti : Nat),
    (∀ why fg, mget none s.st.moveReq ti = some (why, fg) → why ≠ .refresh → why ≠ .wear → why ≠ .merge → (s.slab ti).moving = false →
      ((s.slab ti).st = .opened ∨ (s.slab ti).st = .full) → s.jr.buf.length + 4 ≤ 8192 → s.place? = some (p, b) → s.jr.holdStep = 0 →
      Completes (.relocationStart ti) s (fun t =>
        (t.slab ti).moving = true ∧ (t.slab ti).band = (s.slab ti).band ∧ mget none t.st.moveReq ti = none ∧
        t.st.epoch = s.st.epoch + 1 ∧ (t.band p b).taken = true ∧ (t.band p b).role = 0 ∧
        (∃ m, mget none t.st.moves ti = some m ∧ m.srcRegion = (s.slab ti).region ∧ m.srcBand = (s.slab ti).band ∧
          m.dstRegion = p ∧ m.dstBand = b ∧ m.w0 = (s.slab ti).wp ∧ m.epoch = s.st.epoch + 1 ∧ m.foreground = fg) ∧
        (∃ e, t.jr.buf.getLast? = some e ∧ e.body = .moveBegin ti b p (s.slab ti).wp (s.st.epoch + 1)))) ∧
    (∀ a, (s.bandAt (bandKey p b)).firstProg = some a →
      (86400 * s.param 0x030014 180 ≤ s.ageNow - a → (s.bandAt (bandKey p b)).st = .closed → (s.bandAt (bandKey p b)).role = 0 →
        bandRegion (bandKey p b) = p → bandIndex (bandKey p b) = b → s.logOf p b = none → s.slabOf p b = some ti → (s.slab ti).moving = false →
        Completes (.bandAgeRefresh p b) s (fun t => (∃ f, mget none t.st.moveReq ti = some (.refresh, f)) ∧ t.st.bands = s.st.bands)) ∧
      (s.ageNow - a < 86400 * s.param 0x030014 180 → exec (.bandAgeRefresh p b) s = .next s)) ∧
    ((s.bandAt (bandKey p b)).st = .closed → (s.bandAt (bandKey p b)).role = 0 → mget none s.st.verifies (bandKey p b) = none →
      bandRegion (bandKey p b) = p → bandIndex (bandKey p b) = b → s.bgPaused p = false → s.verifiable p b = true →
      mget none s.st.slcs (bandKey p b) = none → s.movingTo p b = none → (∀ e ∈ s.staged, ¬ (e.region = p ∧ e.band = b)) → 0 < s.writtenOf p b → s.hq.cqAnswer = true →
      Completes (.verifyRead p b true) s (fun t =>
        (∃ v, mget none t.st.verifies (bandKey p b) = some v ∧ v.row = 1 ∧ 0 < v.left ∧ v.bad = []) ∧ t.st.bands = s.st.bands)) ∧
    (∀ x, mget none s.st.slcs (bandKey p b) = some x → x.phase = 0 → x.f < x.w → s.regionReady p = true → s.bgPaused p = false →
      s.noCmds (.slcRow (bandKey p b) x.f) = true →
      ((s.rowStaged p b x.f).length = 512 → Completes (.foldRow p b) s (fun t => ∃ g, g.length = 128 ∧
        mget none t.st.slcs (bandKey p b) = some { x with phase := 2, left := 0, got := g })) ∧
      ((s.rowStaged p b x.f).length ≠ 512 → 512 * x.f < s.writtenOf p b →
        (∀ c ∈ s.rowLocs p b (512 * x.f) (Nat.min (s.writtenOf p b) (512 * (x.f + 1))),
          s.reachable c = true ∧ (s.link c.link).retraining = none) →
        Completes (.foldRow p b) s (fun t => ∃ n, 0 < n ∧ mget none t.st.slcs (bandKey p b) = some { x with phase := 1, left := n })))

/-! ### Reset, and what every step keeps -/

/-- What a reset leaves, as R25 to R29, R162, R243, R416, R444 and R454 have it: no queue exists but as DISABLED ones, no link
trains, no core runs, nothing is ready, and the pins are as at power-off. The registers the spec states no reset value for
hold the model's choice of zero (assumption 1). The invariants below hold after reset: the target registers are in canonical
form, and so is every tile's scratchpad. -/
def Obligations.ResetState : Prop :=
  (State.reset.pending = [] ∧ State.reset.hq.idReady = 0 ∧ (∀ q, State.reset.queue q = {} ∧ (State.reset.queue q).st = .disabled) ∧
  (∀ l, (State.reset.link l).st = .disabled) ∧ (∀ c, (State.reset.core c).mode = .idle ∧ (State.reset.core c).item = none) ∧
  (∀ n, State.reset.targetOf n = none) ∧ State.reset.intLock = false ∧ State.reset.stew.boot = .off ∧
  State.reset.stew.supplies = false ∧ State.reset.stew.perst = true ∧ State.reset.staged = [] ∧ State.reset.pw.st = .p0) ∧
  (targetsWf State.reset = true ∧ State.reset.hq.cqAnswer = true ∧ ∀ k, memWf (State.reset.tile k).mem = true)

/-- Whatever a step does, the target registers keep their canonical form, and none is listed that the target table of R416 does
not have. -/
def Obligations.StepsKeepTargetsWf : Prop :=
  ∀ s t : State, targetsWf s = true → step s = .next t → targetsWf t = true

/-- Once locked, no step but one that resets the device (which also clears the lock) changes a target register (R416). -/
def Obligations.LockedTargetsStay : Prop :=
  ∀ s t : State, s.intLock = true → step s = .next t → (t.intLock = true ∧ t.intTgt = s.intTgt) ∨ (t.intLock = false ∧ t.intTgt = [])
end

