-- ==== Sys2Proof/Laws/Codeword.lean ====
section
/-! SUPPORT. Laws of the codeword (R179 to R181): a number survives its bytes, the randomiser undoes itself, every codeword that is
laid out passes the checks of R181, and opening it gives the data and the tag back. -/

namespace Sys2Proof.Machine

theorem natLe_length : ∀ n v, (natLe n v).length = n
  | 0, _ => rfl
  | n + 1, v => by simp [natLe, natLe_length n]

theorem leNat_natLe : ∀ n v, v < 256 ^ n → leNat (natLe n v) = v
  | 0, v, h => by simp at h; simp [natLe, leNat, h]
  | n + 1, v, h => by
    have h1 : v / 256 < 256 ^ n := Nat.div_lt_of_lt_mul (by rw [Nat.pow_succ] at h; omega)
    simp [natLe, leNat, leNat_natLe n _ h1]
    omega

theorem randomise_length : ∀ (b : Bytes) (g : BitVec 23), (randomise b g).length = b.length
  | [], _ => rfl
  | x :: r, g => by simp [randomise, randomise_length r]

/-- The randomiser undoes itself (R180). -/
theorem randomise_twice : ∀ (b : Bytes) (g : BitVec 23), randomise (randomise b g) g = b
  | [], _ => rfl
  | x :: r, g => by simp [randomise, randomise_twice r, BitVec.xor_assoc]

/-- Opening a codeword that was laid out gives its data and tag back (R179, R180). -/
theorem cwOpen_cwEncode (g : BitVec 23) {d t : Bytes} (hd : d.length = 4096) (ht : t.length = 32) :
    cwOpen g (cwEncode g d t) = (d, BitVec.ofNat 256 (leNat t)) := by
  have hl : (randomise (d ++ t) g).length = 4128 := by simp [randomise_length, hd, ht]
  have e : (cwEncode g d t).take 4128 = randomise (d ++ t) g := List.take_left' hl
  simp [cwOpen, e, randomise_twice, List.take_left' hd, List.drop_left' hd]

/-! ### The code -/

/-- Parity block `r` by back-substitution. -/
def parityBlock (info : Bytes) : Nat → BitVec 128
  | 0 => ldpcSum info 0
  | r + 1 => ldpcSum info (r + 1) ^^^ parityBlock info r

/-- Parity blocks 0 to `n` − 1 as bytes. -/
def parityBytes (info : Bytes) (n : Nat) : Bytes := (List.range n).flatMap (fun r => natLe 16 (parityBlock info r).toNat)

theorem parityBytes_succ (info : Bytes) (n : Nat) :
    parityBytes info (n + 1) = parityBytes info n ++ natLe 16 (parityBlock info n).toNat := by
  simp [parityBytes, List.range_succ]

theorem parityBytes_length (info : Bytes) : ∀ n, (parityBytes info n).length = 16 * n
  | 0 => rfl
  | n + 1 => by simp [parityBytes_succ, parityBytes_length info n, natLe_length]; omega

theorem ldpcParity_eq (info : Bytes) : ldpcParity info = parityBytes info 30 := by
  have h : ∀ n, (List.range n).foldl (fun (a : Bytes × BitVec 128) r =>
      let p := ldpcSum info r ^^^ a.2
      (a.1 ++ natLe 16 p.toNat, p)) ([], 0#128) = (parityBytes info n, if n = 0 then 0 else parityBlock info (n - 1)) := by
    intro n
    induction n with
    | zero => rfl
    | succ n ih =>
      rw [List.range_succ, List.foldl_append, ih, parityBytes_succ]
      cases n <;> simp [parityBlock]
  show (Prod.fst (List.foldl _ _ _)) = _
  exact congrArg Prod.fst (h 30)

/-- Parity block `r` stands in place `r` of the parity bytes. -/
theorem parityBytes_slice (info : Bytes) (r : Nat) : ∀ n, r < n →
    ((parityBytes info n).drop (16 * r)).take 16 = natLe 16 (parityBlock info r).toNat
  | 0, h => absurd h (by omega)
  | n + 1, h => by
    have hl := parityBytes_length info n
    rw [parityBytes_succ]
    by_cases e : r = n
    · subst e
      rw [List.drop_left' hl, List.take_of_length_le (by simp [natLe_length])]
    · have ih := parityBytes_slice info r n (by omega)
      rw [List.drop_append_of_le_length (by omega), List.take_append_of_le_length (by simp [hl]; omega), ih]

theorem slice_left (a b : Bytes) (off n : Nat) (h : off + n ≤ a.length) : slice (a ++ b) off n = slice a off n := by
  have e : ((a ++ b).drop off).take n = (a.drop off).take n := by
    rw [List.drop_append_of_le_length (by omega), List.take_append_of_le_length (by simp; omega)]
  simp [slice, e]

/-- Every codeword that is laid out passes the checks of R181. -/
theorem ldpcOk_parity (info : Bytes) (h : info.length = 4128) : ldpcOk (info ++ ldpcParity info) = true := by
  rw [ldpcParity_eq]
  have hsum : ∀ r, ldpcSum (info ++ parityBytes info 30) r = ldpcSum info r := by
    intro r
    unfold ldpcSum
    have e : ∀ l : List Nat, (∀ j ∈ l, j < 258) → ∀ a, l.foldl (fun a j => a ^^^ ldpcTerm r j (cwBlock (info ++ parityBytes info 30) j)) a =
        l.foldl (fun a j => a ^^^ ldpcTerm r j (cwBlock info j)) a := by
      intro l
      induction l with
      | nil => intros; rfl
      | cons j l ih =>
        intro hl a
        have hj : j < 258 := hl j (by simp)
        have hb : cwBlock (info ++ parityBytes info 30) j = cwBlock info j := by
          simp only [cwBlock]
          rw [slice_left _ _ _ _ (by omega)]
        simp only [List.foldl_cons, hb]
        exact ih (fun k hk => hl k (by simp [hk])) _
    exact e _ (fun j hj => List.mem_range.1 hj) 0
  have hpar : ∀ r, r < 30 → cwBlock (info ++ parityBytes info 30) (258 + r) = parityBlock info r := by
    intro r hr
    have hs : slice (info ++ parityBytes info 30) (16 * (258 + r)) 16 = natLe 16 (parityBlock info r).toNat := by
      have e : (info ++ parityBytes info 30).drop (16 * (258 + r)) = (parityBytes info 30).drop (16 * r) := by
        rw [show 16 * (258 + r) = info.length + 16 * r by omega, List.drop_append]
        simp
      unfold slice
      rw [e, parityBytes_slice info r 30 hr]
      simp [natLe_length]
    rw [cwBlock, hs, leNat_natLe _ _ (by simpa using (parityBlock info r).isLt)]
    simp
  simp only [ldpcOk, List.all_eq_true, List.mem_range, decide_eq_true_eq]
  intro r hr
  rw [hsum, hpar r hr]
  cases r with
  | zero => simp [parityBlock]
  | succ r =>
    rw [show 257 + (r + 1) = 258 + r by omega, hpar r (by omega)]
    simp [parityBlock, BitVec.xor_assoc]

/-- The codeword of any data and tag passes the checks of R181. -/
theorem ldpcOk_cwEncode (g : BitVec 23) {d t : Bytes} (hd : d.length = 4096) (ht : t.length = 32) :
    ldpcOk (cwEncode g d t) = true :=
  ldpcOk_parity _ (by simp [randomise_length, hd, ht])

theorem cwEncode_length (g : BitVec 23) {d t : Bytes} (hd : d.length = 4096) (ht : t.length = 32) :
    (cwEncode g d t).length = 4608 := by
  simp [cwEncode, ldpcParity_eq, parityBytes_length, randomise_length, hd, ht]

end Sys2Proof.Machine
end

