-- ==== Sys2Proof/Laws/Map.lean ====
section
/-! SUPPORT. Laws of sparse tables and of folds over the state: what a read after a write gives, that writes keep the canonical
form, and the invariant of a fold. -/

namespace Sys2Proof.Machine

variable {β : Type} {d v : β} {m : SMap β} {j k : Nat}

/-! ### Reads and writes -/

theorem merase_keys : ∀ {m : SMap β}, ∀ e ∈ merase m k, e ∈ m ∧ e.1 ≠ k
  | [], e, h => by simp [merase] at h
  | (a, b) :: r, e, h => by
    unfold merase at h
    split at h
    · have := merase_keys (m := r) e h
      exact ⟨List.mem_cons_of_mem _ this.1, this.2⟩
    · rename_i ne
      rcases List.mem_cons.1 h with rfl | h
      · exact ⟨List.mem_cons_self, ne⟩
      · have := merase_keys (m := r) e h
        exact ⟨List.mem_cons_of_mem _ this.1, this.2⟩

theorem mget_merase : ∀ {m : SMap β}, mget d (merase m k) j = if j = k then d else mget d m j
  | [] => by simp [merase, mget]
  | (a, b) :: r => by
    unfold merase
    split
    · rename_i h
      rw [mget_merase (m := r)]
      by_cases hj : j = k
      · simp [hj]
      · have : ¬ a = j := fun h' => hj (h' ▸ h)
        simp [hj, mget, this]
    · rename_i h
      by_cases ha : a = j
      · have : ¬ j = k := fun h' => h (ha.trans h')
        simp [mget, ha, this]
      · simp [mget, ha, mget_merase (m := r)]

theorem mget_minsert : ∀ {m : SMap β}, (∀ e ∈ m, e.1 ≠ k) → mget d (minsert m k v) j = if j = k then v else mget d m j
  | [], _ => by
    by_cases h : k = j
    · simp [minsert, mget, h]
    · simp [minsert, mget, h, Ne.symm h]
  | (a, b) :: r, hm => by
    have ha : a ≠ k := hm (a, b) List.mem_cons_self
    unfold minsert
    split
    · by_cases h : k = j
      · simp [mget, h]
      · simp [mget, h, Ne.symm h]
    · have ih := mget_minsert (m := r) (fun e he => hm e (List.mem_cons_of_mem _ he))
      by_cases h : a = j
      · have : ¬ j = k := fun h' => ha (h.trans h')
        simp [mget, h, this]
      · simp [mget, h, ih]

/-- A read after a write of the table. -/
theorem mget_mset [DecidableEq β] : mget d (mset d m k v) j = if j = k then v else mget d m j := by
  unfold mset
  split
  · rename_i h
    rw [mget_merase, h]
  · rw [mget_minsert (fun e he => (merase_keys e he).2), mget_merase]
    by_cases h : j = k <;> simp [h]

@[simp] theorem mget_mset_self [DecidableEq β] : mget d (mset d m k v) k = v := by simp [mget_mset]
theorem mget_mset_ne [DecidableEq β] (h : j ≠ k) : mget d (mset d m k v) j = mget d m j := by simp [mget_mset, h]
@[simp] theorem mget_nil : mget d ([] : SMap β) k = d := rfl

/-- What every entry and the default satisfy, every value read satisfies. -/
theorem mget_of_all {p : β → Prop} (hd : p d) : ∀ {m : SMap β}, (∀ e ∈ m, p e.2) → p (mget d m k)
  | [], _ => hd
  | (a, b) :: r, h => by
    unfold mget
    split
    · exact h (a, b) List.mem_cons_self
    · exact mget_of_all hd (fun e he => h e (List.mem_cons_of_mem _ he))

/-- A value other than the default is listed. -/
theorem mget_mem : ∀ {m : SMap β}, mget d m k ≠ d → (k, mget d m k) ∈ m
  | [], h => absurd rfl h
  | (a, b) :: r, h => by
    unfold mget at h ⊢
    split
    · rename_i e; subst e; exact List.mem_cons_self
    · rename_i ne; rw [if_neg ne] at h
      exact List.mem_cons_of_mem _ (mget_mem h)

/-! ### The canonical form -/

theorem mwfFrom_mono [DecidableEq β] : ∀ {m : SMap β} {a b : Nat}, a ≤ b → mwfFrom d b m = true → mwfFrom d a m = true
  | [], _, _, _, _ => rfl
  | (x, y) :: r, a, b, h, hb => by
    simp only [mwfFrom, Bool.and_eq_true, decide_eq_true_eq] at hb ⊢
    exact ⟨⟨Nat.le_trans h hb.1.1, hb.1.2⟩, hb.2⟩

theorem mwfFrom_merase [DecidableEq β] : ∀ {m : SMap β} {a : Nat}, mwfFrom d a m = true → mwfFrom d a (merase m k) = true
  | [], _, _ => rfl
  | (x, y) :: r, a, h => by
    simp only [mwfFrom, Bool.and_eq_true, decide_eq_true_eq] at h
    unfold merase
    split
    · exact mwfFrom_merase (mwfFrom_mono (Nat.le_succ_of_le h.1.1) h.2)
    · simp only [mwfFrom, Bool.and_eq_true, decide_eq_true_eq]
      exact ⟨h.1, mwfFrom_merase h.2⟩

theorem mwfFrom_minsert [DecidableEq β] (hv : v ≠ d) : ∀ {m : SMap β} {a : Nat}, a ≤ k → (∀ e ∈ m, e.1 ≠ k) →
    mwfFrom d a m = true → mwfFrom d a (minsert m k v) = true
  | [], a, ha, _, _ => by simp [minsert, mwfFrom, ha, hv]
  | (x, y) :: r, a, ha, hk, h => by
    simp only [mwfFrom, Bool.and_eq_true, decide_eq_true_eq] at h
    unfold minsert
    split
    · rename_i lt
      simp only [mwfFrom, Bool.and_eq_true, decide_eq_true_eq]
      exact ⟨⟨ha, by simpa using hv⟩, ⟨Nat.succ_le_of_lt lt, h.1.2⟩, h.2⟩
    · rename_i le
      have hx : x ≠ k := hk (x, y) List.mem_cons_self
      simp only [mwfFrom, Bool.and_eq_true, decide_eq_true_eq]
      exact ⟨h.1, mwfFrom_minsert hv (by omega) (fun e he => hk e (List.mem_cons_of_mem _ he)) h.2⟩

/-- A write keeps the canonical form. -/
theorem mwf_mset [DecidableEq β] (h : mwf d m = true) : mwf d (mset d m k v) = true := by
  unfold mwf mset at *
  split
  · exact mwfFrom_merase h
  · rename_i ne
    exact mwfFrom_minsert ne (Nat.zero_le _) (fun e he => (merase_keys e he).2) (mwfFrom_merase h)

theorem mwf_mmod [DecidableEq β] {f : β → β} (h : mwf d m = true) : mwf d (mmod d m k f) = true := mwf_mset h

theorem mget_of_lt [DecidableEq β] : ∀ {m : SMap β} {a : Nat}, mwfFrom d a m = true → k < a → mget d m k = d
  | [], _, _, _ => rfl
  | (x, y) :: r, a, h, hk => by
    simp only [mwfFrom, Bool.and_eq_true, decide_eq_true_eq] at h
    have : ¬ x = k := by omega
    simp only [mget, this, if_false]
    exact mget_of_lt h.2 (by omega)

/-- A map over the listed values, in a canonical table and with the default fixed. -/
theorem mget_mmap [DecidableEq β] {f : β → β} (hf : f d = d) : ∀ {m : SMap β} {a : Nat}, mwfFrom d a m = true →
    mget d (mmap d f m) k = f (mget d m k)
  | [], _, _ => hf.symm
  | (x, y) :: r, a, h => by
    simp only [mwfFrom, Bool.and_eq_true, decide_eq_true_eq] at h
    have ih := mget_mmap hf h.2
    unfold mmap at ih ⊢
    by_cases hx : x = k
    · subst hx
      by_cases hy : f y = d
      · have hr : mget d (r.filterMap (fun e => if f e.2 = d then none else some (e.1, f e.2))) x = d := by
          rw [ih, mget_of_lt h.2 (Nat.lt_succ_self _), hf]
        simp [mget, hy, hr]
      · simp [mget, hy]
    · by_cases hy : f y = d
      · simpa [mget, hy, hx] using ih
      · simpa [mget, hy, hx] using ih

/-! ### Folds -/

/-- What each step of a fold keeps, the fold keeps. -/
theorem foldS_keeps {α σ : Type} {f : σ → α → σ} {p : σ → Prop} : ∀ {l : List α} {s : σ}, p s → (∀ s, ∀ x ∈ l, p s → p (f s x)) →
    p (foldS f s l)
  | [], _, h, _ => h
  | x :: r, s, h, hf => foldS_keeps (l := r) (hf s x List.mem_cons_self h) (fun s y hy => hf s y (List.mem_cons_of_mem _ hy))

/-- A fold whose every step changes nothing changes nothing. -/
theorem foldS_id {α σ : Type} {f : σ → α → σ} : ∀ {l : List α} {s : σ}, (∀ x ∈ l, f s x = s) → foldS f s l = s
  | [], _, _ => rfl
  | x :: r, s, h => by
    unfold foldS
    rw [h x List.mem_cons_self]
    exact foldS_id (fun y hy => h y (List.mem_cons_of_mem _ hy))

/-- A fold keeps what each of its steps keeps of a component. -/
theorem foldS_proj {α σ τ : Type} {f : σ → α → σ} {g : σ → τ} : ∀ {l : List α} {s : σ}, (∀ s x, g (f s x) = g s) → g (foldS f s l) = g s
  | [], _, _ => rfl
  | x :: r, s, h => by
    unfold foldS
    rw [foldS_proj (l := r) h, h]

end Sys2Proof.Machine
end

