-- ==== Sys2Proof/Laws/State.lean ====
section
/-! SUPPORT. Laws of the updates of the state: what each update of Machine/Ops.lean leaves alone, what each read gives after it, and
the update read back. -/

namespace Sys2Proof.Machine

variable {s : State} {j j' : Nat}

/-! ### setQueue -/

section
variable {q : Nat} {x : Queue}

@[simp] theorem State.setQueue_now : (s.setQueue q x).now = s.now := rfl
@[simp] theorem State.setQueue_st : (s.setQueue q x).st = s.st := rfl
@[simp] theorem State.setQueue_staged : (s.setQueue q x).staged = s.staged := rfl
@[simp] theorem State.setQueue_jr : (s.setQueue q x).jr = s.jr := rfl
@[simp] theorem State.setQueue_links : (s.setQueue q x).links = s.links := rfl
@[simp] theorem State.setQueue_levels : (s.setQueue q x).levels = s.levels := rfl
@[simp] theorem State.setQueue_levelDir : (s.setQueue q x).levelDir = s.levelDir := rfl
@[simp] theorem State.setQueue_pilotAge : (s.setQueue q x).pilotAge = s.pilotAge := rfl
@[simp] theorem State.setQueue_tiles : (s.setQueue q x).tiles = s.tiles := rfl
@[simp] theorem State.setQueue_ld : (s.setQueue q x).ld = s.ld := rfl
@[simp] theorem State.setQueue_keys : (s.setQueue q x).keys = s.keys := rfl
@[simp] theorem State.setQueue_cam : (s.setQueue q x).cam = s.cam := rfl
@[simp] theorem State.setQueue_dram : (s.setQueue q x).dram = s.dram := rfl
@[simp] theorem State.setQueue_intTgt : (s.setQueue q x).intTgt = s.intTgt := rfl
@[simp] theorem State.setQueue_intLock : (s.setQueue q x).intLock = s.intLock := rfl
@[simp] theorem State.setQueue_stewInt : (s.setQueue q x).stewInt = s.stewInt := rfl
@[simp] theorem State.setQueue_health : (s.setQueue q x).health = s.health := rfl
@[simp] theorem State.setQueue_dict : (s.setQueue q x).dict = s.dict := rfl
@[simp] theorem State.setQueue_stew : (s.setQueue q x).stew = s.stew := rfl
@[simp] theorem State.setQueue_pw : (s.setQueue q x).pw = s.pw := rfl
@[simp] theorem State.setQueue_out : (s.setQueue q x).out = s.out := rfl
@[simp] theorem State.setQueue_free : (s.setQueue q x).free = s.free := rfl
@[simp] theorem State.setQueue_pending : (s.setQueue q x).pending = s.pending := rfl
@[simp] theorem State.op_setQueue : (s.setQueue q x).op j j' = s.op j j' := rfl
@[simp] theorem State.vec_setQueue : (s.setQueue q x).vec j = s.vec j := rfl
@[simp] theorem State.inst_setQueue : (s.setQueue q x).inst j = s.inst j := rfl
@[simp] theorem State.slab_setQueue : (s.setQueue q x).slab j = s.slab j := rfl
@[simp] theorem State.bandAt_setQueue : (s.setQueue q x).bandAt j = s.bandAt j := rfl
@[simp] theorem State.band_setQueue : (s.setQueue q x).band j j' = s.band j j' := rfl
@[simp] theorem State.link_setQueue : (s.setQueue q x).link j = s.link j := rfl
@[simp] theorem State.tile_setQueue : (s.setQueue q x).tile j = s.tile j := rfl
@[simp] theorem State.core_setQueue : (s.setQueue q x).core j = s.core j := rfl
@[simp] theorem State.bank_setQueue : (s.setQueue q x).bank j j' = s.bank j j' := rfl
@[simp] theorem State.region_setQueue : (s.setQueue q x).region j = s.region j := rfl
@[simp] theorem State.runOf_setQueue : (s.setQueue q x).runOf j = s.runOf j := rfl
@[simp] theorem State.flow_setQueue : (s.setQueue q x).flow j = s.flow j := rfl
@[simp] theorem State.prog_setQueue : (s.setQueue q x).prog j j' = s.prog j j' := rfl
@[simp] theorem State.cslot_setQueue : (s.setQueue q x).cslot j = s.cslot j := rfl
@[simp] theorem State.hslot_setQueue : (s.setQueue q x).hslot j = s.hslot j := rfl
@[simp] theorem State.chan_setQueue : (s.setQueue q x).chan j = s.chan j := rfl
@[simp] theorem State.place_setQueue : (s.setQueue q x).place j = s.place j := rfl

end

/-! ### setOp -/

section
variable {q tag : Nat} {x : Option Op}

@[simp] theorem State.setOp_now : (s.setOp q tag x).now = s.now := rfl
@[simp] theorem State.setOp_st : (s.setOp q tag x).st = s.st := rfl
@[simp] theorem State.setOp_staged : (s.setOp q tag x).staged = s.staged := rfl
@[simp] theorem State.setOp_jr : (s.setOp q tag x).jr = s.jr := rfl
@[simp] theorem State.setOp_links : (s.setOp q tag x).links = s.links := rfl
@[simp] theorem State.setOp_levels : (s.setOp q tag x).levels = s.levels := rfl
@[simp] theorem State.setOp_levelDir : (s.setOp q tag x).levelDir = s.levelDir := rfl
@[simp] theorem State.setOp_pilotAge : (s.setOp q tag x).pilotAge = s.pilotAge := rfl
@[simp] theorem State.setOp_tiles : (s.setOp q tag x).tiles = s.tiles := rfl
@[simp] theorem State.setOp_ld : (s.setOp q tag x).ld = s.ld := rfl
@[simp] theorem State.setOp_keys : (s.setOp q tag x).keys = s.keys := rfl
@[simp] theorem State.setOp_cam : (s.setOp q tag x).cam = s.cam := rfl
@[simp] theorem State.setOp_dram : (s.setOp q tag x).dram = s.dram := rfl
@[simp] theorem State.setOp_intTgt : (s.setOp q tag x).intTgt = s.intTgt := rfl
@[simp] theorem State.setOp_intLock : (s.setOp q tag x).intLock = s.intLock := rfl
@[simp] theorem State.setOp_stewInt : (s.setOp q tag x).stewInt = s.stewInt := rfl
@[simp] theorem State.setOp_health : (s.setOp q tag x).health = s.health := rfl
@[simp] theorem State.setOp_dict : (s.setOp q tag x).dict = s.dict := rfl
@[simp] theorem State.setOp_stew : (s.setOp q tag x).stew = s.stew := rfl
@[simp] theorem State.setOp_pw : (s.setOp q tag x).pw = s.pw := rfl
@[simp] theorem State.setOp_out : (s.setOp q tag x).out = s.out := rfl
@[simp] theorem State.setOp_free : (s.setOp q tag x).free = s.free := rfl
@[simp] theorem State.setOp_pending : (s.setOp q tag x).pending = s.pending := rfl
@[simp] theorem State.queue_setOp : (s.setOp q tag x).queue j = s.queue j := rfl
@[simp] theorem State.vec_setOp : (s.setOp q tag x).vec j = s.vec j := rfl
@[simp] theorem State.inst_setOp : (s.setOp q tag x).inst j = s.inst j := rfl
@[simp] theorem State.slab_setOp : (s.setOp q tag x).slab j = s.slab j := rfl
@[simp] theorem State.bandAt_setOp : (s.setOp q tag x).bandAt j = s.bandAt j := rfl
@[simp] theorem State.band_setOp : (s.setOp q tag x).band j j' = s.band j j' := rfl
@[simp] theorem State.link_setOp : (s.setOp q tag x).link j = s.link j := rfl
@[simp] theorem State.tile_setOp : (s.setOp q tag x).tile j = s.tile j := rfl
@[simp] theorem State.core_setOp : (s.setOp q tag x).core j = s.core j := rfl
@[simp] theorem State.bank_setOp : (s.setOp q tag x).bank j j' = s.bank j j' := rfl
@[simp] theorem State.region_setOp : (s.setOp q tag x).region j = s.region j := rfl
@[simp] theorem State.runOf_setOp : (s.setOp q tag x).runOf j = s.runOf j := rfl
@[simp] theorem State.flow_setOp : (s.setOp q tag x).flow j = s.flow j := rfl
@[simp] theorem State.prog_setOp : (s.setOp q tag x).prog j j' = s.prog j j' := rfl
@[simp] theorem State.cslot_setOp : (s.setOp q tag x).cslot j = s.cslot j := rfl
@[simp] theorem State.hslot_setOp : (s.setOp q tag x).hslot j = s.hslot j := rfl
@[simp] theorem State.chan_setOp : (s.setOp q tag x).chan j = s.chan j := rfl
@[simp] theorem State.place_setOp : (s.setOp q tag x).place j = s.place j := rfl

end

/-! ### setVec -/

section
variable {v : Nat} {x : Vec}

@[simp] theorem State.setVec_now : (s.setVec v x).now = s.now := rfl
@[simp] theorem State.setVec_st : (s.setVec v x).st = s.st := rfl
@[simp] theorem State.setVec_staged : (s.setVec v x).staged = s.staged := rfl
@[simp] theorem State.setVec_jr : (s.setVec v x).jr = s.jr := rfl
@[simp] theorem State.setVec_links : (s.setVec v x).links = s.links := rfl
@[simp] theorem State.setVec_levels : (s.setVec v x).levels = s.levels := rfl
@[simp] theorem State.setVec_levelDir : (s.setVec v x).levelDir = s.levelDir := rfl
@[simp] theorem State.setVec_pilotAge : (s.setVec v x).pilotAge = s.pilotAge := rfl
@[simp] theorem State.setVec_tiles : (s.setVec v x).tiles = s.tiles := rfl
@[simp] theorem State.setVec_ld : (s.setVec v x).ld = s.ld := rfl
@[simp] theorem State.setVec_keys : (s.setVec v x).keys = s.keys := rfl
@[simp] theorem State.setVec_cam : (s.setVec v x).cam = s.cam := rfl
@[simp] theorem State.setVec_dram : (s.setVec v x).dram = s.dram := rfl
@[simp] theorem State.setVec_intTgt : (s.setVec v x).intTgt = s.intTgt := rfl
@[simp] theorem State.setVec_intLock : (s.setVec v x).intLock = s.intLock := rfl
@[simp] theorem State.setVec_stewInt : (s.setVec v x).stewInt = s.stewInt := rfl
@[simp] theorem State.setVec_health : (s.setVec v x).health = s.health := rfl
@[simp] theorem State.setVec_dict : (s.setVec v x).dict = s.dict := rfl
@[simp] theorem State.setVec_stew : (s.setVec v x).stew = s.stew := rfl
@[simp] theorem State.setVec_pw : (s.setVec v x).pw = s.pw := rfl
@[simp] theorem State.setVec_out : (s.setVec v x).out = s.out := rfl
@[simp] theorem State.setVec_free : (s.setVec v x).free = s.free := rfl
@[simp] theorem State.setVec_pending : (s.setVec v x).pending = s.pending := rfl
@[simp] theorem State.queue_setVec : (s.setVec v x).queue j = s.queue j := rfl
@[simp] theorem State.op_setVec : (s.setVec v x).op j j' = s.op j j' := rfl
@[simp] theorem State.inst_setVec : (s.setVec v x).inst j = s.inst j := rfl
@[simp] theorem State.slab_setVec : (s.setVec v x).slab j = s.slab j := rfl
@[simp] theorem State.bandAt_setVec : (s.setVec v x).bandAt j = s.bandAt j := rfl
@[simp] theorem State.band_setVec : (s.setVec v x).band j j' = s.band j j' := rfl
@[simp] theorem State.link_setVec : (s.setVec v x).link j = s.link j := rfl
@[simp] theorem State.tile_setVec : (s.setVec v x).tile j = s.tile j := rfl
@[simp] theorem State.core_setVec : (s.setVec v x).core j = s.core j := rfl
@[simp] theorem State.bank_setVec : (s.setVec v x).bank j j' = s.bank j j' := rfl
@[simp] theorem State.region_setVec : (s.setVec v x).region j = s.region j := rfl
@[simp] theorem State.runOf_setVec : (s.setVec v x).runOf j = s.runOf j := rfl
@[simp] theorem State.flow_setVec : (s.setVec v x).flow j = s.flow j := rfl
@[simp] theorem State.prog_setVec : (s.setVec v x).prog j j' = s.prog j j' := rfl
@[simp] theorem State.cslot_setVec : (s.setVec v x).cslot j = s.cslot j := rfl
@[simp] theorem State.hslot_setVec : (s.setVec v x).hslot j = s.hslot j := rfl
@[simp] theorem State.chan_setVec : (s.setVec v x).chan j = s.chan j := rfl
@[simp] theorem State.place_setVec : (s.setVec v x).place j = s.place j := rfl

end

/-! ### setInst -/

section
variable {i : Nat} {x : Inst}

@[simp] theorem State.setInst_now : (s.setInst i x).now = s.now := rfl
@[simp] theorem State.setInst_st : (s.setInst i x).st = s.st := rfl
@[simp] theorem State.setInst_staged : (s.setInst i x).staged = s.staged := rfl
@[simp] theorem State.setInst_jr : (s.setInst i x).jr = s.jr := rfl
@[simp] theorem State.setInst_links : (s.setInst i x).links = s.links := rfl
@[simp] theorem State.setInst_levels : (s.setInst i x).levels = s.levels := rfl
@[simp] theorem State.setInst_levelDir : (s.setInst i x).levelDir = s.levelDir := rfl
@[simp] theorem State.setInst_pilotAge : (s.setInst i x).pilotAge = s.pilotAge := rfl
@[simp] theorem State.setInst_tiles : (s.setInst i x).tiles = s.tiles := rfl
@[simp] theorem State.setInst_ld : (s.setInst i x).ld = s.ld := rfl
@[simp] theorem State.setInst_keys : (s.setInst i x).keys = s.keys := rfl
@[simp] theorem State.setInst_cam : (s.setInst i x).cam = s.cam := rfl
@[simp] theorem State.setInst_dram : (s.setInst i x).dram = s.dram := rfl
@[simp] theorem State.setInst_intTgt : (s.setInst i x).intTgt = s.intTgt := rfl
@[simp] theorem State.setInst_intLock : (s.setInst i x).intLock = s.intLock := rfl
@[simp] theorem State.setInst_stewInt : (s.setInst i x).stewInt = s.stewInt := rfl
@[simp] theorem State.setInst_health : (s.setInst i x).health = s.health := rfl
@[simp] theorem State.setInst_dict : (s.setInst i x).dict = s.dict := rfl
@[simp] theorem State.setInst_stew : (s.setInst i x).stew = s.stew := rfl
@[simp] theorem State.setInst_pw : (s.setInst i x).pw = s.pw := rfl
@[simp] theorem State.setInst_out : (s.setInst i x).out = s.out := rfl
@[simp] theorem State.setInst_free : (s.setInst i x).free = s.free := rfl
@[simp] theorem State.setInst_pending : (s.setInst i x).pending = s.pending := rfl
@[simp] theorem State.queue_setInst : (s.setInst i x).queue j = s.queue j := rfl
@[simp] theorem State.op_setInst : (s.setInst i x).op j j' = s.op j j' := rfl
@[simp] theorem State.vec_setInst : (s.setInst i x).vec j = s.vec j := rfl
@[simp] theorem State.slab_setInst : (s.setInst i x).slab j = s.slab j := rfl
@[simp] theorem State.bandAt_setInst : (s.setInst i x).bandAt j = s.bandAt j := rfl
@[simp] theorem State.band_setInst : (s.setInst i x).band j j' = s.band j j' := rfl
@[simp] theorem State.link_setInst : (s.setInst i x).link j = s.link j := rfl
@[simp] theorem State.tile_setInst : (s.setInst i x).tile j = s.tile j := rfl
@[simp] theorem State.core_setInst : (s.setInst i x).core j = s.core j := rfl
@[simp] theorem State.bank_setInst : (s.setInst i x).bank j j' = s.bank j j' := rfl
@[simp] theorem State.region_setInst : (s.setInst i x).region j = s.region j := rfl
@[simp] theorem State.runOf_setInst : (s.setInst i x).runOf j = s.runOf j := rfl
@[simp] theorem State.flow_setInst : (s.setInst i x).flow j = s.flow j := rfl
@[simp] theorem State.prog_setInst : (s.setInst i x).prog j j' = s.prog j j' := rfl
@[simp] theorem State.cslot_setInst : (s.setInst i x).cslot j = s.cslot j := rfl
@[simp] theorem State.hslot_setInst : (s.setInst i x).hslot j = s.hslot j := rfl
@[simp] theorem State.chan_setInst : (s.setInst i x).chan j = s.chan j := rfl
@[simp] theorem State.place_setInst : (s.setInst i x).place j = s.place j := rfl

end

/-! ### setSlab -/

section
variable {i : Nat} {x : Slab}

@[simp] theorem State.setSlab_now : (s.setSlab i x).now = s.now := rfl
@[simp] theorem State.setSlab_hq : (s.setSlab i x).hq = s.hq := rfl
@[simp] theorem State.setSlab_staged : (s.setSlab i x).staged = s.staged := rfl
@[simp] theorem State.setSlab_jr : (s.setSlab i x).jr = s.jr := rfl
@[simp] theorem State.setSlab_links : (s.setSlab i x).links = s.links := rfl
@[simp] theorem State.setSlab_levels : (s.setSlab i x).levels = s.levels := rfl
@[simp] theorem State.setSlab_levelDir : (s.setSlab i x).levelDir = s.levelDir := rfl
@[simp] theorem State.setSlab_pilotAge : (s.setSlab i x).pilotAge = s.pilotAge := rfl
@[simp] theorem State.setSlab_tiles : (s.setSlab i x).tiles = s.tiles := rfl
@[simp] theorem State.setSlab_ld : (s.setSlab i x).ld = s.ld := rfl
@[simp] theorem State.setSlab_keys : (s.setSlab i x).keys = s.keys := rfl
@[simp] theorem State.setSlab_cam : (s.setSlab i x).cam = s.cam := rfl
@[simp] theorem State.setSlab_dram : (s.setSlab i x).dram = s.dram := rfl
@[simp] theorem State.setSlab_intTgt : (s.setSlab i x).intTgt = s.intTgt := rfl
@[simp] theorem State.setSlab_intLock : (s.setSlab i x).intLock = s.intLock := rfl
@[simp] theorem State.setSlab_stewInt : (s.setSlab i x).stewInt = s.stewInt := rfl
@[simp] theorem State.setSlab_health : (s.setSlab i x).health = s.health := rfl
@[simp] theorem State.setSlab_dict : (s.setSlab i x).dict = s.dict := rfl
@[simp] theorem State.setSlab_stew : (s.setSlab i x).stew = s.stew := rfl
@[simp] theorem State.setSlab_pw : (s.setSlab i x).pw = s.pw := rfl
@[simp] theorem State.setSlab_out : (s.setSlab i x).out = s.out := rfl
@[simp] theorem State.setSlab_free : (s.setSlab i x).free = s.free := rfl
@[simp] theorem State.setSlab_pending : (s.setSlab i x).pending = s.pending := rfl
@[simp] theorem State.queue_setSlab : (s.setSlab i x).queue j = s.queue j := rfl
@[simp] theorem State.op_setSlab : (s.setSlab i x).op j j' = s.op j j' := rfl
@[simp] theorem State.vec_setSlab : (s.setSlab i x).vec j = s.vec j := rfl
@[simp] theorem State.inst_setSlab : (s.setSlab i x).inst j = s.inst j := rfl
@[simp] theorem State.bandAt_setSlab : (s.setSlab i x).bandAt j = s.bandAt j := rfl
@[simp] theorem State.band_setSlab : (s.setSlab i x).band j j' = s.band j j' := rfl
@[simp] theorem State.link_setSlab : (s.setSlab i x).link j = s.link j := rfl
@[simp] theorem State.tile_setSlab : (s.setSlab i x).tile j = s.tile j := rfl
@[simp] theorem State.core_setSlab : (s.setSlab i x).core j = s.core j := rfl
@[simp] theorem State.bank_setSlab : (s.setSlab i x).bank j j' = s.bank j j' := rfl
@[simp] theorem State.region_setSlab : (s.setSlab i x).region j = s.region j := rfl
@[simp] theorem State.runOf_setSlab : (s.setSlab i x).runOf j = s.runOf j := rfl
@[simp] theorem State.flow_setSlab : (s.setSlab i x).flow j = s.flow j := rfl
@[simp] theorem State.prog_setSlab : (s.setSlab i x).prog j j' = s.prog j j' := rfl
@[simp] theorem State.cslot_setSlab : (s.setSlab i x).cslot j = s.cslot j := rfl
@[simp] theorem State.hslot_setSlab : (s.setSlab i x).hslot j = s.hslot j := rfl
@[simp] theorem State.chan_setSlab : (s.setSlab i x).chan j = s.chan j := rfl
@[simp] theorem State.place_setSlab : (s.setSlab i x).place j = s.place j := rfl

end

/-! ### setBandAt -/

section
variable {k : Nat} {x : Band}

@[simp] theorem State.setBandAt_now : (s.setBandAt k x).now = s.now := rfl
@[simp] theorem State.setBandAt_hq : (s.setBandAt k x).hq = s.hq := rfl
@[simp] theorem State.setBandAt_staged : (s.setBandAt k x).staged = s.staged := rfl
@[simp] theorem State.setBandAt_jr : (s.setBandAt k x).jr = s.jr := rfl
@[simp] theorem State.setBandAt_links : (s.setBandAt k x).links = s.links := rfl
@[simp] theorem State.setBandAt_levels : (s.setBandAt k x).levels = s.levels := rfl
@[simp] theorem State.setBandAt_levelDir : (s.setBandAt k x).levelDir = s.levelDir := rfl
@[simp] theorem State.setBandAt_pilotAge : (s.setBandAt k x).pilotAge = s.pilotAge := rfl
@[simp] theorem State.setBandAt_tiles : (s.setBandAt k x).tiles = s.tiles := rfl
@[simp] theorem State.setBandAt_ld : (s.setBandAt k x).ld = s.ld := rfl
@[simp] theorem State.setBandAt_keys : (s.setBandAt k x).keys = s.keys := rfl
@[simp] theorem State.setBandAt_cam : (s.setBandAt k x).cam = s.cam := rfl
@[simp] theorem State.setBandAt_dram : (s.setBandAt k x).dram = s.dram := rfl
@[simp] theorem State.setBandAt_intTgt : (s.setBandAt k x).intTgt = s.intTgt := rfl
@[simp] theorem State.setBandAt_intLock : (s.setBandAt k x).intLock = s.intLock := rfl
@[simp] theorem State.setBandAt_stewInt : (s.setBandAt k x).stewInt = s.stewInt := rfl
@[simp] theorem State.setBandAt_health : (s.setBandAt k x).health = s.health := rfl
@[simp] theorem State.setBandAt_dict : (s.setBandAt k x).dict = s.dict := rfl
@[simp] theorem State.setBandAt_stew : (s.setBandAt k x).stew = s.stew := rfl
@[simp] theorem State.setBandAt_pw : (s.setBandAt k x).pw = s.pw := rfl
@[simp] theorem State.setBandAt_out : (s.setBandAt k x).out = s.out := rfl
@[simp] theorem State.setBandAt_free : (s.setBandAt k x).free = s.free := rfl
@[simp] theorem State.setBandAt_pending : (s.setBandAt k x).pending = s.pending := rfl
@[simp] theorem State.queue_setBandAt : (s.setBandAt k x).queue j = s.queue j := rfl
@[simp] theorem State.op_setBandAt : (s.setBandAt k x).op j j' = s.op j j' := rfl
@[simp] theorem State.vec_setBandAt : (s.setBandAt k x).vec j = s.vec j := rfl
@[simp] theorem State.inst_setBandAt : (s.setBandAt k x).inst j = s.inst j := rfl
@[simp] theorem State.slab_setBandAt : (s.setBandAt k x).slab j = s.slab j := rfl
@[simp] theorem State.link_setBandAt : (s.setBandAt k x).link j = s.link j := rfl
@[simp] theorem State.tile_setBandAt : (s.setBandAt k x).tile j = s.tile j := rfl
@[simp] theorem State.core_setBandAt : (s.setBandAt k x).core j = s.core j := rfl
@[simp] theorem State.bank_setBandAt : (s.setBandAt k x).bank j j' = s.bank j j' := rfl
@[simp] theorem State.region_setBandAt : (s.setBandAt k x).region j = s.region j := rfl
@[simp] theorem State.runOf_setBandAt : (s.setBandAt k x).runOf j = s.runOf j := rfl
@[simp] theorem State.flow_setBandAt : (s.setBandAt k x).flow j = s.flow j := rfl
@[simp] theorem State.prog_setBandAt : (s.setBandAt k x).prog j j' = s.prog j j' := rfl
@[simp] theorem State.cslot_setBandAt : (s.setBandAt k x).cslot j = s.cslot j := rfl
@[simp] theorem State.hslot_setBandAt : (s.setBandAt k x).hslot j = s.hslot j := rfl
@[simp] theorem State.chan_setBandAt : (s.setBandAt k x).chan j = s.chan j := rfl
@[simp] theorem State.place_setBandAt : (s.setBandAt k x).place j = s.place j := rfl

end

/-! ### setBand -/

section
variable {p b : Nat} {x : Band}

@[simp] theorem State.setBand_now : (s.setBand p b x).now = s.now := rfl
@[simp] theorem State.setBand_hq : (s.setBand p b x).hq = s.hq := rfl
@[simp] theorem State.setBand_staged : (s.setBand p b x).staged = s.staged := rfl
@[simp] theorem State.setBand_jr : (s.setBand p b x).jr = s.jr := rfl
@[simp] theorem State.setBand_links : (s.setBand p b x).links = s.links := rfl
@[simp] theorem State.setBand_levels : (s.setBand p b x).levels = s.levels := rfl
@[simp] theorem State.setBand_levelDir : (s.setBand p b x).levelDir = s.levelDir := rfl
@[simp] theorem State.setBand_pilotAge : (s.setBand p b x).pilotAge = s.pilotAge := rfl
@[simp] theorem State.setBand_tiles : (s.setBand p b x).tiles = s.tiles := rfl
@[simp] theorem State.setBand_ld : (s.setBand p b x).ld = s.ld := rfl
@[simp] theorem State.setBand_keys : (s.setBand p b x).keys = s.keys := rfl
@[simp] theorem State.setBand_cam : (s.setBand p b x).cam = s.cam := rfl
@[simp] theorem State.setBand_dram : (s.setBand p b x).dram = s.dram := rfl
@[simp] theorem State.setBand_intTgt : (s.setBand p b x).intTgt = s.intTgt := rfl
@[simp] theorem State.setBand_intLock : (s.setBand p b x).intLock = s.intLock := rfl
@[simp] theorem State.setBand_stewInt : (s.setBand p b x).stewInt = s.stewInt := rfl
@[simp] theorem State.setBand_health : (s.setBand p b x).health = s.health := rfl
@[simp] theorem State.setBand_dict : (s.setBand p b x).dict = s.dict := rfl
@[simp] theorem State.setBand_stew : (s.setBand p b x).stew = s.stew := rfl
@[simp] theorem State.setBand_pw : (s.setBand p b x).pw = s.pw := rfl
@[simp] theorem State.setBand_out : (s.setBand p b x).out = s.out := rfl
@[simp] theorem State.setBand_free : (s.setBand p b x).free = s.free := rfl
@[simp] theorem State.setBand_pending : (s.setBand p b x).pending = s.pending := rfl
@[simp] theorem State.queue_setBand : (s.setBand p b x).queue j = s.queue j := rfl
@[simp] theorem State.op_setBand : (s.setBand p b x).op j j' = s.op j j' := rfl
@[simp] theorem State.vec_setBand : (s.setBand p b x).vec j = s.vec j := rfl
@[simp] theorem State.inst_setBand : (s.setBand p b x).inst j = s.inst j := rfl
@[simp] theorem State.slab_setBand : (s.setBand p b x).slab j = s.slab j := rfl
@[simp] theorem State.link_setBand : (s.setBand p b x).link j = s.link j := rfl
@[simp] theorem State.tile_setBand : (s.setBand p b x).tile j = s.tile j := rfl
@[simp] theorem State.core_setBand : (s.setBand p b x).core j = s.core j := rfl
@[simp] theorem State.bank_setBand : (s.setBand p b x).bank j j' = s.bank j j' := rfl
@[simp] theorem State.region_setBand : (s.setBand p b x).region j = s.region j := rfl
@[simp] theorem State.runOf_setBand : (s.setBand p b x).runOf j = s.runOf j := rfl
@[simp] theorem State.flow_setBand : (s.setBand p b x).flow j = s.flow j := rfl
@[simp] theorem State.prog_setBand : (s.setBand p b x).prog j j' = s.prog j j' := rfl
@[simp] theorem State.cslot_setBand : (s.setBand p b x).cslot j = s.cslot j := rfl
@[simp] theorem State.hslot_setBand : (s.setBand p b x).hslot j = s.hslot j := rfl
@[simp] theorem State.chan_setBand : (s.setBand p b x).chan j = s.chan j := rfl
@[simp] theorem State.place_setBand : (s.setBand p b x).place j = s.place j := rfl

end

/-! ### setLink -/

section
variable {l : Nat} {x : Link}

@[simp] theorem State.setLink_now : (s.setLink l x).now = s.now := rfl
@[simp] theorem State.setLink_hq : (s.setLink l x).hq = s.hq := rfl
@[simp] theorem State.setLink_st : (s.setLink l x).st = s.st := rfl
@[simp] theorem State.setLink_staged : (s.setLink l x).staged = s.staged := rfl
@[simp] theorem State.setLink_jr : (s.setLink l x).jr = s.jr := rfl
@[simp] theorem State.setLink_levels : (s.setLink l x).levels = s.levels := rfl
@[simp] theorem State.setLink_levelDir : (s.setLink l x).levelDir = s.levelDir := rfl
@[simp] theorem State.setLink_pilotAge : (s.setLink l x).pilotAge = s.pilotAge := rfl
@[simp] theorem State.setLink_tiles : (s.setLink l x).tiles = s.tiles := rfl
@[simp] theorem State.setLink_ld : (s.setLink l x).ld = s.ld := rfl
@[simp] theorem State.setLink_keys : (s.setLink l x).keys = s.keys := rfl
@[simp] theorem State.setLink_cam : (s.setLink l x).cam = s.cam := rfl
@[simp] theorem State.setLink_dram : (s.setLink l x).dram = s.dram := rfl
@[simp] theorem State.setLink_intTgt : (s.setLink l x).intTgt = s.intTgt := rfl
@[simp] theorem State.setLink_intLock : (s.setLink l x).intLock = s.intLock := rfl
@[simp] theorem State.setLink_stewInt : (s.setLink l x).stewInt = s.stewInt := rfl
@[simp] theorem State.setLink_health : (s.setLink l x).health = s.health := rfl
@[simp] theorem State.setLink_dict : (s.setLink l x).dict = s.dict := rfl
@[simp] theorem State.setLink_stew : (s.setLink l x).stew = s.stew := rfl
@[simp] theorem State.setLink_pw : (s.setLink l x).pw = s.pw := rfl
@[simp] theorem State.setLink_out : (s.setLink l x).out = s.out := rfl
@[simp] theorem State.setLink_free : (s.setLink l x).free = s.free := rfl
@[simp] theorem State.setLink_pending : (s.setLink l x).pending = s.pending := rfl
@[simp] theorem State.queue_setLink : (s.setLink l x).queue j = s.queue j := rfl
@[simp] theorem State.op_setLink : (s.setLink l x).op j j' = s.op j j' := rfl
@[simp] theorem State.vec_setLink : (s.setLink l x).vec j = s.vec j := rfl
@[simp] theorem State.inst_setLink : (s.setLink l x).inst j = s.inst j := rfl
@[simp] theorem State.slab_setLink : (s.setLink l x).slab j = s.slab j := rfl
@[simp] theorem State.bandAt_setLink : (s.setLink l x).bandAt j = s.bandAt j := rfl
@[simp] theorem State.band_setLink : (s.setLink l x).band j j' = s.band j j' := rfl
@[simp] theorem State.tile_setLink : (s.setLink l x).tile j = s.tile j := rfl
@[simp] theorem State.core_setLink : (s.setLink l x).core j = s.core j := rfl
@[simp] theorem State.bank_setLink : (s.setLink l x).bank j j' = s.bank j j' := rfl
@[simp] theorem State.region_setLink : (s.setLink l x).region j = s.region j := rfl
@[simp] theorem State.runOf_setLink : (s.setLink l x).runOf j = s.runOf j := rfl
@[simp] theorem State.flow_setLink : (s.setLink l x).flow j = s.flow j := rfl
@[simp] theorem State.prog_setLink : (s.setLink l x).prog j j' = s.prog j j' := rfl
@[simp] theorem State.cslot_setLink : (s.setLink l x).cslot j = s.cslot j := rfl
@[simp] theorem State.hslot_setLink : (s.setLink l x).hslot j = s.hslot j := rfl
@[simp] theorem State.chan_setLink : (s.setLink l x).chan j = s.chan j := rfl
@[simp] theorem State.place_setLink : (s.setLink l x).place j = s.place j := rfl

end

/-! ### setTile -/

section
variable {t : Nat} {x : Tile}

@[simp] theorem State.setTile_now : (s.setTile t x).now = s.now := rfl
@[simp] theorem State.setTile_hq : (s.setTile t x).hq = s.hq := rfl
@[simp] theorem State.setTile_st : (s.setTile t x).st = s.st := rfl
@[simp] theorem State.setTile_staged : (s.setTile t x).staged = s.staged := rfl
@[simp] theorem State.setTile_jr : (s.setTile t x).jr = s.jr := rfl
@[simp] theorem State.setTile_links : (s.setTile t x).links = s.links := rfl
@[simp] theorem State.setTile_levels : (s.setTile t x).levels = s.levels := rfl
@[simp] theorem State.setTile_levelDir : (s.setTile t x).levelDir = s.levelDir := rfl
@[simp] theorem State.setTile_pilotAge : (s.setTile t x).pilotAge = s.pilotAge := rfl
@[simp] theorem State.setTile_ld : (s.setTile t x).ld = s.ld := rfl
@[simp] theorem State.setTile_keys : (s.setTile t x).keys = s.keys := rfl
@[simp] theorem State.setTile_cam : (s.setTile t x).cam = s.cam := rfl
@[simp] theorem State.setTile_dram : (s.setTile t x).dram = s.dram := rfl
@[simp] theorem State.setTile_intTgt : (s.setTile t x).intTgt = s.intTgt := rfl
@[simp] theorem State.setTile_intLock : (s.setTile t x).intLock = s.intLock := rfl
@[simp] theorem State.setTile_stewInt : (s.setTile t x).stewInt = s.stewInt := rfl
@[simp] theorem State.setTile_health : (s.setTile t x).health = s.health := rfl
@[simp] theorem State.setTile_dict : (s.setTile t x).dict = s.dict := rfl
@[simp] theorem State.setTile_stew : (s.setTile t x).stew = s.stew := rfl
@[simp] theorem State.setTile_pw : (s.setTile t x).pw = s.pw := rfl
@[simp] theorem State.setTile_out : (s.setTile t x).out = s.out := rfl
@[simp] theorem State.setTile_free : (s.setTile t x).free = s.free := rfl
@[simp] theorem State.setTile_pending : (s.setTile t x).pending = s.pending := rfl
@[simp] theorem State.queue_setTile : (s.setTile t x).queue j = s.queue j := rfl
@[simp] theorem State.op_setTile : (s.setTile t x).op j j' = s.op j j' := rfl
@[simp] theorem State.vec_setTile : (s.setTile t x).vec j = s.vec j := rfl
@[simp] theorem State.inst_setTile : (s.setTile t x).inst j = s.inst j := rfl
@[simp] theorem State.slab_setTile : (s.setTile t x).slab j = s.slab j := rfl
@[simp] theorem State.bandAt_setTile : (s.setTile t x).bandAt j = s.bandAt j := rfl
@[simp] theorem State.band_setTile : (s.setTile t x).band j j' = s.band j j' := rfl
@[simp] theorem State.link_setTile : (s.setTile t x).link j = s.link j := rfl
@[simp] theorem State.region_setTile : (s.setTile t x).region j = s.region j := rfl
@[simp] theorem State.runOf_setTile : (s.setTile t x).runOf j = s.runOf j := rfl
@[simp] theorem State.flow_setTile : (s.setTile t x).flow j = s.flow j := rfl
@[simp] theorem State.prog_setTile : (s.setTile t x).prog j j' = s.prog j j' := rfl
@[simp] theorem State.cslot_setTile : (s.setTile t x).cslot j = s.cslot j := rfl
@[simp] theorem State.hslot_setTile : (s.setTile t x).hslot j = s.hslot j := rfl
@[simp] theorem State.chan_setTile : (s.setTile t x).chan j = s.chan j := rfl
@[simp] theorem State.place_setTile : (s.setTile t x).place j = s.place j := rfl

end

/-! ### setCore -/

section
variable {t : Nat} {x : Core}

@[simp] theorem State.setCore_now : (s.setCore t x).now = s.now := rfl
@[simp] theorem State.setCore_hq : (s.setCore t x).hq = s.hq := rfl
@[simp] theorem State.setCore_st : (s.setCore t x).st = s.st := rfl
@[simp] theorem State.setCore_staged : (s.setCore t x).staged = s.staged := rfl
@[simp] theorem State.setCore_jr : (s.setCore t x).jr = s.jr := rfl
@[simp] theorem State.setCore_links : (s.setCore t x).links = s.links := rfl
@[simp] theorem State.setCore_levels : (s.setCore t x).levels = s.levels := rfl
@[simp] theorem State.setCore_levelDir : (s.setCore t x).levelDir = s.levelDir := rfl
@[simp] theorem State.setCore_pilotAge : (s.setCore t x).pilotAge = s.pilotAge := rfl
@[simp] theorem State.setCore_ld : (s.setCore t x).ld = s.ld := rfl
@[simp] theorem State.setCore_keys : (s.setCore t x).keys = s.keys := rfl
@[simp] theorem State.setCore_cam : (s.setCore t x).cam = s.cam := rfl
@[simp] theorem State.setCore_dram : (s.setCore t x).dram = s.dram := rfl
@[simp] theorem State.setCore_intTgt : (s.setCore t x).intTgt = s.intTgt := rfl
@[simp] theorem State.setCore_intLock : (s.setCore t x).intLock = s.intLock := rfl
@[simp] theorem State.setCore_stewInt : (s.setCore t x).stewInt = s.stewInt := rfl
@[simp] theorem State.setCore_health : (s.setCore t x).health = s.health := rfl
@[simp] theorem State.setCore_dict : (s.setCore t x).dict = s.dict := rfl
@[simp] theorem State.setCore_stew : (s.setCore t x).stew = s.stew := rfl
@[simp] theorem State.setCore_pw : (s.setCore t x).pw = s.pw := rfl
@[simp] theorem State.setCore_out : (s.setCore t x).out = s.out := rfl
@[simp] theorem State.setCore_free : (s.setCore t x).free = s.free := rfl
@[simp] theorem State.setCore_pending : (s.setCore t x).pending = s.pending := rfl
@[simp] theorem State.queue_setCore : (s.setCore t x).queue j = s.queue j := rfl
@[simp] theorem State.op_setCore : (s.setCore t x).op j j' = s.op j j' := rfl
@[simp] theorem State.vec_setCore : (s.setCore t x).vec j = s.vec j := rfl
@[simp] theorem State.inst_setCore : (s.setCore t x).inst j = s.inst j := rfl
@[simp] theorem State.slab_setCore : (s.setCore t x).slab j = s.slab j := rfl
@[simp] theorem State.bandAt_setCore : (s.setCore t x).bandAt j = s.bandAt j := rfl
@[simp] theorem State.band_setCore : (s.setCore t x).band j j' = s.band j j' := rfl
@[simp] theorem State.link_setCore : (s.setCore t x).link j = s.link j := rfl
@[simp] theorem State.region_setCore : (s.setCore t x).region j = s.region j := rfl
@[simp] theorem State.runOf_setCore : (s.setCore t x).runOf j = s.runOf j := rfl
@[simp] theorem State.flow_setCore : (s.setCore t x).flow j = s.flow j := rfl
@[simp] theorem State.prog_setCore : (s.setCore t x).prog j j' = s.prog j j' := rfl
@[simp] theorem State.cslot_setCore : (s.setCore t x).cslot j = s.cslot j := rfl
@[simp] theorem State.hslot_setCore : (s.setCore t x).hslot j = s.hslot j := rfl
@[simp] theorem State.chan_setCore : (s.setCore t x).chan j = s.chan j := rfl
@[simp] theorem State.place_setCore : (s.setCore t x).place j = s.place j := rfl

end

/-! ### setBank -/

section
variable {t b : Nat} {x : Bank}

@[simp] theorem State.setBank_now : (s.setBank t b x).now = s.now := rfl
@[simp] theorem State.setBank_hq : (s.setBank t b x).hq = s.hq := rfl
@[simp] theorem State.setBank_st : (s.setBank t b x).st = s.st := rfl
@[simp] theorem State.setBank_staged : (s.setBank t b x).staged = s.staged := rfl
@[simp] theorem State.setBank_jr : (s.setBank t b x).jr = s.jr := rfl
@[simp] theorem State.setBank_links : (s.setBank t b x).links = s.links := rfl
@[simp] theorem State.setBank_levels : (s.setBank t b x).levels = s.levels := rfl
@[simp] theorem State.setBank_levelDir : (s.setBank t b x).levelDir = s.levelDir := rfl
@[simp] theorem State.setBank_pilotAge : (s.setBank t b x).pilotAge = s.pilotAge := rfl
@[simp] theorem State.setBank_ld : (s.setBank t b x).ld = s.ld := rfl
@[simp] theorem State.setBank_keys : (s.setBank t b x).keys = s.keys := rfl
@[simp] theorem State.setBank_cam : (s.setBank t b x).cam = s.cam := rfl
@[simp] theorem State.setBank_dram : (s.setBank t b x).dram = s.dram := rfl
@[simp] theorem State.setBank_intTgt : (s.setBank t b x).intTgt = s.intTgt := rfl
@[simp] theorem State.setBank_intLock : (s.setBank t b x).intLock = s.intLock := rfl
@[simp] theorem State.setBank_stewInt : (s.setBank t b x).stewInt = s.stewInt := rfl
@[simp] theorem State.setBank_health : (s.setBank t b x).health = s.health := rfl
@[simp] theorem State.setBank_dict : (s.setBank t b x).dict = s.dict := rfl
@[simp] theorem State.setBank_stew : (s.setBank t b x).stew = s.stew := rfl
@[simp] theorem State.setBank_pw : (s.setBank t b x).pw = s.pw := rfl
@[simp] theorem State.setBank_out : (s.setBank t b x).out = s.out := rfl
@[simp] theorem State.setBank_free : (s.setBank t b x).free = s.free := rfl
@[simp] theorem State.setBank_pending : (s.setBank t b x).pending = s.pending := rfl
@[simp] theorem State.queue_setBank : (s.setBank t b x).queue j = s.queue j := rfl
@[simp] theorem State.op_setBank : (s.setBank t b x).op j j' = s.op j j' := rfl
@[simp] theorem State.vec_setBank : (s.setBank t b x).vec j = s.vec j := rfl
@[simp] theorem State.inst_setBank : (s.setBank t b x).inst j = s.inst j := rfl
@[simp] theorem State.slab_setBank : (s.setBank t b x).slab j = s.slab j := rfl
@[simp] theorem State.bandAt_setBank : (s.setBank t b x).bandAt j = s.bandAt j := rfl
@[simp] theorem State.band_setBank : (s.setBank t b x).band j j' = s.band j j' := rfl
@[simp] theorem State.link_setBank : (s.setBank t b x).link j = s.link j := rfl
@[simp] theorem State.region_setBank : (s.setBank t b x).region j = s.region j := rfl
@[simp] theorem State.runOf_setBank : (s.setBank t b x).runOf j = s.runOf j := rfl
@[simp] theorem State.flow_setBank : (s.setBank t b x).flow j = s.flow j := rfl
@[simp] theorem State.prog_setBank : (s.setBank t b x).prog j j' = s.prog j j' := rfl
@[simp] theorem State.cslot_setBank : (s.setBank t b x).cslot j = s.cslot j := rfl
@[simp] theorem State.hslot_setBank : (s.setBank t b x).hslot j = s.hslot j := rfl
@[simp] theorem State.chan_setBank : (s.setBank t b x).chan j = s.chan j := rfl
@[simp] theorem State.place_setBank : (s.setBank t b x).place j = s.place j := rfl

end

/-! ### setRegion -/

section
variable {p : Nat} {x : Region}

@[simp] theorem State.setRegion_now : (s.setRegion p x).now = s.now := rfl
@[simp] theorem State.setRegion_hq : (s.setRegion p x).hq = s.hq := rfl
@[simp] theorem State.setRegion_st : (s.setRegion p x).st = s.st := rfl
@[simp] theorem State.setRegion_staged : (s.setRegion p x).staged = s.staged := rfl
@[simp] theorem State.setRegion_jr : (s.setRegion p x).jr = s.jr := rfl
@[simp] theorem State.setRegion_links : (s.setRegion p x).links = s.links := rfl
@[simp] theorem State.setRegion_levels : (s.setRegion p x).levels = s.levels := rfl
@[simp] theorem State.setRegion_levelDir : (s.setRegion p x).levelDir = s.levelDir := rfl
@[simp] theorem State.setRegion_pilotAge : (s.setRegion p x).pilotAge = s.pilotAge := rfl
@[simp] theorem State.setRegion_tiles : (s.setRegion p x).tiles = s.tiles := rfl
@[simp] theorem State.setRegion_keys : (s.setRegion p x).keys = s.keys := rfl
@[simp] theorem State.setRegion_cam : (s.setRegion p x).cam = s.cam := rfl
@[simp] theorem State.setRegion_dram : (s.setRegion p x).dram = s.dram := rfl
@[simp] theorem State.setRegion_intTgt : (s.setRegion p x).intTgt = s.intTgt := rfl
@[simp] theorem State.setRegion_intLock : (s.setRegion p x).intLock = s.intLock := rfl
@[simp] theorem State.setRegion_stewInt : (s.setRegion p x).stewInt = s.stewInt := rfl
@[simp] theorem State.setRegion_health : (s.setRegion p x).health = s.health := rfl
@[simp] theorem State.setRegion_dict : (s.setRegion p x).dict = s.dict := rfl
@[simp] theorem State.setRegion_stew : (s.setRegion p x).stew = s.stew := rfl
@[simp] theorem State.setRegion_pw : (s.setRegion p x).pw = s.pw := rfl
@[simp] theorem State.setRegion_out : (s.setRegion p x).out = s.out := rfl
@[simp] theorem State.setRegion_free : (s.setRegion p x).free = s.free := rfl
@[simp] theorem State.setRegion_pending : (s.setRegion p x).pending = s.pending := rfl
@[simp] theorem State.queue_setRegion : (s.setRegion p x).queue j = s.queue j := rfl
@[simp] theorem State.op_setRegion : (s.setRegion p x).op j j' = s.op j j' := rfl
@[simp] theorem State.vec_setRegion : (s.setRegion p x).vec j = s.vec j := rfl
@[simp] theorem State.inst_setRegion : (s.setRegion p x).inst j = s.inst j := rfl
@[simp] theorem State.slab_setRegion : (s.setRegion p x).slab j = s.slab j := rfl
@[simp] theorem State.bandAt_setRegion : (s.setRegion p x).bandAt j = s.bandAt j := rfl
@[simp] theorem State.band_setRegion : (s.setRegion p x).band j j' = s.band j j' := rfl
@[simp] theorem State.link_setRegion : (s.setRegion p x).link j = s.link j := rfl
@[simp] theorem State.tile_setRegion : (s.setRegion p x).tile j = s.tile j := rfl
@[simp] theorem State.core_setRegion : (s.setRegion p x).core j = s.core j := rfl
@[simp] theorem State.bank_setRegion : (s.setRegion p x).bank j j' = s.bank j j' := rfl
@[simp] theorem State.runOf_setRegion : (s.setRegion p x).runOf j = s.runOf j := rfl
@[simp] theorem State.flow_setRegion : (s.setRegion p x).flow j = s.flow j := rfl
@[simp] theorem State.prog_setRegion : (s.setRegion p x).prog j j' = s.prog j j' := rfl
@[simp] theorem State.cslot_setRegion : (s.setRegion p x).cslot j = s.cslot j := rfl
@[simp] theorem State.hslot_setRegion : (s.setRegion p x).hslot j = s.hslot j := rfl
@[simp] theorem State.chan_setRegion : (s.setRegion p x).chan j = s.chan j := rfl
@[simp] theorem State.place_setRegion : (s.setRegion p x).place j = s.place j := rfl

end

/-! ### setRun -/

section
variable {k : Nat} {x : Option RunSt}

@[simp] theorem State.setRun_now : (s.setRun k x).now = s.now := rfl
@[simp] theorem State.setRun_hq : (s.setRun k x).hq = s.hq := rfl
@[simp] theorem State.setRun_st : (s.setRun k x).st = s.st := rfl
@[simp] theorem State.setRun_staged : (s.setRun k x).staged = s.staged := rfl
@[simp] theorem State.setRun_jr : (s.setRun k x).jr = s.jr := rfl
@[simp] theorem State.setRun_links : (s.setRun k x).links = s.links := rfl
@[simp] theorem State.setRun_levels : (s.setRun k x).levels = s.levels := rfl
@[simp] theorem State.setRun_levelDir : (s.setRun k x).levelDir = s.levelDir := rfl
@[simp] theorem State.setRun_pilotAge : (s.setRun k x).pilotAge = s.pilotAge := rfl
@[simp] theorem State.setRun_tiles : (s.setRun k x).tiles = s.tiles := rfl
@[simp] theorem State.setRun_keys : (s.setRun k x).keys = s.keys := rfl
@[simp] theorem State.setRun_cam : (s.setRun k x).cam = s.cam := rfl
@[simp] theorem State.setRun_dram : (s.setRun k x).dram = s.dram := rfl
@[simp] theorem State.setRun_intTgt : (s.setRun k x).intTgt = s.intTgt := rfl
@[simp] theorem State.setRun_intLock : (s.setRun k x).intLock = s.intLock := rfl
@[simp] theorem State.setRun_stewInt : (s.setRun k x).stewInt = s.stewInt := rfl
@[simp] theorem State.setRun_health : (s.setRun k x).health = s.health := rfl
@[simp] theorem State.setRun_dict : (s.setRun k x).dict = s.dict := rfl
@[simp] theorem State.setRun_stew : (s.setRun k x).stew = s.stew := rfl
@[simp] theorem State.setRun_pw : (s.setRun k x).pw = s.pw := rfl
@[simp] theorem State.setRun_out : (s.setRun k x).out = s.out := rfl
@[simp] theorem State.setRun_free : (s.setRun k x).free = s.free := rfl
@[simp] theorem State.setRun_pending : (s.setRun k x).pending = s.pending := rfl
@[simp] theorem State.queue_setRun : (s.setRun k x).queue j = s.queue j := rfl
@[simp] theorem State.op_setRun : (s.setRun k x).op j j' = s.op j j' := rfl
@[simp] theorem State.vec_setRun : (s.setRun k x).vec j = s.vec j := rfl
@[simp] theorem State.inst_setRun : (s.setRun k x).inst j = s.inst j := rfl
@[simp] theorem State.slab_setRun : (s.setRun k x).slab j = s.slab j := rfl
@[simp] theorem State.bandAt_setRun : (s.setRun k x).bandAt j = s.bandAt j := rfl
@[simp] theorem State.band_setRun : (s.setRun k x).band j j' = s.band j j' := rfl
@[simp] theorem State.link_setRun : (s.setRun k x).link j = s.link j := rfl
@[simp] theorem State.tile_setRun : (s.setRun k x).tile j = s.tile j := rfl
@[simp] theorem State.core_setRun : (s.setRun k x).core j = s.core j := rfl
@[simp] theorem State.bank_setRun : (s.setRun k x).bank j j' = s.bank j j' := rfl
@[simp] theorem State.region_setRun : (s.setRun k x).region j = s.region j := rfl
@[simp] theorem State.flow_setRun : (s.setRun k x).flow j = s.flow j := rfl
@[simp] theorem State.prog_setRun : (s.setRun k x).prog j j' = s.prog j j' := rfl
@[simp] theorem State.cslot_setRun : (s.setRun k x).cslot j = s.cslot j := rfl
@[simp] theorem State.hslot_setRun : (s.setRun k x).hslot j = s.hslot j := rfl
@[simp] theorem State.chan_setRun : (s.setRun k x).chan j = s.chan j := rfl
@[simp] theorem State.place_setRun : (s.setRun k x).place j = s.place j := rfl

end

/-! ### setFlow -/

section
variable {f : Nat} {x : Option Flow}

@[simp] theorem State.setFlow_now : (s.setFlow f x).now = s.now := rfl
@[simp] theorem State.setFlow_hq : (s.setFlow f x).hq = s.hq := rfl
@[simp] theorem State.setFlow_st : (s.setFlow f x).st = s.st := rfl
@[simp] theorem State.setFlow_staged : (s.setFlow f x).staged = s.staged := rfl
@[simp] theorem State.setFlow_jr : (s.setFlow f x).jr = s.jr := rfl
@[simp] theorem State.setFlow_links : (s.setFlow f x).links = s.links := rfl
@[simp] theorem State.setFlow_levels : (s.setFlow f x).levels = s.levels := rfl
@[simp] theorem State.setFlow_levelDir : (s.setFlow f x).levelDir = s.levelDir := rfl
@[simp] theorem State.setFlow_pilotAge : (s.setFlow f x).pilotAge = s.pilotAge := rfl
@[simp] theorem State.setFlow_tiles : (s.setFlow f x).tiles = s.tiles := rfl
@[simp] theorem State.setFlow_keys : (s.setFlow f x).keys = s.keys := rfl
@[simp] theorem State.setFlow_cam : (s.setFlow f x).cam = s.cam := rfl
@[simp] theorem State.setFlow_dram : (s.setFlow f x).dram = s.dram := rfl
@[simp] theorem State.setFlow_intTgt : (s.setFlow f x).intTgt = s.intTgt := rfl
@[simp] theorem State.setFlow_intLock : (s.setFlow f x).intLock = s.intLock := rfl
@[simp] theorem State.setFlow_stewInt : (s.setFlow f x).stewInt = s.stewInt := rfl
@[simp] theorem State.setFlow_health : (s.setFlow f x).health = s.health := rfl
@[simp] theorem State.setFlow_dict : (s.setFlow f x).dict = s.dict := rfl
@[simp] theorem State.setFlow_stew : (s.setFlow f x).stew = s.stew := rfl
@[simp] theorem State.setFlow_pw : (s.setFlow f x).pw = s.pw := rfl
@[simp] theorem State.setFlow_out : (s.setFlow f x).out = s.out := rfl
@[simp] theorem State.setFlow_free : (s.setFlow f x).free = s.free := rfl
@[simp] theorem State.setFlow_pending : (s.setFlow f x).pending = s.pending := rfl
@[simp] theorem State.queue_setFlow : (s.setFlow f x).queue j = s.queue j := rfl
@[simp] theorem State.op_setFlow : (s.setFlow f x).op j j' = s.op j j' := rfl
@[simp] theorem State.vec_setFlow : (s.setFlow f x).vec j = s.vec j := rfl
@[simp] theorem State.inst_setFlow : (s.setFlow f x).inst j = s.inst j := rfl
@[simp] theorem State.slab_setFlow : (s.setFlow f x).slab j = s.slab j := rfl
@[simp] theorem State.bandAt_setFlow : (s.setFlow f x).bandAt j = s.bandAt j := rfl
@[simp] theorem State.band_setFlow : (s.setFlow f x).band j j' = s.band j j' := rfl
@[simp] theorem State.link_setFlow : (s.setFlow f x).link j = s.link j := rfl
@[simp] theorem State.tile_setFlow : (s.setFlow f x).tile j = s.tile j := rfl
@[simp] theorem State.core_setFlow : (s.setFlow f x).core j = s.core j := rfl
@[simp] theorem State.bank_setFlow : (s.setFlow f x).bank j j' = s.bank j j' := rfl
@[simp] theorem State.region_setFlow : (s.setFlow f x).region j = s.region j := rfl
@[simp] theorem State.runOf_setFlow : (s.setFlow f x).runOf j = s.runOf j := rfl
@[simp] theorem State.prog_setFlow : (s.setFlow f x).prog j j' = s.prog j j' := rfl
@[simp] theorem State.cslot_setFlow : (s.setFlow f x).cslot j = s.cslot j := rfl
@[simp] theorem State.hslot_setFlow : (s.setFlow f x).hslot j = s.hslot j := rfl
@[simp] theorem State.chan_setFlow : (s.setFlow f x).chan j = s.chan j := rfl
@[simp] theorem State.place_setFlow : (s.setFlow f x).place j = s.place j := rfl

end

/-! ### setCslot -/

section
variable {n : Nat} {x : Slot}

@[simp] theorem State.setCslot_now : (s.setCslot n x).now = s.now := rfl
@[simp] theorem State.setCslot_hq : (s.setCslot n x).hq = s.hq := rfl
@[simp] theorem State.setCslot_st : (s.setCslot n x).st = s.st := rfl
@[simp] theorem State.setCslot_staged : (s.setCslot n x).staged = s.staged := rfl
@[simp] theorem State.setCslot_jr : (s.setCslot n x).jr = s.jr := rfl
@[simp] theorem State.setCslot_links : (s.setCslot n x).links = s.links := rfl
@[simp] theorem State.setCslot_levels : (s.setCslot n x).levels = s.levels := rfl
@[simp] theorem State.setCslot_levelDir : (s.setCslot n x).levelDir = s.levelDir := rfl
@[simp] theorem State.setCslot_pilotAge : (s.setCslot n x).pilotAge = s.pilotAge := rfl
@[simp] theorem State.setCslot_tiles : (s.setCslot n x).tiles = s.tiles := rfl
@[simp] theorem State.setCslot_ld : (s.setCslot n x).ld = s.ld := rfl
@[simp] theorem State.setCslot_cam : (s.setCslot n x).cam = s.cam := rfl
@[simp] theorem State.setCslot_dram : (s.setCslot n x).dram = s.dram := rfl
@[simp] theorem State.setCslot_intTgt : (s.setCslot n x).intTgt = s.intTgt := rfl
@[simp] theorem State.setCslot_intLock : (s.setCslot n x).intLock = s.intLock := rfl
@[simp] theorem State.setCslot_stewInt : (s.setCslot n x).stewInt = s.stewInt := rfl
@[simp] theorem State.setCslot_health : (s.setCslot n x).health = s.health := rfl
@[simp] theorem State.setCslot_dict : (s.setCslot n x).dict = s.dict := rfl
@[simp] theorem State.setCslot_stew : (s.setCslot n x).stew = s.stew := rfl
@[simp] theorem State.setCslot_pw : (s.setCslot n x).pw = s.pw := rfl
@[simp] theorem State.setCslot_out : (s.setCslot n x).out = s.out := rfl
@[simp] theorem State.setCslot_free : (s.setCslot n x).free = s.free := rfl
@[simp] theorem State.setCslot_pending : (s.setCslot n x).pending = s.pending := rfl
@[simp] theorem State.queue_setCslot : (s.setCslot n x).queue j = s.queue j := rfl
@[simp] theorem State.op_setCslot : (s.setCslot n x).op j j' = s.op j j' := rfl
@[simp] theorem State.vec_setCslot : (s.setCslot n x).vec j = s.vec j := rfl
@[simp] theorem State.inst_setCslot : (s.setCslot n x).inst j = s.inst j := rfl
@[simp] theorem State.slab_setCslot : (s.setCslot n x).slab j = s.slab j := rfl
@[simp] theorem State.bandAt_setCslot : (s.setCslot n x).bandAt j = s.bandAt j := rfl
@[simp] theorem State.band_setCslot : (s.setCslot n x).band j j' = s.band j j' := rfl
@[simp] theorem State.link_setCslot : (s.setCslot n x).link j = s.link j := rfl
@[simp] theorem State.tile_setCslot : (s.setCslot n x).tile j = s.tile j := rfl
@[simp] theorem State.core_setCslot : (s.setCslot n x).core j = s.core j := rfl
@[simp] theorem State.bank_setCslot : (s.setCslot n x).bank j j' = s.bank j j' := rfl
@[simp] theorem State.region_setCslot : (s.setCslot n x).region j = s.region j := rfl
@[simp] theorem State.runOf_setCslot : (s.setCslot n x).runOf j = s.runOf j := rfl
@[simp] theorem State.flow_setCslot : (s.setCslot n x).flow j = s.flow j := rfl
@[simp] theorem State.prog_setCslot : (s.setCslot n x).prog j j' = s.prog j j' := rfl
@[simp] theorem State.hslot_setCslot : (s.setCslot n x).hslot j = s.hslot j := rfl
@[simp] theorem State.chan_setCslot : (s.setCslot n x).chan j = s.chan j := rfl
@[simp] theorem State.place_setCslot : (s.setCslot n x).place j = s.place j := rfl

end

/-! ### setHslot -/

section
variable {n : Nat} {x : Slot}

@[simp] theorem State.setHslot_now : (s.setHslot n x).now = s.now := rfl
@[simp] theorem State.setHslot_hq : (s.setHslot n x).hq = s.hq := rfl
@[simp] theorem State.setHslot_st : (s.setHslot n x).st = s.st := rfl
@[simp] theorem State.setHslot_staged : (s.setHslot n x).staged = s.staged := rfl
@[simp] theorem State.setHslot_jr : (s.setHslot n x).jr = s.jr := rfl
@[simp] theorem State.setHslot_links : (s.setHslot n x).links = s.links := rfl
@[simp] theorem State.setHslot_levels : (s.setHslot n x).levels = s.levels := rfl
@[simp] theorem State.setHslot_levelDir : (s.setHslot n x).levelDir = s.levelDir := rfl
@[simp] theorem State.setHslot_pilotAge : (s.setHslot n x).pilotAge = s.pilotAge := rfl
@[simp] theorem State.setHslot_tiles : (s.setHslot n x).tiles = s.tiles := rfl
@[simp] theorem State.setHslot_ld : (s.setHslot n x).ld = s.ld := rfl
@[simp] theorem State.setHslot_cam : (s.setHslot n x).cam = s.cam := rfl
@[simp] theorem State.setHslot_dram : (s.setHslot n x).dram = s.dram := rfl
@[simp] theorem State.setHslot_intTgt : (s.setHslot n x).intTgt = s.intTgt := rfl
@[simp] theorem State.setHslot_intLock : (s.setHslot n x).intLock = s.intLock := rfl
@[simp] theorem State.setHslot_stewInt : (s.setHslot n x).stewInt = s.stewInt := rfl
@[simp] theorem State.setHslot_health : (s.setHslot n x).health = s.health := rfl
@[simp] theorem State.setHslot_dict : (s.setHslot n x).dict = s.dict := rfl
@[simp] theorem State.setHslot_stew : (s.setHslot n x).stew = s.stew := rfl
@[simp] theorem State.setHslot_pw : (s.setHslot n x).pw = s.pw := rfl
@[simp] theorem State.setHslot_out : (s.setHslot n x).out = s.out := rfl
@[simp] theorem State.setHslot_free : (s.setHslot n x).free = s.free := rfl
@[simp] theorem State.setHslot_pending : (s.setHslot n x).pending = s.pending := rfl
@[simp] theorem State.queue_setHslot : (s.setHslot n x).queue j = s.queue j := rfl
@[simp] theorem State.op_setHslot : (s.setHslot n x).op j j' = s.op j j' := rfl
@[simp] theorem State.vec_setHslot : (s.setHslot n x).vec j = s.vec j := rfl
@[simp] theorem State.inst_setHslot : (s.setHslot n x).inst j = s.inst j := rfl
@[simp] theorem State.slab_setHslot : (s.setHslot n x).slab j = s.slab j := rfl
@[simp] theorem State.bandAt_setHslot : (s.setHslot n x).bandAt j = s.bandAt j := rfl
@[simp] theorem State.band_setHslot : (s.setHslot n x).band j j' = s.band j j' := rfl
@[simp] theorem State.link_setHslot : (s.setHslot n x).link j = s.link j := rfl
@[simp] theorem State.tile_setHslot : (s.setHslot n x).tile j = s.tile j := rfl
@[simp] theorem State.core_setHslot : (s.setHslot n x).core j = s.core j := rfl
@[simp] theorem State.bank_setHslot : (s.setHslot n x).bank j j' = s.bank j j' := rfl
@[simp] theorem State.region_setHslot : (s.setHslot n x).region j = s.region j := rfl
@[simp] theorem State.runOf_setHslot : (s.setHslot n x).runOf j = s.runOf j := rfl
@[simp] theorem State.flow_setHslot : (s.setHslot n x).flow j = s.flow j := rfl
@[simp] theorem State.prog_setHslot : (s.setHslot n x).prog j j' = s.prog j j' := rfl
@[simp] theorem State.cslot_setHslot : (s.setHslot n x).cslot j = s.cslot j := rfl
@[simp] theorem State.chan_setHslot : (s.setHslot n x).chan j = s.chan j := rfl
@[simp] theorem State.place_setHslot : (s.setHslot n x).place j = s.place j := rfl

end

/-! ### setChan -/

section
variable {c : Nat} {x : Chan}

@[simp] theorem State.setChan_now : (s.setChan c x).now = s.now := rfl
@[simp] theorem State.setChan_hq : (s.setChan c x).hq = s.hq := rfl
@[simp] theorem State.setChan_st : (s.setChan c x).st = s.st := rfl
@[simp] theorem State.setChan_staged : (s.setChan c x).staged = s.staged := rfl
@[simp] theorem State.setChan_jr : (s.setChan c x).jr = s.jr := rfl
@[simp] theorem State.setChan_links : (s.setChan c x).links = s.links := rfl
@[simp] theorem State.setChan_levels : (s.setChan c x).levels = s.levels := rfl
@[simp] theorem State.setChan_levelDir : (s.setChan c x).levelDir = s.levelDir := rfl
@[simp] theorem State.setChan_pilotAge : (s.setChan c x).pilotAge = s.pilotAge := rfl
@[simp] theorem State.setChan_tiles : (s.setChan c x).tiles = s.tiles := rfl
@[simp] theorem State.setChan_ld : (s.setChan c x).ld = s.ld := rfl
@[simp] theorem State.setChan_keys : (s.setChan c x).keys = s.keys := rfl
@[simp] theorem State.setChan_cam : (s.setChan c x).cam = s.cam := rfl
@[simp] theorem State.setChan_intTgt : (s.setChan c x).intTgt = s.intTgt := rfl
@[simp] theorem State.setChan_intLock : (s.setChan c x).intLock = s.intLock := rfl
@[simp] theorem State.setChan_stewInt : (s.setChan c x).stewInt = s.stewInt := rfl
@[simp] theorem State.setChan_health : (s.setChan c x).health = s.health := rfl
@[simp] theorem State.setChan_dict : (s.setChan c x).dict = s.dict := rfl
@[simp] theorem State.setChan_stew : (s.setChan c x).stew = s.stew := rfl
@[simp] theorem State.setChan_pw : (s.setChan c x).pw = s.pw := rfl
@[simp] theorem State.setChan_out : (s.setChan c x).out = s.out := rfl
@[simp] theorem State.setChan_free : (s.setChan c x).free = s.free := rfl
@[simp] theorem State.setChan_pending : (s.setChan c x).pending = s.pending := rfl
@[simp] theorem State.queue_setChan : (s.setChan c x).queue j = s.queue j := rfl
@[simp] theorem State.op_setChan : (s.setChan c x).op j j' = s.op j j' := rfl
@[simp] theorem State.vec_setChan : (s.setChan c x).vec j = s.vec j := rfl
@[simp] theorem State.inst_setChan : (s.setChan c x).inst j = s.inst j := rfl
@[simp] theorem State.slab_setChan : (s.setChan c x).slab j = s.slab j := rfl
@[simp] theorem State.bandAt_setChan : (s.setChan c x).bandAt j = s.bandAt j := rfl
@[simp] theorem State.band_setChan : (s.setChan c x).band j j' = s.band j j' := rfl
@[simp] theorem State.link_setChan : (s.setChan c x).link j = s.link j := rfl
@[simp] theorem State.tile_setChan : (s.setChan c x).tile j = s.tile j := rfl
@[simp] theorem State.core_setChan : (s.setChan c x).core j = s.core j := rfl
@[simp] theorem State.bank_setChan : (s.setChan c x).bank j j' = s.bank j j' := rfl
@[simp] theorem State.region_setChan : (s.setChan c x).region j = s.region j := rfl
@[simp] theorem State.runOf_setChan : (s.setChan c x).runOf j = s.runOf j := rfl
@[simp] theorem State.flow_setChan : (s.setChan c x).flow j = s.flow j := rfl
@[simp] theorem State.prog_setChan : (s.setChan c x).prog j j' = s.prog j j' := rfl
@[simp] theorem State.cslot_setChan : (s.setChan c x).cslot j = s.cslot j := rfl
@[simp] theorem State.hslot_setChan : (s.setChan c x).hslot j = s.hslot j := rfl
@[simp] theorem State.place_setChan : (s.setChan c x).place j = s.place j := rfl

end

/-! ### setPlace -/

section
variable {i : Nat} {x : Place}

@[simp] theorem State.setPlace_now : (s.setPlace i x).now = s.now := rfl
@[simp] theorem State.setPlace_hq : (s.setPlace i x).hq = s.hq := rfl
@[simp] theorem State.setPlace_st : (s.setPlace i x).st = s.st := rfl
@[simp] theorem State.setPlace_staged : (s.setPlace i x).staged = s.staged := rfl
@[simp] theorem State.setPlace_jr : (s.setPlace i x).jr = s.jr := rfl
@[simp] theorem State.setPlace_links : (s.setPlace i x).links = s.links := rfl
@[simp] theorem State.setPlace_levels : (s.setPlace i x).levels = s.levels := rfl
@[simp] theorem State.setPlace_levelDir : (s.setPlace i x).levelDir = s.levelDir := rfl
@[simp] theorem State.setPlace_pilotAge : (s.setPlace i x).pilotAge = s.pilotAge := rfl
@[simp] theorem State.setPlace_tiles : (s.setPlace i x).tiles = s.tiles := rfl
@[simp] theorem State.setPlace_ld : (s.setPlace i x).ld = s.ld := rfl
@[simp] theorem State.setPlace_keys : (s.setPlace i x).keys = s.keys := rfl
@[simp] theorem State.setPlace_dram : (s.setPlace i x).dram = s.dram := rfl
@[simp] theorem State.setPlace_intTgt : (s.setPlace i x).intTgt = s.intTgt := rfl
@[simp] theorem State.setPlace_intLock : (s.setPlace i x).intLock = s.intLock := rfl
@[simp] theorem State.setPlace_stewInt : (s.setPlace i x).stewInt = s.stewInt := rfl
@[simp] theorem State.setPlace_health : (s.setPlace i x).health = s.health := rfl
@[simp] theorem State.setPlace_dict : (s.setPlace i x).dict = s.dict := rfl
@[simp] theorem State.setPlace_stew : (s.setPlace i x).stew = s.stew := rfl
@[simp] theorem State.setPlace_pw : (s.setPlace i x).pw = s.pw := rfl
@[simp] theorem State.setPlace_out : (s.setPlace i x).out = s.out := rfl
@[simp] theorem State.setPlace_free : (s.setPlace i x).free = s.free := rfl
@[simp] theorem State.setPlace_pending : (s.setPlace i x).pending = s.pending := rfl
@[simp] theorem State.queue_setPlace : (s.setPlace i x).queue j = s.queue j := rfl
@[simp] theorem State.op_setPlace : (s.setPlace i x).op j j' = s.op j j' := rfl
@[simp] theorem State.vec_setPlace : (s.setPlace i x).vec j = s.vec j := rfl
@[simp] theorem State.inst_setPlace : (s.setPlace i x).inst j = s.inst j := rfl
@[simp] theorem State.slab_setPlace : (s.setPlace i x).slab j = s.slab j := rfl
@[simp] theorem State.bandAt_setPlace : (s.setPlace i x).bandAt j = s.bandAt j := rfl
@[simp] theorem State.band_setPlace : (s.setPlace i x).band j j' = s.band j j' := rfl
@[simp] theorem State.link_setPlace : (s.setPlace i x).link j = s.link j := rfl
@[simp] theorem State.tile_setPlace : (s.setPlace i x).tile j = s.tile j := rfl
@[simp] theorem State.core_setPlace : (s.setPlace i x).core j = s.core j := rfl
@[simp] theorem State.bank_setPlace : (s.setPlace i x).bank j j' = s.bank j j' := rfl
@[simp] theorem State.region_setPlace : (s.setPlace i x).region j = s.region j := rfl
@[simp] theorem State.runOf_setPlace : (s.setPlace i x).runOf j = s.runOf j := rfl
@[simp] theorem State.flow_setPlace : (s.setPlace i x).flow j = s.flow j := rfl
@[simp] theorem State.prog_setPlace : (s.setPlace i x).prog j j' = s.prog j j' := rfl
@[simp] theorem State.cslot_setPlace : (s.setPlace i x).cslot j = s.cslot j := rfl
@[simp] theorem State.hslot_setPlace : (s.setPlace i x).hslot j = s.hslot j := rfl
@[simp] theorem State.chan_setPlace : (s.setPlace i x).chan j = s.chan j := rfl

end

/-! ### emit -/

section
variable {x : Out}

@[simp] theorem State.emit_now : (s.emit x).now = s.now := rfl
@[simp] theorem State.emit_hq : (s.emit x).hq = s.hq := rfl
@[simp] theorem State.emit_st : (s.emit x).st = s.st := rfl
@[simp] theorem State.emit_staged : (s.emit x).staged = s.staged := rfl
@[simp] theorem State.emit_jr : (s.emit x).jr = s.jr := rfl
@[simp] theorem State.emit_links : (s.emit x).links = s.links := rfl
@[simp] theorem State.emit_levels : (s.emit x).levels = s.levels := rfl
@[simp] theorem State.emit_levelDir : (s.emit x).levelDir = s.levelDir := rfl
@[simp] theorem State.emit_pilotAge : (s.emit x).pilotAge = s.pilotAge := rfl
@[simp] theorem State.emit_tiles : (s.emit x).tiles = s.tiles := rfl
@[simp] theorem State.emit_ld : (s.emit x).ld = s.ld := rfl
@[simp] theorem State.emit_keys : (s.emit x).keys = s.keys := rfl
@[simp] theorem State.emit_cam : (s.emit x).cam = s.cam := rfl
@[simp] theorem State.emit_dram : (s.emit x).dram = s.dram := rfl
@[simp] theorem State.emit_intTgt : (s.emit x).intTgt = s.intTgt := rfl
@[simp] theorem State.emit_intLock : (s.emit x).intLock = s.intLock := rfl
@[simp] theorem State.emit_stewInt : (s.emit x).stewInt = s.stewInt := rfl
@[simp] theorem State.emit_health : (s.emit x).health = s.health := rfl
@[simp] theorem State.emit_dict : (s.emit x).dict = s.dict := rfl
@[simp] theorem State.emit_stew : (s.emit x).stew = s.stew := rfl
@[simp] theorem State.emit_pw : (s.emit x).pw = s.pw := rfl
@[simp] theorem State.emit_free : (s.emit x).free = s.free := rfl
@[simp] theorem State.emit_pending : (s.emit x).pending = s.pending := rfl
@[simp] theorem State.queue_emit : (s.emit x).queue j = s.queue j := rfl
@[simp] theorem State.op_emit : (s.emit x).op j j' = s.op j j' := rfl
@[simp] theorem State.vec_emit : (s.emit x).vec j = s.vec j := rfl
@[simp] theorem State.inst_emit : (s.emit x).inst j = s.inst j := rfl
@[simp] theorem State.slab_emit : (s.emit x).slab j = s.slab j := rfl
@[simp] theorem State.bandAt_emit : (s.emit x).bandAt j = s.bandAt j := rfl
@[simp] theorem State.band_emit : (s.emit x).band j j' = s.band j j' := rfl
@[simp] theorem State.link_emit : (s.emit x).link j = s.link j := rfl
@[simp] theorem State.tile_emit : (s.emit x).tile j = s.tile j := rfl
@[simp] theorem State.core_emit : (s.emit x).core j = s.core j := rfl
@[simp] theorem State.bank_emit : (s.emit x).bank j j' = s.bank j j' := rfl
@[simp] theorem State.region_emit : (s.emit x).region j = s.region j := rfl
@[simp] theorem State.runOf_emit : (s.emit x).runOf j = s.runOf j := rfl
@[simp] theorem State.flow_emit : (s.emit x).flow j = s.flow j := rfl
@[simp] theorem State.prog_emit : (s.emit x).prog j j' = s.prog j j' := rfl
@[simp] theorem State.cslot_emit : (s.emit x).cslot j = s.cslot j := rfl
@[simp] theorem State.hslot_emit : (s.emit x).hslot j = s.hslot j := rfl
@[simp] theorem State.chan_emit : (s.emit x).chan j = s.chan j := rfl
@[simp] theorem State.place_emit : (s.emit x).place j = s.place j := rfl

end

/-! ### reach -/

section
variable {n : Nat}

@[simp] theorem State.reach_hq : (s.reach n).hq = s.hq := rfl
@[simp] theorem State.reach_st : (s.reach n).st = s.st := rfl
@[simp] theorem State.reach_staged : (s.reach n).staged = s.staged := rfl
@[simp] theorem State.reach_jr : (s.reach n).jr = s.jr := rfl
@[simp] theorem State.reach_links : (s.reach n).links = s.links := rfl
@[simp] theorem State.reach_levels : (s.reach n).levels = s.levels := rfl
@[simp] theorem State.reach_levelDir : (s.reach n).levelDir = s.levelDir := rfl
@[simp] theorem State.reach_pilotAge : (s.reach n).pilotAge = s.pilotAge := rfl
@[simp] theorem State.reach_tiles : (s.reach n).tiles = s.tiles := rfl
@[simp] theorem State.reach_ld : (s.reach n).ld = s.ld := rfl
@[simp] theorem State.reach_keys : (s.reach n).keys = s.keys := rfl
@[simp] theorem State.reach_cam : (s.reach n).cam = s.cam := rfl
@[simp] theorem State.reach_dram : (s.reach n).dram = s.dram := rfl
@[simp] theorem State.reach_intTgt : (s.reach n).intTgt = s.intTgt := rfl
@[simp] theorem State.reach_intLock : (s.reach n).intLock = s.intLock := rfl
@[simp] theorem State.reach_stewInt : (s.reach n).stewInt = s.stewInt := rfl
@[simp] theorem State.reach_health : (s.reach n).health = s.health := rfl
@[simp] theorem State.reach_dict : (s.reach n).dict = s.dict := rfl
@[simp] theorem State.reach_stew : (s.reach n).stew = s.stew := rfl
@[simp] theorem State.reach_pw : (s.reach n).pw = s.pw := rfl
@[simp] theorem State.reach_out : (s.reach n).out = s.out := rfl
@[simp] theorem State.reach_free : (s.reach n).free = s.free := rfl
@[simp] theorem State.reach_pending : (s.reach n).pending = s.pending := rfl
@[simp] theorem State.queue_reach : (s.reach n).queue j = s.queue j := rfl
@[simp] theorem State.op_reach : (s.reach n).op j j' = s.op j j' := rfl
@[simp] theorem State.vec_reach : (s.reach n).vec j = s.vec j := rfl
@[simp] theorem State.inst_reach : (s.reach n).inst j = s.inst j := rfl
@[simp] theorem State.slab_reach : (s.reach n).slab j = s.slab j := rfl
@[simp] theorem State.bandAt_reach : (s.reach n).bandAt j = s.bandAt j := rfl
@[simp] theorem State.band_reach : (s.reach n).band j j' = s.band j j' := rfl
@[simp] theorem State.link_reach : (s.reach n).link j = s.link j := rfl
@[simp] theorem State.tile_reach : (s.reach n).tile j = s.tile j := rfl
@[simp] theorem State.core_reach : (s.reach n).core j = s.core j := rfl
@[simp] theorem State.bank_reach : (s.reach n).bank j j' = s.bank j j' := rfl
@[simp] theorem State.region_reach : (s.reach n).region j = s.region j := rfl
@[simp] theorem State.runOf_reach : (s.reach n).runOf j = s.runOf j := rfl
@[simp] theorem State.flow_reach : (s.reach n).flow j = s.flow j := rfl
@[simp] theorem State.prog_reach : (s.reach n).prog j j' = s.prog j j' := rfl
@[simp] theorem State.cslot_reach : (s.reach n).cslot j = s.cslot j := rfl
@[simp] theorem State.hslot_reach : (s.reach n).hslot j = s.hslot j := rfl
@[simp] theorem State.chan_reach : (s.reach n).chan j = s.chan j := rfl
@[simp] theorem State.place_reach : (s.reach n).place j = s.place j := rfl

end

/-! ### Reads of what was written -/

@[simp] theorem State.queue_setQueue_self {k : Nat} {x : Queue} : (s.setQueue k x).queue k = x := mget_mset_self
theorem State.queue_setQueue_ne {k : Nat} {x : Queue} (h : j ≠ k) : (s.setQueue k x).queue j = s.queue j := mget_mset_ne h
@[simp] theorem State.vec_setVec_self {k : Nat} {x : Vec} : (s.setVec k x).vec k = x := mget_mset_self
theorem State.vec_setVec_ne {k : Nat} {x : Vec} (h : j ≠ k) : (s.setVec k x).vec j = s.vec j := mget_mset_ne h
@[simp] theorem State.inst_setInst_self {k : Nat} {x : Inst} : (s.setInst k x).inst k = x := mget_mset_self
theorem State.inst_setInst_ne {k : Nat} {x : Inst} (h : j ≠ k) : (s.setInst k x).inst j = s.inst j := mget_mset_ne h
@[simp] theorem State.slab_setSlab_self {k : Nat} {x : Slab} : (s.setSlab k x).slab k = x := mget_mset_self
theorem State.slab_setSlab_ne {k : Nat} {x : Slab} (h : j ≠ k) : (s.setSlab k x).slab j = s.slab j := mget_mset_ne h
@[simp] theorem State.bandAt_setBandAt_self {k : Nat} {x : Band} : (s.setBandAt k x).bandAt k = x := mget_mset_self
theorem State.bandAt_setBandAt_ne {k : Nat} {x : Band} (h : j ≠ k) : (s.setBandAt k x).bandAt j = s.bandAt j := mget_mset_ne h
@[simp] theorem State.link_setLink_self {k : Nat} {x : Link} : (s.setLink k x).link k = x := mget_mset_self
theorem State.link_setLink_ne {k : Nat} {x : Link} (h : j ≠ k) : (s.setLink k x).link j = s.link j := mget_mset_ne h
@[simp] theorem State.tile_setTile_self {k : Nat} {x : Tile} : (s.setTile k x).tile k = x := mget_mset_self
theorem State.tile_setTile_ne {k : Nat} {x : Tile} (h : j ≠ k) : (s.setTile k x).tile j = s.tile j := mget_mset_ne h
@[simp] theorem State.region_setRegion_self {k : Nat} {x : Region} : (s.setRegion k x).region k = x := mget_mset_self
theorem State.region_setRegion_ne {k : Nat} {x : Region} (h : j ≠ k) : (s.setRegion k x).region j = s.region j := mget_mset_ne h
@[simp] theorem State.runOf_setRun_self {k : Nat} {x : Option RunSt} : (s.setRun k x).runOf k = x := mget_mset_self
theorem State.runOf_setRun_ne {k : Nat} {x : Option RunSt} (h : j ≠ k) : (s.setRun k x).runOf j = s.runOf j := mget_mset_ne h
@[simp] theorem State.flow_setFlow_self {k : Nat} {x : Option Flow} : (s.setFlow k x).flow k = x := mget_mset_self
theorem State.flow_setFlow_ne {k : Nat} {x : Option Flow} (h : j ≠ k) : (s.setFlow k x).flow j = s.flow j := mget_mset_ne h
@[simp] theorem State.cslot_setCslot_self {k : Nat} {x : Slot} : (s.setCslot k x).cslot k = x := mget_mset_self
theorem State.cslot_setCslot_ne {k : Nat} {x : Slot} (h : j ≠ k) : (s.setCslot k x).cslot j = s.cslot j := mget_mset_ne h
@[simp] theorem State.hslot_setHslot_self {k : Nat} {x : Slot} : (s.setHslot k x).hslot k = x := mget_mset_self
theorem State.hslot_setHslot_ne {k : Nat} {x : Slot} (h : j ≠ k) : (s.setHslot k x).hslot j = s.hslot j := mget_mset_ne h
@[simp] theorem State.chan_setChan_self {k : Nat} {x : Chan} : (s.setChan k x).chan k = x := mget_mset_self
theorem State.chan_setChan_ne {k : Nat} {x : Chan} (h : j ≠ k) : (s.setChan k x).chan j = s.chan j := mget_mset_ne h
@[simp] theorem State.place_setPlace_self {k : Nat} {x : Place} : (s.setPlace k x).place k = x := mget_mset_self
theorem State.place_setPlace_ne {k : Nat} {x : Place} (h : j ≠ k) : (s.setPlace k x).place j = s.place j := mget_mset_ne h

@[simp] theorem State.op_setOp_self {q tag : Nat} {x : Option Op} : (s.setOp q tag x).op q tag = x := mget_mset_self
theorem State.op_setOp_ne {q tag q' tag' : Nat} {x : Option Op} (h : opKey q' tag' ≠ opKey q tag) :
    (s.setOp q tag x).op q' tag' = s.op q' tag' := mget_mset_ne h
@[simp] theorem State.band_setBand_self {p b : Nat} {x : Band} : (s.setBand p b x).band p b = x := mget_mset_self
theorem State.band_setBand_ne {p b p' b' : Nat} {x : Band} (h : bandKey p' b' ≠ bandKey p b) :
    (s.setBand p b x).band p' b' = s.band p' b' := mget_mset_ne h

@[simp] theorem State.core_setCore_self {t : Nat} {x : Core} : (s.setCore t x).core t = x := by
  simp [State.core, State.setCore]
theorem State.core_setCore_ne {t : Nat} {x : Core} (h : j ≠ t) : (s.setCore t x).core j = s.core j := by
  simp [State.core, State.setCore, State.tile_setTile_ne h]
@[simp] theorem State.bank_setCore {t b : Nat} {x : Core} : (s.setCore t x).bank j b = s.bank j b := by
  by_cases h : j = t
  · subst h; simp [State.bank, State.setCore]
  · simp [State.bank, State.setCore, State.tile_setTile_ne h]
@[simp] theorem State.bank_setBank_self {t b : Nat} {x : Bank} : (s.setBank t b x).bank t b = x := by
  simp [State.bank, State.setBank]
theorem State.bank_setBank_ne {t b : Nat} {x : Bank} (h : j ≠ t ∨ j' ≠ b) : (s.setBank t b x).bank j j' = s.bank j j' := by
  by_cases ht : j = t
  · subst ht
    simp [State.bank, State.setBank, mget_mset_ne (h.resolve_left (fun e => e rfl))]
  · simp [State.bank, State.setBank, State.tile_setTile_ne ht]
@[simp] theorem State.core_setBank {t b : Nat} {x : Bank} : (s.setBank t b x).core j = s.core j := by
  by_cases h : j = t
  · subst h; simp [State.core, State.setBank]
  · simp [State.core, State.setBank, State.tile_setTile_ne h]

/-! ### Keys of two numbers -/

theorem opKey_ne {q tag q' tag' : Nat} (ht : tag < 32) (ht' : tag' < 32) (h : q ≠ q' ∨ tag ≠ tag') : opKey q tag ≠ opKey q' tag' := by
  unfold opKey; omega
theorem bandKey_ne {p b p' b' : Nat} (hb : b < 1048576) (hb' : b' < 1048576) (h : p ≠ p' ∨ b ≠ b') : bandKey p b ≠ bandKey p' b' := by
  unfold bandKey; omega
theorem progKey_ne {i n i' n' : Nat} (hn : n < 65536) (hn' : n' < 65536) (h : i ≠ i' ∨ n ≠ n') : progKey i n ≠ progKey i' n' := by
  unfold progKey; omega

/-! ### Outputs and free values -/

@[simp] theorem State.emit_out {x : Out} : (s.emit x).out = x :: s.out := rfl
@[simp] theorem State.reach_now {n : Nat} : (s.reach n).now = Nat.max s.now n := rfl
@[simp] theorem State.draw_fst : s.draw.1 = s.free := rfl
@[simp] theorem State.draw_free : s.draw.2.free = s.free + 1 := rfl

end Sys2Proof.Machine
end

