-- ==== Sys2Proof/Laws/Ops.lean ====
section
/-! SUPPORT. Laws of the shared operations: what each changes at most, what a completion does, and that nothing goes on where
nothing waits. -/

namespace Sys2Proof.Machine

variable {s : State}

/-! ### An interrupt controller -/

@[simp] theorem State.setIntc_now {c : Nat} {x : IntC} : (s.setIntc c x).now = s.now := by unfold State.setIntc; split <;> rfl
@[simp] theorem State.setIntc_hq {c : Nat} {x : IntC} : (s.setIntc c x).hq = s.hq := by unfold State.setIntc; split <;> rfl
@[simp] theorem State.setIntc_st {c : Nat} {x : IntC} : (s.setIntc c x).st = s.st := by unfold State.setIntc; split <;> rfl
@[simp] theorem State.setIntc_staged {c : Nat} {x : IntC} : (s.setIntc c x).staged = s.staged := by unfold State.setIntc; split <;> rfl
@[simp] theorem State.setIntc_jr {c : Nat} {x : IntC} : (s.setIntc c x).jr = s.jr := by unfold State.setIntc; split <;> rfl
@[simp] theorem State.setIntc_links {c : Nat} {x : IntC} : (s.setIntc c x).links = s.links := by unfold State.setIntc; split <;> rfl
@[simp] theorem State.setIntc_levels {c : Nat} {x : IntC} : (s.setIntc c x).levels = s.levels := by unfold State.setIntc; split <;> rfl
@[simp] theorem State.setIntc_levelDir {c : Nat} {x : IntC} : (s.setIntc c x).levelDir = s.levelDir := by unfold State.setIntc; split <;> rfl
@[simp] theorem State.setIntc_pilotAge {c : Nat} {x : IntC} : (s.setIntc c x).pilotAge = s.pilotAge := by unfold State.setIntc; split <;> rfl
@[simp] theorem State.setIntc_ld {c : Nat} {x : IntC} : (s.setIntc c x).ld = s.ld := by unfold State.setIntc; split <;> rfl
@[simp] theorem State.setIntc_keys {c : Nat} {x : IntC} : (s.setIntc c x).keys = s.keys := by unfold State.setIntc; split <;> rfl
@[simp] theorem State.setIntc_cam {c : Nat} {x : IntC} : (s.setIntc c x).cam = s.cam := by unfold State.setIntc; split <;> rfl
@[simp] theorem State.setIntc_dram {c : Nat} {x : IntC} : (s.setIntc c x).dram = s.dram := by unfold State.setIntc; split <;> rfl
@[simp] theorem State.setIntc_intTgt {c : Nat} {x : IntC} : (s.setIntc c x).intTgt = s.intTgt := by unfold State.setIntc; split <;> rfl
@[simp] theorem State.setIntc_intLock {c : Nat} {x : IntC} : (s.setIntc c x).intLock = s.intLock := by unfold State.setIntc; split <;> rfl
@[simp] theorem State.setIntc_health {c : Nat} {x : IntC} : (s.setIntc c x).health = s.health := by unfold State.setIntc; split <;> rfl
@[simp] theorem State.setIntc_dict {c : Nat} {x : IntC} : (s.setIntc c x).dict = s.dict := by unfold State.setIntc; split <;> rfl
@[simp] theorem State.setIntc_stew {c : Nat} {x : IntC} : (s.setIntc c x).stew = s.stew := by unfold State.setIntc; split <;> rfl
@[simp] theorem State.setIntc_pw {c : Nat} {x : IntC} : (s.setIntc c x).pw = s.pw := by unfold State.setIntc; split <;> rfl
@[simp] theorem State.setIntc_out {c : Nat} {x : IntC} : (s.setIntc c x).out = s.out := by unfold State.setIntc; split <;> rfl
@[simp] theorem State.setIntc_free {c : Nat} {x : IntC} : (s.setIntc c x).free = s.free := by unfold State.setIntc; split <;> rfl
@[simp] theorem State.setIntc_pending {c : Nat} {x : IntC} : (s.setIntc c x).pending = s.pending := by unfold State.setIntc; split <;> rfl

/-! ### A doorbell write (R415, R418) -/

@[simp] theorem State.ring_now {c n : Nat} : (s.ring c n).now = s.now := by unfold State.ring; dsimp only; (repeat' split) <;> simp
@[simp] theorem State.ring_hq {c n : Nat} : (s.ring c n).hq = s.hq := by unfold State.ring; dsimp only; (repeat' split) <;> simp
@[simp] theorem State.ring_st {c n : Nat} : (s.ring c n).st = s.st := by unfold State.ring; dsimp only; (repeat' split) <;> simp
@[simp] theorem State.ring_staged {c n : Nat} : (s.ring c n).staged = s.staged := by unfold State.ring; dsimp only; (repeat' split) <;> simp
@[simp] theorem State.ring_jr {c n : Nat} : (s.ring c n).jr = s.jr := by unfold State.ring; dsimp only; (repeat' split) <;> simp
@[simp] theorem State.ring_links {c n : Nat} : (s.ring c n).links = s.links := by unfold State.ring; dsimp only; (repeat' split) <;> simp
@[simp] theorem State.ring_levels {c n : Nat} : (s.ring c n).levels = s.levels := by unfold State.ring; dsimp only; (repeat' split) <;> simp
@[simp] theorem State.ring_levelDir {c n : Nat} : (s.ring c n).levelDir = s.levelDir := by unfold State.ring; dsimp only; (repeat' split) <;> simp
@[simp] theorem State.ring_pilotAge {c n : Nat} : (s.ring c n).pilotAge = s.pilotAge := by unfold State.ring; dsimp only; (repeat' split) <;> simp
@[simp] theorem State.ring_ld {c n : Nat} : (s.ring c n).ld = s.ld := by unfold State.ring; dsimp only; (repeat' split) <;> simp
@[simp] theorem State.ring_keys {c n : Nat} : (s.ring c n).keys = s.keys := by unfold State.ring; dsimp only; (repeat' split) <;> simp
@[simp] theorem State.ring_cam {c n : Nat} : (s.ring c n).cam = s.cam := by unfold State.ring; dsimp only; (repeat' split) <;> simp
@[simp] theorem State.ring_dram {c n : Nat} : (s.ring c n).dram = s.dram := by unfold State.ring; dsimp only; (repeat' split) <;> simp
@[simp] theorem State.ring_intTgt {c n : Nat} : (s.ring c n).intTgt = s.intTgt := by unfold State.ring; dsimp only; (repeat' split) <;> simp
@[simp] theorem State.ring_intLock {c n : Nat} : (s.ring c n).intLock = s.intLock := by unfold State.ring; dsimp only; (repeat' split) <;> simp
@[simp] theorem State.ring_health {c n : Nat} : (s.ring c n).health = s.health := by unfold State.ring; dsimp only; (repeat' split) <;> simp
@[simp] theorem State.ring_dict {c n : Nat} : (s.ring c n).dict = s.dict := by unfold State.ring; dsimp only; (repeat' split) <;> simp
@[simp] theorem State.ring_stew {c n : Nat} : (s.ring c n).stew = s.stew := by unfold State.ring; dsimp only; (repeat' split) <;> simp
@[simp] theorem State.ring_pw {c n : Nat} : (s.ring c n).pw = s.pw := by unfold State.ring; dsimp only; (repeat' split) <;> simp
@[simp] theorem State.ring_out {c n : Nat} : (s.ring c n).out = s.out := by unfold State.ring; dsimp only; (repeat' split) <;> simp
@[simp] theorem State.ring_free {c n : Nat} : (s.ring c n).free = s.free := by unfold State.ring; dsimp only; (repeat' split) <;> simp
@[simp] theorem State.ring_pending {c n : Nat} : (s.ring c n).pending = s.pending := by unfold State.ring; dsimp only; (repeat' split) <;> simp

/-! ### The raise of a held source (R421) -/

@[simp] theorem State.raiseHeld_now {c : Nat} : (s.raiseHeld c).now = s.now := by unfold State.raiseHeld; split <;> first | rfl | simp
@[simp] theorem State.raiseHeld_hq {c : Nat} : (s.raiseHeld c).hq = s.hq := by unfold State.raiseHeld; split <;> first | rfl | simp
@[simp] theorem State.raiseHeld_st {c : Nat} : (s.raiseHeld c).st = s.st := by unfold State.raiseHeld; split <;> first | rfl | simp
@[simp] theorem State.raiseHeld_staged {c : Nat} : (s.raiseHeld c).staged = s.staged := by unfold State.raiseHeld; split <;> first | rfl | simp
@[simp] theorem State.raiseHeld_jr {c : Nat} : (s.raiseHeld c).jr = s.jr := by unfold State.raiseHeld; split <;> first | rfl | simp
@[simp] theorem State.raiseHeld_links {c : Nat} : (s.raiseHeld c).links = s.links := by unfold State.raiseHeld; split <;> first | rfl | simp
@[simp] theorem State.raiseHeld_levels {c : Nat} : (s.raiseHeld c).levels = s.levels := by unfold State.raiseHeld; split <;> first | rfl | simp
@[simp] theorem State.raiseHeld_levelDir {c : Nat} : (s.raiseHeld c).levelDir = s.levelDir := by unfold State.raiseHeld; split <;> first | rfl | simp
@[simp] theorem State.raiseHeld_pilotAge {c : Nat} : (s.raiseHeld c).pilotAge = s.pilotAge := by unfold State.raiseHeld; split <;> first | rfl | simp
@[simp] theorem State.raiseHeld_ld {c : Nat} : (s.raiseHeld c).ld = s.ld := by unfold State.raiseHeld; split <;> first | rfl | simp
@[simp] theorem State.raiseHeld_keys {c : Nat} : (s.raiseHeld c).keys = s.keys := by unfold State.raiseHeld; split <;> first | rfl | simp
@[simp] theorem State.raiseHeld_cam {c : Nat} : (s.raiseHeld c).cam = s.cam := by unfold State.raiseHeld; split <;> first | rfl | simp
@[simp] theorem State.raiseHeld_dram {c : Nat} : (s.raiseHeld c).dram = s.dram := by unfold State.raiseHeld; split <;> first | rfl | simp
@[simp] theorem State.raiseHeld_intTgt {c : Nat} : (s.raiseHeld c).intTgt = s.intTgt := by unfold State.raiseHeld; split <;> first | rfl | simp
@[simp] theorem State.raiseHeld_intLock {c : Nat} : (s.raiseHeld c).intLock = s.intLock := by unfold State.raiseHeld; split <;> first | rfl | simp
@[simp] theorem State.raiseHeld_health {c : Nat} : (s.raiseHeld c).health = s.health := by unfold State.raiseHeld; split <;> first | rfl | simp
@[simp] theorem State.raiseHeld_dict {c : Nat} : (s.raiseHeld c).dict = s.dict := by unfold State.raiseHeld; split <;> first | rfl | simp
@[simp] theorem State.raiseHeld_stew {c : Nat} : (s.raiseHeld c).stew = s.stew := by unfold State.raiseHeld; split <;> first | rfl | simp
@[simp] theorem State.raiseHeld_pw {c : Nat} : (s.raiseHeld c).pw = s.pw := by unfold State.raiseHeld; split <;> first | rfl | simp
@[simp] theorem State.raiseHeld_free {c : Nat} : (s.raiseHeld c).free = s.free := by unfold State.raiseHeld; split <;> first | rfl | simp
@[simp] theorem State.raiseHeld_pending {c : Nat} : (s.raiseHeld c).pending = s.pending := by unfold State.raiseHeld; split <;> first | rfl | simp

/-! ### A doorbell and the raise it may lead to -/

@[simp] theorem State.doorbell_now {c n : Nat} : (s.doorbell c n).now = s.now := by unfold State.doorbell; dsimp only; split <;> simp
@[simp] theorem State.doorbell_hq {c n : Nat} : (s.doorbell c n).hq = s.hq := by unfold State.doorbell; dsimp only; split <;> simp
@[simp] theorem State.doorbell_st {c n : Nat} : (s.doorbell c n).st = s.st := by unfold State.doorbell; dsimp only; split <;> simp
@[simp] theorem State.doorbell_staged {c n : Nat} : (s.doorbell c n).staged = s.staged := by unfold State.doorbell; dsimp only; split <;> simp
@[simp] theorem State.doorbell_jr {c n : Nat} : (s.doorbell c n).jr = s.jr := by unfold State.doorbell; dsimp only; split <;> simp
@[simp] theorem State.doorbell_links {c n : Nat} : (s.doorbell c n).links = s.links := by unfold State.doorbell; dsimp only; split <;> simp
@[simp] theorem State.doorbell_levels {c n : Nat} : (s.doorbell c n).levels = s.levels := by unfold State.doorbell; dsimp only; split <;> simp
@[simp] theorem State.doorbell_levelDir {c n : Nat} : (s.doorbell c n).levelDir = s.levelDir := by unfold State.doorbell; dsimp only; split <;> simp
@[simp] theorem State.doorbell_pilotAge {c n : Nat} : (s.doorbell c n).pilotAge = s.pilotAge := by unfold State.doorbell; dsimp only; split <;> simp
@[simp] theorem State.doorbell_ld {c n : Nat} : (s.doorbell c n).ld = s.ld := by unfold State.doorbell; dsimp only; split <;> simp
@[simp] theorem State.doorbell_keys {c n : Nat} : (s.doorbell c n).keys = s.keys := by unfold State.doorbell; dsimp only; split <;> simp
@[simp] theorem State.doorbell_cam {c n : Nat} : (s.doorbell c n).cam = s.cam := by unfold State.doorbell; dsimp only; split <;> simp
@[simp] theorem State.doorbell_dram {c n : Nat} : (s.doorbell c n).dram = s.dram := by unfold State.doorbell; dsimp only; split <;> simp
@[simp] theorem State.doorbell_intTgt {c n : Nat} : (s.doorbell c n).intTgt = s.intTgt := by unfold State.doorbell; dsimp only; split <;> simp
@[simp] theorem State.doorbell_intLock {c n : Nat} : (s.doorbell c n).intLock = s.intLock := by unfold State.doorbell; dsimp only; split <;> simp
@[simp] theorem State.doorbell_health {c n : Nat} : (s.doorbell c n).health = s.health := by unfold State.doorbell; dsimp only; split <;> simp
@[simp] theorem State.doorbell_dict {c n : Nat} : (s.doorbell c n).dict = s.dict := by unfold State.doorbell; dsimp only; split <;> simp
@[simp] theorem State.doorbell_stew {c n : Nat} : (s.doorbell c n).stew = s.stew := by unfold State.doorbell; dsimp only; split <;> simp
@[simp] theorem State.doorbell_pw {c n : Nat} : (s.doorbell c n).pw = s.pw := by unfold State.doorbell; dsimp only; split <;> simp
@[simp] theorem State.doorbell_free {c n : Nat} : (s.doorbell c n).free = s.free := by unfold State.doorbell; dsimp only; split <;> simp
@[simp] theorem State.doorbell_pending {c n : Nat} : (s.doorbell c n).pending = s.pending := by unfold State.doorbell; dsimp only; split <;> simp

/-! ### A raise (R417) -/

@[simp] theorem State.raise_now {n : Nat} : (s.raise n).now = s.now := by unfold State.raise; split <;> first | rfl | simp
@[simp] theorem State.raise_hq {n : Nat} : (s.raise n).hq = s.hq := by unfold State.raise; split <;> first | rfl | simp
@[simp] theorem State.raise_st {n : Nat} : (s.raise n).st = s.st := by unfold State.raise; split <;> first | rfl | simp
@[simp] theorem State.raise_staged {n : Nat} : (s.raise n).staged = s.staged := by unfold State.raise; split <;> first | rfl | simp
@[simp] theorem State.raise_jr {n : Nat} : (s.raise n).jr = s.jr := by unfold State.raise; split <;> first | rfl | simp
@[simp] theorem State.raise_links {n : Nat} : (s.raise n).links = s.links := by unfold State.raise; split <;> first | rfl | simp
@[simp] theorem State.raise_levels {n : Nat} : (s.raise n).levels = s.levels := by unfold State.raise; split <;> first | rfl | simp
@[simp] theorem State.raise_levelDir {n : Nat} : (s.raise n).levelDir = s.levelDir := by unfold State.raise; split <;> first | rfl | simp
@[simp] theorem State.raise_pilotAge {n : Nat} : (s.raise n).pilotAge = s.pilotAge := by unfold State.raise; split <;> first | rfl | simp
@[simp] theorem State.raise_ld {n : Nat} : (s.raise n).ld = s.ld := by unfold State.raise; split <;> first | rfl | simp
@[simp] theorem State.raise_keys {n : Nat} : (s.raise n).keys = s.keys := by unfold State.raise; split <;> first | rfl | simp
@[simp] theorem State.raise_cam {n : Nat} : (s.raise n).cam = s.cam := by unfold State.raise; split <;> first | rfl | simp
@[simp] theorem State.raise_dram {n : Nat} : (s.raise n).dram = s.dram := by unfold State.raise; split <;> first | rfl | simp
@[simp] theorem State.raise_intTgt {n : Nat} : (s.raise n).intTgt = s.intTgt := by unfold State.raise; split <;> first | rfl | simp
@[simp] theorem State.raise_intLock {n : Nat} : (s.raise n).intLock = s.intLock := by unfold State.raise; split <;> first | rfl | simp
@[simp] theorem State.raise_health {n : Nat} : (s.raise n).health = s.health := by unfold State.raise; split <;> first | rfl | simp
@[simp] theorem State.raise_dict {n : Nat} : (s.raise n).dict = s.dict := by unfold State.raise; split <;> first | rfl | simp
@[simp] theorem State.raise_stew {n : Nat} : (s.raise n).stew = s.stew := by unfold State.raise; split <;> first | rfl | simp
@[simp] theorem State.raise_pw {n : Nat} : (s.raise n).pw = s.pw := by unfold State.raise; split <;> first | rfl | simp
@[simp] theorem State.raise_free {n : Nat} : (s.raise n).free = s.free := by unfold State.raise; split <;> first | rfl | simp
@[simp] theorem State.raise_pending {n : Nat} : (s.raise n).pending = s.pending := by unfold State.raise; split <;> first | rfl | simp

/-- What setting a vector, holding a message and sending one leave alone, a message leaves alone. -/
theorem State.message_proj {τ : Type} {g : State → τ} (hv : ∀ (s : State) v x, g (s.setVec v x) = g s)
    (hm : ∀ (s : State) l, g { s with hq := { s.hq with heldMsg := l } } = g s) (ho : ∀ (s : State) x, g (s.emit x) = g s) {v : Nat} :
    g (s.message v) = g s := by
  unfold State.message
  split
  · exact hm ..
  · dsimp only
    split
    · exact hv ..
    · exact ho ..

/-- The same of moderation. -/
theorem State.notePosted_proj {τ : Type} {g : State → τ} (hv : ∀ (s : State) v x, g (s.setVec v x) = g s)
    (hm : ∀ (s : State) l, g { s with hq := { s.hq with heldMsg := l } } = g s) (ho : ∀ (s : State) x, g (s.emit x) = g s) {v : Nat} :
    g (s.notePosted v) = g s := by
  have hs : ∀ (s : State) (x : Vec), g ((s.setVec v x).message v) = g s := fun s x => (State.message_proj hv hm ho).trans (hv ..)
  have hw : ∀ s : State, g (s.windowMessage v) = g s := fun s => hs s _
  unfold State.notePosted
  extract_lets u x y
  have hu : g u = g s := by
    simp only [u]
    split
    · split
      · exact hw s
      · rfl
    · rfl
  rw [← hu]
  clear_value u
  split
  · split
    · exact (hw _).trans (hv ..)
    · exact hv ..
  · split
    · exact hs ..
    · split
      · exact hs ..
      · exact hv ..

/-! ### A message (R50) -/

@[simp] theorem State.message_now {v : Nat} : (s.message v).now = s.now := State.message_proj (fun _ _ _ => rfl) (fun _ _ => rfl) (fun _ _ => rfl)
@[simp] theorem State.message_st {v : Nat} : (s.message v).st = s.st := State.message_proj (fun _ _ _ => rfl) (fun _ _ => rfl) (fun _ _ => rfl)
@[simp] theorem State.message_staged {v : Nat} : (s.message v).staged = s.staged := State.message_proj (fun _ _ _ => rfl) (fun _ _ => rfl) (fun _ _ => rfl)
@[simp] theorem State.message_jr {v : Nat} : (s.message v).jr = s.jr := State.message_proj (fun _ _ _ => rfl) (fun _ _ => rfl) (fun _ _ => rfl)
@[simp] theorem State.message_links {v : Nat} : (s.message v).links = s.links := State.message_proj (fun _ _ _ => rfl) (fun _ _ => rfl) (fun _ _ => rfl)
@[simp] theorem State.message_levels {v : Nat} : (s.message v).levels = s.levels := State.message_proj (fun _ _ _ => rfl) (fun _ _ => rfl) (fun _ _ => rfl)
@[simp] theorem State.message_levelDir {v : Nat} : (s.message v).levelDir = s.levelDir := State.message_proj (fun _ _ _ => rfl) (fun _ _ => rfl) (fun _ _ => rfl)
@[simp] theorem State.message_pilotAge {v : Nat} : (s.message v).pilotAge = s.pilotAge := State.message_proj (fun _ _ _ => rfl) (fun _ _ => rfl) (fun _ _ => rfl)
@[simp] theorem State.message_tiles {v : Nat} : (s.message v).tiles = s.tiles := State.message_proj (fun _ _ _ => rfl) (fun _ _ => rfl) (fun _ _ => rfl)
@[simp] theorem State.message_ld {v : Nat} : (s.message v).ld = s.ld := State.message_proj (fun _ _ _ => rfl) (fun _ _ => rfl) (fun _ _ => rfl)
@[simp] theorem State.message_keys {v : Nat} : (s.message v).keys = s.keys := State.message_proj (fun _ _ _ => rfl) (fun _ _ => rfl) (fun _ _ => rfl)
@[simp] theorem State.message_cam {v : Nat} : (s.message v).cam = s.cam := State.message_proj (fun _ _ _ => rfl) (fun _ _ => rfl) (fun _ _ => rfl)
@[simp] theorem State.message_dram {v : Nat} : (s.message v).dram = s.dram := State.message_proj (fun _ _ _ => rfl) (fun _ _ => rfl) (fun _ _ => rfl)
@[simp] theorem State.message_intTgt {v : Nat} : (s.message v).intTgt = s.intTgt := State.message_proj (fun _ _ _ => rfl) (fun _ _ => rfl) (fun _ _ => rfl)
@[simp] theorem State.message_intLock {v : Nat} : (s.message v).intLock = s.intLock := State.message_proj (fun _ _ _ => rfl) (fun _ _ => rfl) (fun _ _ => rfl)
@[simp] theorem State.message_stewInt {v : Nat} : (s.message v).stewInt = s.stewInt := State.message_proj (fun _ _ _ => rfl) (fun _ _ => rfl) (fun _ _ => rfl)
@[simp] theorem State.message_health {v : Nat} : (s.message v).health = s.health := State.message_proj (fun _ _ _ => rfl) (fun _ _ => rfl) (fun _ _ => rfl)
@[simp] theorem State.message_dict {v : Nat} : (s.message v).dict = s.dict := State.message_proj (fun _ _ _ => rfl) (fun _ _ => rfl) (fun _ _ => rfl)
@[simp] theorem State.message_stew {v : Nat} : (s.message v).stew = s.stew := State.message_proj (fun _ _ _ => rfl) (fun _ _ => rfl) (fun _ _ => rfl)
@[simp] theorem State.message_pw {v : Nat} : (s.message v).pw = s.pw := State.message_proj (fun _ _ _ => rfl) (fun _ _ => rfl) (fun _ _ => rfl)
@[simp] theorem State.message_free {v : Nat} : (s.message v).free = s.free := State.message_proj (fun _ _ _ => rfl) (fun _ _ => rfl) (fun _ _ => rfl)
@[simp] theorem State.message_pending {v : Nat} : (s.message v).pending = s.pending := State.message_proj (fun _ _ _ => rfl) (fun _ _ => rfl) (fun _ _ => rfl)

/-! ### A moderated message -/

@[simp] theorem State.windowMessage_now {v : Nat} : (s.windowMessage v).now = s.now := by simp [State.windowMessage]
@[simp] theorem State.windowMessage_st {v : Nat} : (s.windowMessage v).st = s.st := by simp [State.windowMessage]
@[simp] theorem State.windowMessage_staged {v : Nat} : (s.windowMessage v).staged = s.staged := by simp [State.windowMessage]
@[simp] theorem State.windowMessage_jr {v : Nat} : (s.windowMessage v).jr = s.jr := by simp [State.windowMessage]
@[simp] theorem State.windowMessage_links {v : Nat} : (s.windowMessage v).links = s.links := by simp [State.windowMessage]
@[simp] theorem State.windowMessage_levels {v : Nat} : (s.windowMessage v).levels = s.levels := by simp [State.windowMessage]
@[simp] theorem State.windowMessage_levelDir {v : Nat} : (s.windowMessage v).levelDir = s.levelDir := by simp [State.windowMessage]
@[simp] theorem State.windowMessage_pilotAge {v : Nat} : (s.windowMessage v).pilotAge = s.pilotAge := by simp [State.windowMessage]
@[simp] theorem State.windowMessage_tiles {v : Nat} : (s.windowMessage v).tiles = s.tiles := by simp [State.windowMessage]
@[simp] theorem State.windowMessage_ld {v : Nat} : (s.windowMessage v).ld = s.ld := by simp [State.windowMessage]
@[simp] theorem State.windowMessage_keys {v : Nat} : (s.windowMessage v).keys = s.keys := by simp [State.windowMessage]
@[simp] theorem State.windowMessage_cam {v : Nat} : (s.windowMessage v).cam = s.cam := by simp [State.windowMessage]
@[simp] theorem State.windowMessage_dram {v : Nat} : (s.windowMessage v).dram = s.dram := by simp [State.windowMessage]
@[simp] theorem State.windowMessage_intTgt {v : Nat} : (s.windowMessage v).intTgt = s.intTgt := by simp [State.windowMessage]
@[simp] theorem State.windowMessage_intLock {v : Nat} : (s.windowMessage v).intLock = s.intLock := by simp [State.windowMessage]
@[simp] theorem State.windowMessage_stewInt {v : Nat} : (s.windowMessage v).stewInt = s.stewInt := by simp [State.windowMessage]
@[simp] theorem State.windowMessage_health {v : Nat} : (s.windowMessage v).health = s.health := by simp [State.windowMessage]
@[simp] theorem State.windowMessage_dict {v : Nat} : (s.windowMessage v).dict = s.dict := by simp [State.windowMessage]
@[simp] theorem State.windowMessage_stew {v : Nat} : (s.windowMessage v).stew = s.stew := by simp [State.windowMessage]
@[simp] theorem State.windowMessage_pw {v : Nat} : (s.windowMessage v).pw = s.pw := by simp [State.windowMessage]
@[simp] theorem State.windowMessage_free {v : Nat} : (s.windowMessage v).free = s.free := by simp [State.windowMessage]
@[simp] theorem State.windowMessage_pending {v : Nat} : (s.windowMessage v).pending = s.pending := by simp [State.windowMessage]

/-! ### Moderation (R51) -/

@[simp] theorem State.notePosted_now {v : Nat} : (s.notePosted v).now = s.now := State.notePosted_proj (fun _ _ _ => rfl) (fun _ _ => rfl) (fun _ _ => rfl)
@[simp] theorem State.notePosted_st {v : Nat} : (s.notePosted v).st = s.st := State.notePosted_proj (fun _ _ _ => rfl) (fun _ _ => rfl) (fun _ _ => rfl)
@[simp] theorem State.notePosted_staged {v : Nat} : (s.notePosted v).staged = s.staged := State.notePosted_proj (fun _ _ _ => rfl) (fun _ _ => rfl) (fun _ _ => rfl)
@[simp] theorem State.notePosted_jr {v : Nat} : (s.notePosted v).jr = s.jr := State.notePosted_proj (fun _ _ _ => rfl) (fun _ _ => rfl) (fun _ _ => rfl)
@[simp] theorem State.notePosted_links {v : Nat} : (s.notePosted v).links = s.links := State.notePosted_proj (fun _ _ _ => rfl) (fun _ _ => rfl) (fun _ _ => rfl)
@[simp] theorem State.notePosted_levels {v : Nat} : (s.notePosted v).levels = s.levels := State.notePosted_proj (fun _ _ _ => rfl) (fun _ _ => rfl) (fun _ _ => rfl)
@[simp] theorem State.notePosted_levelDir {v : Nat} : (s.notePosted v).levelDir = s.levelDir := State.notePosted_proj (fun _ _ _ => rfl) (fun _ _ => rfl) (fun _ _ => rfl)
@[simp] theorem State.notePosted_pilotAge {v : Nat} : (s.notePosted v).pilotAge = s.pilotAge := State.notePosted_proj (fun _ _ _ => rfl) (fun _ _ => rfl) (fun _ _ => rfl)
@[simp] theorem State.notePosted_tiles {v : Nat} : (s.notePosted v).tiles = s.tiles := State.notePosted_proj (fun _ _ _ => rfl) (fun _ _ => rfl) (fun _ _ => rfl)
@[simp] theorem State.notePosted_ld {v : Nat} : (s.notePosted v).ld = s.ld := State.notePosted_proj (fun _ _ _ => rfl) (fun _ _ => rfl) (fun _ _ => rfl)
@[simp] theorem State.notePosted_keys {v : Nat} : (s.notePosted v).keys = s.keys := State.notePosted_proj (fun _ _ _ => rfl) (fun _ _ => rfl) (fun _ _ => rfl)
@[simp] theorem State.notePosted_cam {v : Nat} : (s.notePosted v).cam = s.cam := State.notePosted_proj (fun _ _ _ => rfl) (fun _ _ => rfl) (fun _ _ => rfl)
@[simp] theorem State.notePosted_dram {v : Nat} : (s.notePosted v).dram = s.dram := State.notePosted_proj (fun _ _ _ => rfl) (fun _ _ => rfl) (fun _ _ => rfl)
@[simp] theorem State.notePosted_intTgt {v : Nat} : (s.notePosted v).intTgt = s.intTgt := State.notePosted_proj (fun _ _ _ => rfl) (fun _ _ => rfl) (fun _ _ => rfl)
@[simp] theorem State.notePosted_intLock {v : Nat} : (s.notePosted v).intLock = s.intLock := State.notePosted_proj (fun _ _ _ => rfl) (fun _ _ => rfl) (fun _ _ => rfl)
@[simp] theorem State.notePosted_stewInt {v : Nat} : (s.notePosted v).stewInt = s.stewInt := State.notePosted_proj (fun _ _ _ => rfl) (fun _ _ => rfl) (fun _ _ => rfl)
@[simp] theorem State.notePosted_health {v : Nat} : (s.notePosted v).health = s.health := State.notePosted_proj (fun _ _ _ => rfl) (fun _ _ => rfl) (fun _ _ => rfl)
@[simp] theorem State.notePosted_dict {v : Nat} : (s.notePosted v).dict = s.dict := State.notePosted_proj (fun _ _ _ => rfl) (fun _ _ => rfl) (fun _ _ => rfl)
@[simp] theorem State.notePosted_stew {v : Nat} : (s.notePosted v).stew = s.stew := State.notePosted_proj (fun _ _ _ => rfl) (fun _ _ => rfl) (fun _ _ => rfl)
@[simp] theorem State.notePosted_pw {v : Nat} : (s.notePosted v).pw = s.pw := State.notePosted_proj (fun _ _ _ => rfl) (fun _ _ => rfl) (fun _ _ => rfl)
@[simp] theorem State.notePosted_free {v : Nat} : (s.notePosted v).free = s.free := State.notePosted_proj (fun _ _ _ => rfl) (fun _ _ => rfl) (fun _ _ => rfl)
@[simp] theorem State.notePosted_pending {v : Nat} : (s.notePosted v).pending = s.pending := State.notePosted_proj (fun _ _ _ => rfl) (fun _ _ => rfl) (fun _ _ => rfl)

/-! ### Device events (R26, R50) -/

@[simp] theorem State.cuSet_now {m : Word} : (s.cuSet m).now = s.now := by unfold State.cuSet; dsimp only; (repeat' split) <;> first | rfl | simp
@[simp] theorem State.cuSet_st {m : Word} : (s.cuSet m).st = s.st := by unfold State.cuSet; dsimp only; (repeat' split) <;> first | rfl | simp
@[simp] theorem State.cuSet_staged {m : Word} : (s.cuSet m).staged = s.staged := by unfold State.cuSet; dsimp only; (repeat' split) <;> first | rfl | simp
@[simp] theorem State.cuSet_jr {m : Word} : (s.cuSet m).jr = s.jr := by unfold State.cuSet; dsimp only; (repeat' split) <;> first | rfl | simp
@[simp] theorem State.cuSet_links {m : Word} : (s.cuSet m).links = s.links := by unfold State.cuSet; dsimp only; (repeat' split) <;> first | rfl | simp
@[simp] theorem State.cuSet_levels {m : Word} : (s.cuSet m).levels = s.levels := by unfold State.cuSet; dsimp only; (repeat' split) <;> first | rfl | simp
@[simp] theorem State.cuSet_levelDir {m : Word} : (s.cuSet m).levelDir = s.levelDir := by unfold State.cuSet; dsimp only; (repeat' split) <;> first | rfl | simp
@[simp] theorem State.cuSet_pilotAge {m : Word} : (s.cuSet m).pilotAge = s.pilotAge := by unfold State.cuSet; dsimp only; (repeat' split) <;> first | rfl | simp
@[simp] theorem State.cuSet_tiles {m : Word} : (s.cuSet m).tiles = s.tiles := by unfold State.cuSet; dsimp only; (repeat' split) <;> first | rfl | simp
@[simp] theorem State.cuSet_ld {m : Word} : (s.cuSet m).ld = s.ld := by unfold State.cuSet; dsimp only; (repeat' split) <;> first | rfl | simp
@[simp] theorem State.cuSet_keys {m : Word} : (s.cuSet m).keys = s.keys := by unfold State.cuSet; dsimp only; (repeat' split) <;> first | rfl | simp
@[simp] theorem State.cuSet_cam {m : Word} : (s.cuSet m).cam = s.cam := by unfold State.cuSet; dsimp only; (repeat' split) <;> first | rfl | simp
@[simp] theorem State.cuSet_dram {m : Word} : (s.cuSet m).dram = s.dram := by unfold State.cuSet; dsimp only; (repeat' split) <;> first | rfl | simp
@[simp] theorem State.cuSet_intTgt {m : Word} : (s.cuSet m).intTgt = s.intTgt := by unfold State.cuSet; dsimp only; (repeat' split) <;> first | rfl | simp
@[simp] theorem State.cuSet_intLock {m : Word} : (s.cuSet m).intLock = s.intLock := by unfold State.cuSet; dsimp only; (repeat' split) <;> first | rfl | simp
@[simp] theorem State.cuSet_stewInt {m : Word} : (s.cuSet m).stewInt = s.stewInt := by unfold State.cuSet; dsimp only; (repeat' split) <;> first | rfl | simp
@[simp] theorem State.cuSet_health {m : Word} : (s.cuSet m).health = s.health := by unfold State.cuSet; dsimp only; (repeat' split) <;> first | rfl | simp
@[simp] theorem State.cuSet_stew {m : Word} : (s.cuSet m).stew = s.stew := by unfold State.cuSet; dsimp only; (repeat' split) <;> first | rfl | simp
@[simp] theorem State.cuSet_pw {m : Word} : (s.cuSet m).pw = s.pw := by unfold State.cuSet; dsimp only; (repeat' split) <;> first | rfl | simp
@[simp] theorem State.cuSet_free {m : Word} : (s.cuSet m).free = s.free := by unfold State.cuSet; dsimp only; (repeat' split) <;> first | rfl | simp
@[simp] theorem State.cuSet_pending {m : Word} : (s.cuSet m).pending = s.pending := by unfold State.cuSet; dsimp only; (repeat' split) <;> first | rfl | simp

/-! ### Ready bits (R26) -/

@[simp] theorem State.setReady_now {r : Word} : (s.setReady r).now = s.now := by unfold State.setReady; split <;> simp
@[simp] theorem State.setReady_st {r : Word} : (s.setReady r).st = s.st := by unfold State.setReady; split <;> simp
@[simp] theorem State.setReady_staged {r : Word} : (s.setReady r).staged = s.staged := by unfold State.setReady; split <;> simp
@[simp] theorem State.setReady_jr {r : Word} : (s.setReady r).jr = s.jr := by unfold State.setReady; split <;> simp
@[simp] theorem State.setReady_links {r : Word} : (s.setReady r).links = s.links := by unfold State.setReady; split <;> simp
@[simp] theorem State.setReady_levels {r : Word} : (s.setReady r).levels = s.levels := by unfold State.setReady; split <;> simp
@[simp] theorem State.setReady_levelDir {r : Word} : (s.setReady r).levelDir = s.levelDir := by unfold State.setReady; split <;> simp
@[simp] theorem State.setReady_pilotAge {r : Word} : (s.setReady r).pilotAge = s.pilotAge := by unfold State.setReady; split <;> simp
@[simp] theorem State.setReady_tiles {r : Word} : (s.setReady r).tiles = s.tiles := by unfold State.setReady; split <;> simp
@[simp] theorem State.setReady_ld {r : Word} : (s.setReady r).ld = s.ld := by unfold State.setReady; split <;> simp
@[simp] theorem State.setReady_keys {r : Word} : (s.setReady r).keys = s.keys := by unfold State.setReady; split <;> simp
@[simp] theorem State.setReady_cam {r : Word} : (s.setReady r).cam = s.cam := by unfold State.setReady; split <;> simp
@[simp] theorem State.setReady_dram {r : Word} : (s.setReady r).dram = s.dram := by unfold State.setReady; split <;> simp
@[simp] theorem State.setReady_intTgt {r : Word} : (s.setReady r).intTgt = s.intTgt := by unfold State.setReady; split <;> simp
@[simp] theorem State.setReady_intLock {r : Word} : (s.setReady r).intLock = s.intLock := by unfold State.setReady; split <;> simp
@[simp] theorem State.setReady_stewInt {r : Word} : (s.setReady r).stewInt = s.stewInt := by unfold State.setReady; split <;> simp
@[simp] theorem State.setReady_health {r : Word} : (s.setReady r).health = s.health := by unfold State.setReady; split <;> simp
@[simp] theorem State.setReady_stew {r : Word} : (s.setReady r).stew = s.stew := by unfold State.setReady; split <;> simp
@[simp] theorem State.setReady_pw {r : Word} : (s.setReady r).pw = s.pw := by unfold State.setReady; split <;> simp
@[simp] theorem State.setReady_free {r : Word} : (s.setReady r).free = s.free := by unfold State.setReady; split <;> simp
@[simp] theorem State.setReady_pending {r : Word} : (s.setReady r).pending = s.pending := by unfold State.setReady; split <;> simp

/-! ### Control words -/

@[simp] theorem State.sendCtl_now {l n : Nat} {c : Byte} : (s.sendCtl l c n).now = s.now := rfl
@[simp] theorem State.sendCtl_hq {l n : Nat} {c : Byte} : (s.sendCtl l c n).hq = s.hq := rfl
@[simp] theorem State.sendCtl_st {l n : Nat} {c : Byte} : (s.sendCtl l c n).st = s.st := rfl
@[simp] theorem State.sendCtl_staged {l n : Nat} {c : Byte} : (s.sendCtl l c n).staged = s.staged := rfl
@[simp] theorem State.sendCtl_jr {l n : Nat} {c : Byte} : (s.sendCtl l c n).jr = s.jr := rfl
@[simp] theorem State.sendCtl_links {l n : Nat} {c : Byte} : (s.sendCtl l c n).links = s.links := rfl
@[simp] theorem State.sendCtl_levels {l n : Nat} {c : Byte} : (s.sendCtl l c n).levels = s.levels := rfl
@[simp] theorem State.sendCtl_levelDir {l n : Nat} {c : Byte} : (s.sendCtl l c n).levelDir = s.levelDir := rfl
@[simp] theorem State.sendCtl_pilotAge {l n : Nat} {c : Byte} : (s.sendCtl l c n).pilotAge = s.pilotAge := rfl
@[simp] theorem State.sendCtl_tiles {l n : Nat} {c : Byte} : (s.sendCtl l c n).tiles = s.tiles := rfl
@[simp] theorem State.sendCtl_ld {l n : Nat} {c : Byte} : (s.sendCtl l c n).ld = s.ld := rfl
@[simp] theorem State.sendCtl_keys {l n : Nat} {c : Byte} : (s.sendCtl l c n).keys = s.keys := rfl
@[simp] theorem State.sendCtl_cam {l n : Nat} {c : Byte} : (s.sendCtl l c n).cam = s.cam := rfl
@[simp] theorem State.sendCtl_dram {l n : Nat} {c : Byte} : (s.sendCtl l c n).dram = s.dram := rfl
@[simp] theorem State.sendCtl_intTgt {l n : Nat} {c : Byte} : (s.sendCtl l c n).intTgt = s.intTgt := rfl
@[simp] theorem State.sendCtl_intLock {l n : Nat} {c : Byte} : (s.sendCtl l c n).intLock = s.intLock := rfl
@[simp] theorem State.sendCtl_stewInt {l n : Nat} {c : Byte} : (s.sendCtl l c n).stewInt = s.stewInt := rfl
@[simp] theorem State.sendCtl_health {l n : Nat} {c : Byte} : (s.sendCtl l c n).health = s.health := rfl
@[simp] theorem State.sendCtl_dict {l n : Nat} {c : Byte} : (s.sendCtl l c n).dict = s.dict := rfl
@[simp] theorem State.sendCtl_stew {l n : Nat} {c : Byte} : (s.sendCtl l c n).stew = s.stew := rfl
@[simp] theorem State.sendCtl_pw {l n : Nat} {c : Byte} : (s.sendCtl l c n).pw = s.pw := rfl
@[simp] theorem State.sendCtl_free {l n : Nat} {c : Byte} : (s.sendCtl l c n).free = s.free := rfl
@[simp] theorem State.sendCtl_pending {l n : Nat} {c : Byte} : (s.sendCtl l c n).pending = s.pending := rfl

/-! ### Activity -/

@[simp] theorem State.busy_now : (s.busy).now = s.now := rfl
@[simp] theorem State.busy_hq : (s.busy).hq = s.hq := rfl
@[simp] theorem State.busy_st : (s.busy).st = s.st := rfl
@[simp] theorem State.busy_staged : (s.busy).staged = s.staged := rfl
@[simp] theorem State.busy_jr : (s.busy).jr = s.jr := rfl
@[simp] theorem State.busy_links : (s.busy).links = s.links := rfl
@[simp] theorem State.busy_levels : (s.busy).levels = s.levels := rfl
@[simp] theorem State.busy_levelDir : (s.busy).levelDir = s.levelDir := rfl
@[simp] theorem State.busy_pilotAge : (s.busy).pilotAge = s.pilotAge := rfl
@[simp] theorem State.busy_tiles : (s.busy).tiles = s.tiles := rfl
@[simp] theorem State.busy_ld : (s.busy).ld = s.ld := rfl
@[simp] theorem State.busy_keys : (s.busy).keys = s.keys := rfl
@[simp] theorem State.busy_cam : (s.busy).cam = s.cam := rfl
@[simp] theorem State.busy_dram : (s.busy).dram = s.dram := rfl
@[simp] theorem State.busy_intTgt : (s.busy).intTgt = s.intTgt := rfl
@[simp] theorem State.busy_intLock : (s.busy).intLock = s.intLock := rfl
@[simp] theorem State.busy_stewInt : (s.busy).stewInt = s.stewInt := rfl
@[simp] theorem State.busy_health : (s.busy).health = s.health := rfl
@[simp] theorem State.busy_dict : (s.busy).dict = s.dict := rfl
@[simp] theorem State.busy_stew : (s.busy).stew = s.stew := rfl
@[simp] theorem State.busy_out : (s.busy).out = s.out := rfl
@[simp] theorem State.busy_free : (s.busy).free = s.free := rfl
@[simp] theorem State.busy_pending : (s.busy).pending = s.pending := rfl

/-- What every step of a fold over the links leaves alone, leaving a low-power state leaves alone. -/
theorem State.wakeUp_proj {τ : Type} {g : State → τ} (hp : ∀ (s : State) p, g { s with pw := p } = g s)
    (hl : ∀ (s : State) l x, g (s.setLink l x) = g s) (ho : ∀ (s : State) x, g (s.emit x) = g s) : g s.wakeUp = g s := by
  unfold State.wakeUp
  dsimp only
  split
  · exact hp ..
  · refine (foldS_proj (g := g) ?_).trans ((hp ..).trans (hp ..))
    intro s x
    split
    · exact (ho ..).trans (hl ..)
    · rfl

/-! ### Leaving a low-power state (R484, R486) -/

@[simp] theorem State.wakeUp_now : (s.wakeUp).now = s.now := State.wakeUp_proj (fun _ _ => rfl) (fun _ _ _ => rfl) (fun _ _ => rfl)
@[simp] theorem State.wakeUp_hq : (s.wakeUp).hq = s.hq := State.wakeUp_proj (fun _ _ => rfl) (fun _ _ _ => rfl) (fun _ _ => rfl)
@[simp] theorem State.wakeUp_st : (s.wakeUp).st = s.st := State.wakeUp_proj (fun _ _ => rfl) (fun _ _ _ => rfl) (fun _ _ => rfl)
@[simp] theorem State.wakeUp_staged : (s.wakeUp).staged = s.staged := State.wakeUp_proj (fun _ _ => rfl) (fun _ _ _ => rfl) (fun _ _ => rfl)
@[simp] theorem State.wakeUp_jr : (s.wakeUp).jr = s.jr := State.wakeUp_proj (fun _ _ => rfl) (fun _ _ _ => rfl) (fun _ _ => rfl)
@[simp] theorem State.wakeUp_levels : (s.wakeUp).levels = s.levels := State.wakeUp_proj (fun _ _ => rfl) (fun _ _ _ => rfl) (fun _ _ => rfl)
@[simp] theorem State.wakeUp_levelDir : (s.wakeUp).levelDir = s.levelDir := State.wakeUp_proj (fun _ _ => rfl) (fun _ _ _ => rfl) (fun _ _ => rfl)
@[simp] theorem State.wakeUp_pilotAge : (s.wakeUp).pilotAge = s.pilotAge := State.wakeUp_proj (fun _ _ => rfl) (fun _ _ _ => rfl) (fun _ _ => rfl)
@[simp] theorem State.wakeUp_tiles : (s.wakeUp).tiles = s.tiles := State.wakeUp_proj (fun _ _ => rfl) (fun _ _ _ => rfl) (fun _ _ => rfl)
@[simp] theorem State.wakeUp_ld : (s.wakeUp).ld = s.ld := State.wakeUp_proj (fun _ _ => rfl) (fun _ _ _ => rfl) (fun _ _ => rfl)
@[simp] theorem State.wakeUp_keys : (s.wakeUp).keys = s.keys := State.wakeUp_proj (fun _ _ => rfl) (fun _ _ _ => rfl) (fun _ _ => rfl)
@[simp] theorem State.wakeUp_cam : (s.wakeUp).cam = s.cam := State.wakeUp_proj (fun _ _ => rfl) (fun _ _ _ => rfl) (fun _ _ => rfl)
@[simp] theorem State.wakeUp_dram : (s.wakeUp).dram = s.dram := State.wakeUp_proj (fun _ _ => rfl) (fun _ _ _ => rfl) (fun _ _ => rfl)
@[simp] theorem State.wakeUp_intTgt : (s.wakeUp).intTgt = s.intTgt := State.wakeUp_proj (fun _ _ => rfl) (fun _ _ _ => rfl) (fun _ _ => rfl)
@[simp] theorem State.wakeUp_intLock : (s.wakeUp).intLock = s.intLock := State.wakeUp_proj (fun _ _ => rfl) (fun _ _ _ => rfl) (fun _ _ => rfl)
@[simp] theorem State.wakeUp_stewInt : (s.wakeUp).stewInt = s.stewInt := State.wakeUp_proj (fun _ _ => rfl) (fun _ _ _ => rfl) (fun _ _ => rfl)
@[simp] theorem State.wakeUp_health : (s.wakeUp).health = s.health := State.wakeUp_proj (fun _ _ => rfl) (fun _ _ _ => rfl) (fun _ _ => rfl)
@[simp] theorem State.wakeUp_dict : (s.wakeUp).dict = s.dict := State.wakeUp_proj (fun _ _ => rfl) (fun _ _ _ => rfl) (fun _ _ => rfl)
@[simp] theorem State.wakeUp_stew : (s.wakeUp).stew = s.stew := State.wakeUp_proj (fun _ _ => rfl) (fun _ _ _ => rfl) (fun _ _ => rfl)
@[simp] theorem State.wakeUp_free : (s.wakeUp).free = s.free := State.wakeUp_proj (fun _ _ => rfl) (fun _ _ _ => rfl) (fun _ _ => rfl)
@[simp] theorem State.wakeUp_pending : (s.wakeUp).pending = s.pending := State.wakeUp_proj (fun _ _ => rfl) (fun _ _ _ => rfl) (fun _ _ => rfl)

/-! ### Health events (R438) -/

@[simp] theorem State.health_now {k v r t l : Nat} {a : DWord} {b : Word} : (s.health! k v r t l a b).now = s.now := by simp [State.health!]
@[simp] theorem State.health_st {k v r t l : Nat} {a : DWord} {b : Word} : (s.health! k v r t l a b).st = s.st := by simp [State.health!]
@[simp] theorem State.health_staged {k v r t l : Nat} {a : DWord} {b : Word} : (s.health! k v r t l a b).staged = s.staged := by simp [State.health!]
@[simp] theorem State.health_jr {k v r t l : Nat} {a : DWord} {b : Word} : (s.health! k v r t l a b).jr = s.jr := by simp [State.health!]
@[simp] theorem State.health_levels {k v r t l : Nat} {a : DWord} {b : Word} : (s.health! k v r t l a b).levels = s.levels := by simp [State.health!]
@[simp] theorem State.health_levelDir {k v r t l : Nat} {a : DWord} {b : Word} : (s.health! k v r t l a b).levelDir = s.levelDir := by simp [State.health!]
@[simp] theorem State.health_pilotAge {k v r t l : Nat} {a : DWord} {b : Word} : (s.health! k v r t l a b).pilotAge = s.pilotAge := by simp [State.health!]
@[simp] theorem State.health_tiles {k v r t l : Nat} {a : DWord} {b : Word} : (s.health! k v r t l a b).tiles = s.tiles := by simp [State.health!]
@[simp] theorem State.health_ld {k v r t l : Nat} {a : DWord} {b : Word} : (s.health! k v r t l a b).ld = s.ld := by simp [State.health!]
@[simp] theorem State.health_keys {k v r t l : Nat} {a : DWord} {b : Word} : (s.health! k v r t l a b).keys = s.keys := by simp [State.health!]
@[simp] theorem State.health_cam {k v r t l : Nat} {a : DWord} {b : Word} : (s.health! k v r t l a b).cam = s.cam := by simp [State.health!]
@[simp] theorem State.health_dram {k v r t l : Nat} {a : DWord} {b : Word} : (s.health! k v r t l a b).dram = s.dram := by simp [State.health!]
@[simp] theorem State.health_intTgt {k v r t l : Nat} {a : DWord} {b : Word} : (s.health! k v r t l a b).intTgt = s.intTgt := by simp [State.health!]
@[simp] theorem State.health_intLock {k v r t l : Nat} {a : DWord} {b : Word} : (s.health! k v r t l a b).intLock = s.intLock := by simp [State.health!]
@[simp] theorem State.health_stewInt {k v r t l : Nat} {a : DWord} {b : Word} : (s.health! k v r t l a b).stewInt = s.stewInt := by simp [State.health!]
@[simp] theorem State.health_stew {k v r t l : Nat} {a : DWord} {b : Word} : (s.health! k v r t l a b).stew = s.stew := by simp [State.health!]
@[simp] theorem State.health_free {k v r t l : Nat} {a : DWord} {b : Word} : (s.health! k v r t l a b).free = s.free := by simp [State.health!]
@[simp] theorem State.health_pending {k v r t l : Nat} {a : DWord} {b : Word} : (s.health! k v r t l a b).pending = s.pending := by simp [State.health!]

/-! ### The end of a command -/

@[simp] theorem State.dropOp_now {q tag : Nat} : (s.dropOp q tag).now = s.now := rfl
@[simp] theorem State.dropOp_st {q tag : Nat} : (s.dropOp q tag).st = s.st := rfl
@[simp] theorem State.dropOp_staged {q tag : Nat} : (s.dropOp q tag).staged = s.staged := rfl
@[simp] theorem State.dropOp_jr {q tag : Nat} : (s.dropOp q tag).jr = s.jr := rfl
@[simp] theorem State.dropOp_links {q tag : Nat} : (s.dropOp q tag).links = s.links := rfl
@[simp] theorem State.dropOp_levels {q tag : Nat} : (s.dropOp q tag).levels = s.levels := rfl
@[simp] theorem State.dropOp_levelDir {q tag : Nat} : (s.dropOp q tag).levelDir = s.levelDir := rfl
@[simp] theorem State.dropOp_pilotAge {q tag : Nat} : (s.dropOp q tag).pilotAge = s.pilotAge := rfl
@[simp] theorem State.dropOp_tiles {q tag : Nat} : (s.dropOp q tag).tiles = s.tiles := rfl
@[simp] theorem State.dropOp_ld {q tag : Nat} : (s.dropOp q tag).ld = s.ld := rfl
@[simp] theorem State.dropOp_keys {q tag : Nat} : (s.dropOp q tag).keys = s.keys := rfl
@[simp] theorem State.dropOp_cam {q tag : Nat} : (s.dropOp q tag).cam = s.cam := rfl
@[simp] theorem State.dropOp_dram {q tag : Nat} : (s.dropOp q tag).dram = s.dram := rfl
@[simp] theorem State.dropOp_intTgt {q tag : Nat} : (s.dropOp q tag).intTgt = s.intTgt := rfl
@[simp] theorem State.dropOp_intLock {q tag : Nat} : (s.dropOp q tag).intLock = s.intLock := rfl
@[simp] theorem State.dropOp_stewInt {q tag : Nat} : (s.dropOp q tag).stewInt = s.stewInt := rfl
@[simp] theorem State.dropOp_health {q tag : Nat} : (s.dropOp q tag).health = s.health := rfl
@[simp] theorem State.dropOp_dict {q tag : Nat} : (s.dropOp q tag).dict = s.dict := rfl
@[simp] theorem State.dropOp_stew {q tag : Nat} : (s.dropOp q tag).stew = s.stew := rfl
@[simp] theorem State.dropOp_out {q tag : Nat} : (s.dropOp q tag).out = s.out := rfl
@[simp] theorem State.dropOp_free {q tag : Nat} : (s.dropOp q tag).free = s.free := rfl
@[simp] theorem State.dropOp_pending {q tag : Nat} : (s.dropOp q tag).pending = s.pending := rfl

/-! ### The write of a completion (R31, R54) -/

@[simp] theorem State.writeCpl_now {q : Nat} {h : HeldCpl} : (s.writeCpl q h).now = s.now := by unfold State.writeCpl; split <;> rfl
@[simp] theorem State.writeCpl_st {q : Nat} {h : HeldCpl} : (s.writeCpl q h).st = s.st := by unfold State.writeCpl; split <;> rfl
@[simp] theorem State.writeCpl_staged {q : Nat} {h : HeldCpl} : (s.writeCpl q h).staged = s.staged := by unfold State.writeCpl; split <;> rfl
@[simp] theorem State.writeCpl_jr {q : Nat} {h : HeldCpl} : (s.writeCpl q h).jr = s.jr := by unfold State.writeCpl; split <;> rfl
@[simp] theorem State.writeCpl_links {q : Nat} {h : HeldCpl} : (s.writeCpl q h).links = s.links := by unfold State.writeCpl; split <;> rfl
@[simp] theorem State.writeCpl_levels {q : Nat} {h : HeldCpl} : (s.writeCpl q h).levels = s.levels := by unfold State.writeCpl; split <;> rfl
@[simp] theorem State.writeCpl_levelDir {q : Nat} {h : HeldCpl} : (s.writeCpl q h).levelDir = s.levelDir := by unfold State.writeCpl; split <;> rfl
@[simp] theorem State.writeCpl_pilotAge {q : Nat} {h : HeldCpl} : (s.writeCpl q h).pilotAge = s.pilotAge := by unfold State.writeCpl; split <;> rfl
@[simp] theorem State.writeCpl_tiles {q : Nat} {h : HeldCpl} : (s.writeCpl q h).tiles = s.tiles := by unfold State.writeCpl; split <;> rfl
@[simp] theorem State.writeCpl_ld {q : Nat} {h : HeldCpl} : (s.writeCpl q h).ld = s.ld := by unfold State.writeCpl; split <;> rfl
@[simp] theorem State.writeCpl_keys {q : Nat} {h : HeldCpl} : (s.writeCpl q h).keys = s.keys := by unfold State.writeCpl; split <;> rfl
@[simp] theorem State.writeCpl_cam {q : Nat} {h : HeldCpl} : (s.writeCpl q h).cam = s.cam := by unfold State.writeCpl; split <;> rfl
@[simp] theorem State.writeCpl_dram {q : Nat} {h : HeldCpl} : (s.writeCpl q h).dram = s.dram := by unfold State.writeCpl; split <;> rfl
@[simp] theorem State.writeCpl_intTgt {q : Nat} {h : HeldCpl} : (s.writeCpl q h).intTgt = s.intTgt := by unfold State.writeCpl; split <;> rfl
@[simp] theorem State.writeCpl_intLock {q : Nat} {h : HeldCpl} : (s.writeCpl q h).intLock = s.intLock := by unfold State.writeCpl; split <;> rfl
@[simp] theorem State.writeCpl_stewInt {q : Nat} {h : HeldCpl} : (s.writeCpl q h).stewInt = s.stewInt := by unfold State.writeCpl; split <;> rfl
@[simp] theorem State.writeCpl_health {q : Nat} {h : HeldCpl} : (s.writeCpl q h).health = s.health := by unfold State.writeCpl; split <;> rfl
@[simp] theorem State.writeCpl_dict {q : Nat} {h : HeldCpl} : (s.writeCpl q h).dict = s.dict := by unfold State.writeCpl; split <;> rfl
@[simp] theorem State.writeCpl_stew {q : Nat} {h : HeldCpl} : (s.writeCpl q h).stew = s.stew := by unfold State.writeCpl; split <;> rfl
@[simp] theorem State.writeCpl_pw {q : Nat} {h : HeldCpl} : (s.writeCpl q h).pw = s.pw := by unfold State.writeCpl; split <;> rfl
@[simp] theorem State.writeCpl_free {q : Nat} {h : HeldCpl} : (s.writeCpl q h).free = s.free := by unfold State.writeCpl; split <;> rfl
@[simp] theorem State.writeCpl_pending {q : Nat} {h : HeldCpl} : (s.writeCpl q h).pending = s.pending := by unfold State.writeCpl; split <;> rfl

/-! ### A completion whose write succeeds -/

@[simp] theorem State.postOk_now {q tag : Nat} {cls : CplClass} {code : Code} {result : DWord} {slack failing : Bool} : (s.postOk q tag cls code result slack failing).now = s.now := by simp [State.postOk]
@[simp] theorem State.postOk_st {q tag : Nat} {cls : CplClass} {code : Code} {result : DWord} {slack failing : Bool} : (s.postOk q tag cls code result slack failing).st = s.st := by simp [State.postOk]
@[simp] theorem State.postOk_staged {q tag : Nat} {cls : CplClass} {code : Code} {result : DWord} {slack failing : Bool} : (s.postOk q tag cls code result slack failing).staged = s.staged := by simp [State.postOk]
@[simp] theorem State.postOk_jr {q tag : Nat} {cls : CplClass} {code : Code} {result : DWord} {slack failing : Bool} : (s.postOk q tag cls code result slack failing).jr = s.jr := by simp [State.postOk]
@[simp] theorem State.postOk_links {q tag : Nat} {cls : CplClass} {code : Code} {result : DWord} {slack failing : Bool} : (s.postOk q tag cls code result slack failing).links = s.links := by simp [State.postOk]
@[simp] theorem State.postOk_levels {q tag : Nat} {cls : CplClass} {code : Code} {result : DWord} {slack failing : Bool} : (s.postOk q tag cls code result slack failing).levels = s.levels := by simp [State.postOk]
@[simp] theorem State.postOk_levelDir {q tag : Nat} {cls : CplClass} {code : Code} {result : DWord} {slack failing : Bool} : (s.postOk q tag cls code result slack failing).levelDir = s.levelDir := by simp [State.postOk]
@[simp] theorem State.postOk_pilotAge {q tag : Nat} {cls : CplClass} {code : Code} {result : DWord} {slack failing : Bool} : (s.postOk q tag cls code result slack failing).pilotAge = s.pilotAge := by simp [State.postOk]
@[simp] theorem State.postOk_tiles {q tag : Nat} {cls : CplClass} {code : Code} {result : DWord} {slack failing : Bool} : (s.postOk q tag cls code result slack failing).tiles = s.tiles := by simp [State.postOk]
@[simp] theorem State.postOk_ld {q tag : Nat} {cls : CplClass} {code : Code} {result : DWord} {slack failing : Bool} : (s.postOk q tag cls code result slack failing).ld = s.ld := by simp [State.postOk]
@[simp] theorem State.postOk_keys {q tag : Nat} {cls : CplClass} {code : Code} {result : DWord} {slack failing : Bool} : (s.postOk q tag cls code result slack failing).keys = s.keys := by simp [State.postOk]
@[simp] theorem State.postOk_cam {q tag : Nat} {cls : CplClass} {code : Code} {result : DWord} {slack failing : Bool} : (s.postOk q tag cls code result slack failing).cam = s.cam := by simp [State.postOk]
@[simp] theorem State.postOk_dram {q tag : Nat} {cls : CplClass} {code : Code} {result : DWord} {slack failing : Bool} : (s.postOk q tag cls code result slack failing).dram = s.dram := by simp [State.postOk]
@[simp] theorem State.postOk_intTgt {q tag : Nat} {cls : CplClass} {code : Code} {result : DWord} {slack failing : Bool} : (s.postOk q tag cls code result slack failing).intTgt = s.intTgt := by simp [State.postOk]
@[simp] theorem State.postOk_intLock {q tag : Nat} {cls : CplClass} {code : Code} {result : DWord} {slack failing : Bool} : (s.postOk q tag cls code result slack failing).intLock = s.intLock := by simp [State.postOk]
@[simp] theorem State.postOk_stewInt {q tag : Nat} {cls : CplClass} {code : Code} {result : DWord} {slack failing : Bool} : (s.postOk q tag cls code result slack failing).stewInt = s.stewInt := by simp [State.postOk]
@[simp] theorem State.postOk_health {q tag : Nat} {cls : CplClass} {code : Code} {result : DWord} {slack failing : Bool} : (s.postOk q tag cls code result slack failing).health = s.health := by simp [State.postOk]
@[simp] theorem State.postOk_dict {q tag : Nat} {cls : CplClass} {code : Code} {result : DWord} {slack failing : Bool} : (s.postOk q tag cls code result slack failing).dict = s.dict := by simp [State.postOk]
@[simp] theorem State.postOk_stew {q tag : Nat} {cls : CplClass} {code : Code} {result : DWord} {slack failing : Bool} : (s.postOk q tag cls code result slack failing).stew = s.stew := by simp [State.postOk]
@[simp] theorem State.postOk_free {q tag : Nat} {cls : CplClass} {code : Code} {result : DWord} {slack failing : Bool} : (s.postOk q tag cls code result slack failing).free = s.free := by simp [State.postOk]
@[simp] theorem State.postOk_pending {q tag : Nat} {cls : CplClass} {code : Code} {result : DWord} {slack failing : Bool} : (s.postOk q tag cls code result slack failing).pending = s.pending := by simp [State.postOk]

/-! ### A freeze (R38, R39) -/

@[simp] theorem State.freeze_now {q op : Nat} {tag : BitVec 5} {code : Code} {d : DWord} {l : Word} {e : BitVec 512} : (s.freeze q tag op code d l e).now = s.now := by unfold State.freeze; dsimp only; split <;> first | rfl | simp
@[simp] theorem State.freeze_st {q op : Nat} {tag : BitVec 5} {code : Code} {d : DWord} {l : Word} {e : BitVec 512} : (s.freeze q tag op code d l e).st = s.st := by unfold State.freeze; dsimp only; split <;> first | rfl | simp
@[simp] theorem State.freeze_staged {q op : Nat} {tag : BitVec 5} {code : Code} {d : DWord} {l : Word} {e : BitVec 512} : (s.freeze q tag op code d l e).staged = s.staged := by unfold State.freeze; dsimp only; split <;> first | rfl | simp
@[simp] theorem State.freeze_jr {q op : Nat} {tag : BitVec 5} {code : Code} {d : DWord} {l : Word} {e : BitVec 512} : (s.freeze q tag op code d l e).jr = s.jr := by unfold State.freeze; dsimp only; split <;> first | rfl | simp
@[simp] theorem State.freeze_links {q op : Nat} {tag : BitVec 5} {code : Code} {d : DWord} {l : Word} {e : BitVec 512} : (s.freeze q tag op code d l e).links = s.links := by unfold State.freeze; dsimp only; split <;> first | rfl | simp
@[simp] theorem State.freeze_levels {q op : Nat} {tag : BitVec 5} {code : Code} {d : DWord} {l : Word} {e : BitVec 512} : (s.freeze q tag op code d l e).levels = s.levels := by unfold State.freeze; dsimp only; split <;> first | rfl | simp
@[simp] theorem State.freeze_levelDir {q op : Nat} {tag : BitVec 5} {code : Code} {d : DWord} {l : Word} {e : BitVec 512} : (s.freeze q tag op code d l e).levelDir = s.levelDir := by unfold State.freeze; dsimp only; split <;> first | rfl | simp
@[simp] theorem State.freeze_pilotAge {q op : Nat} {tag : BitVec 5} {code : Code} {d : DWord} {l : Word} {e : BitVec 512} : (s.freeze q tag op code d l e).pilotAge = s.pilotAge := by unfold State.freeze; dsimp only; split <;> first | rfl | simp
@[simp] theorem State.freeze_tiles {q op : Nat} {tag : BitVec 5} {code : Code} {d : DWord} {l : Word} {e : BitVec 512} : (s.freeze q tag op code d l e).tiles = s.tiles := by unfold State.freeze; dsimp only; split <;> first | rfl | simp
@[simp] theorem State.freeze_ld {q op : Nat} {tag : BitVec 5} {code : Code} {d : DWord} {l : Word} {e : BitVec 512} : (s.freeze q tag op code d l e).ld = s.ld := by unfold State.freeze; dsimp only; split <;> first | rfl | simp
@[simp] theorem State.freeze_keys {q op : Nat} {tag : BitVec 5} {code : Code} {d : DWord} {l : Word} {e : BitVec 512} : (s.freeze q tag op code d l e).keys = s.keys := by unfold State.freeze; dsimp only; split <;> first | rfl | simp
@[simp] theorem State.freeze_cam {q op : Nat} {tag : BitVec 5} {code : Code} {d : DWord} {l : Word} {e : BitVec 512} : (s.freeze q tag op code d l e).cam = s.cam := by unfold State.freeze; dsimp only; split <;> first | rfl | simp
@[simp] theorem State.freeze_dram {q op : Nat} {tag : BitVec 5} {code : Code} {d : DWord} {l : Word} {e : BitVec 512} : (s.freeze q tag op code d l e).dram = s.dram := by unfold State.freeze; dsimp only; split <;> first | rfl | simp
@[simp] theorem State.freeze_intTgt {q op : Nat} {tag : BitVec 5} {code : Code} {d : DWord} {l : Word} {e : BitVec 512} : (s.freeze q tag op code d l e).intTgt = s.intTgt := by unfold State.freeze; dsimp only; split <;> first | rfl | simp
@[simp] theorem State.freeze_intLock {q op : Nat} {tag : BitVec 5} {code : Code} {d : DWord} {l : Word} {e : BitVec 512} : (s.freeze q tag op code d l e).intLock = s.intLock := by unfold State.freeze; dsimp only; split <;> first | rfl | simp
@[simp] theorem State.freeze_stewInt {q op : Nat} {tag : BitVec 5} {code : Code} {d : DWord} {l : Word} {e : BitVec 512} : (s.freeze q tag op code d l e).stewInt = s.stewInt := by unfold State.freeze; dsimp only; split <;> first | rfl | simp
@[simp] theorem State.freeze_health {q op : Nat} {tag : BitVec 5} {code : Code} {d : DWord} {l : Word} {e : BitVec 512} : (s.freeze q tag op code d l e).health = s.health := by unfold State.freeze; dsimp only; split <;> first | rfl | simp
@[simp] theorem State.freeze_dict {q op : Nat} {tag : BitVec 5} {code : Code} {d : DWord} {l : Word} {e : BitVec 512} : (s.freeze q tag op code d l e).dict = s.dict := by unfold State.freeze; dsimp only; split <;> first | rfl | simp
@[simp] theorem State.freeze_stew {q op : Nat} {tag : BitVec 5} {code : Code} {d : DWord} {l : Word} {e : BitVec 512} : (s.freeze q tag op code d l e).stew = s.stew := by unfold State.freeze; dsimp only; split <;> first | rfl | simp
@[simp] theorem State.freeze_pw {q op : Nat} {tag : BitVec 5} {code : Code} {d : DWord} {l : Word} {e : BitVec 512} : (s.freeze q tag op code d l e).pw = s.pw := by unfold State.freeze; dsimp only; split <;> first | rfl | simp
@[simp] theorem State.freeze_out {q op : Nat} {tag : BitVec 5} {code : Code} {d : DWord} {l : Word} {e : BitVec 512} : (s.freeze q tag op code d l e).out = s.out := by unfold State.freeze; dsimp only; split <;> first | rfl | simp
@[simp] theorem State.freeze_free {q op : Nat} {tag : BitVec 5} {code : Code} {d : DWord} {l : Word} {e : BitVec 512} : (s.freeze q tag op code d l e).free = s.free := by unfold State.freeze; dsimp only; split <;> first | rfl | simp
@[simp] theorem State.freeze_pending {q op : Nat} {tag : BitVec 5} {code : Code} {d : DWord} {l : Word} {e : BitVec 512} : (s.freeze q tag op code d l e).pending = s.pending := by unfold State.freeze; dsimp only; split <;> first | rfl | simp

/-! ### A held completion (R41) -/

@[simp] theorem State.holdCpl_now {q tag : Nat} {h : HeldCpl} : (s.holdCpl q tag h).now = s.now := by simp [State.holdCpl]
@[simp] theorem State.holdCpl_st {q tag : Nat} {h : HeldCpl} : (s.holdCpl q tag h).st = s.st := by simp [State.holdCpl]
@[simp] theorem State.holdCpl_staged {q tag : Nat} {h : HeldCpl} : (s.holdCpl q tag h).staged = s.staged := by simp [State.holdCpl]
@[simp] theorem State.holdCpl_jr {q tag : Nat} {h : HeldCpl} : (s.holdCpl q tag h).jr = s.jr := by simp [State.holdCpl]
@[simp] theorem State.holdCpl_links {q tag : Nat} {h : HeldCpl} : (s.holdCpl q tag h).links = s.links := by simp [State.holdCpl]
@[simp] theorem State.holdCpl_levels {q tag : Nat} {h : HeldCpl} : (s.holdCpl q tag h).levels = s.levels := by simp [State.holdCpl]
@[simp] theorem State.holdCpl_levelDir {q tag : Nat} {h : HeldCpl} : (s.holdCpl q tag h).levelDir = s.levelDir := by simp [State.holdCpl]
@[simp] theorem State.holdCpl_pilotAge {q tag : Nat} {h : HeldCpl} : (s.holdCpl q tag h).pilotAge = s.pilotAge := by simp [State.holdCpl]
@[simp] theorem State.holdCpl_tiles {q tag : Nat} {h : HeldCpl} : (s.holdCpl q tag h).tiles = s.tiles := by simp [State.holdCpl]
@[simp] theorem State.holdCpl_ld {q tag : Nat} {h : HeldCpl} : (s.holdCpl q tag h).ld = s.ld := by simp [State.holdCpl]
@[simp] theorem State.holdCpl_keys {q tag : Nat} {h : HeldCpl} : (s.holdCpl q tag h).keys = s.keys := by simp [State.holdCpl]
@[simp] theorem State.holdCpl_cam {q tag : Nat} {h : HeldCpl} : (s.holdCpl q tag h).cam = s.cam := by simp [State.holdCpl]
@[simp] theorem State.holdCpl_dram {q tag : Nat} {h : HeldCpl} : (s.holdCpl q tag h).dram = s.dram := by simp [State.holdCpl]
@[simp] theorem State.holdCpl_intTgt {q tag : Nat} {h : HeldCpl} : (s.holdCpl q tag h).intTgt = s.intTgt := by simp [State.holdCpl]
@[simp] theorem State.holdCpl_intLock {q tag : Nat} {h : HeldCpl} : (s.holdCpl q tag h).intLock = s.intLock := by simp [State.holdCpl]
@[simp] theorem State.holdCpl_stewInt {q tag : Nat} {h : HeldCpl} : (s.holdCpl q tag h).stewInt = s.stewInt := by simp [State.holdCpl]
@[simp] theorem State.holdCpl_health {q tag : Nat} {h : HeldCpl} : (s.holdCpl q tag h).health = s.health := by simp [State.holdCpl]
@[simp] theorem State.holdCpl_dict {q tag : Nat} {h : HeldCpl} : (s.holdCpl q tag h).dict = s.dict := by simp [State.holdCpl]
@[simp] theorem State.holdCpl_stew {q tag : Nat} {h : HeldCpl} : (s.holdCpl q tag h).stew = s.stew := by simp [State.holdCpl]
@[simp] theorem State.holdCpl_out {q tag : Nat} {h : HeldCpl} : (s.holdCpl q tag h).out = s.out := by simp [State.holdCpl]
@[simp] theorem State.holdCpl_free {q tag : Nat} {h : HeldCpl} : (s.holdCpl q tag h).free = s.free := by simp [State.holdCpl]
@[simp] theorem State.holdCpl_pending {q tag : Nat} {h : HeldCpl} : (s.holdCpl q tag h).pending = s.pending := by simp [State.holdCpl]

/-! ### A freeze by CQ_WRITE_FAULT (R41) -/

@[simp] theorem State.freezeWrite_now {q : Nat} {tag slot : BitVec 5} {e : BitVec 512} : (s.freezeWrite q tag slot e).now = s.now := by simp [State.freezeWrite]
@[simp] theorem State.freezeWrite_st {q : Nat} {tag slot : BitVec 5} {e : BitVec 512} : (s.freezeWrite q tag slot e).st = s.st := by simp [State.freezeWrite]
@[simp] theorem State.freezeWrite_staged {q : Nat} {tag slot : BitVec 5} {e : BitVec 512} : (s.freezeWrite q tag slot e).staged = s.staged := by simp [State.freezeWrite]
@[simp] theorem State.freezeWrite_jr {q : Nat} {tag slot : BitVec 5} {e : BitVec 512} : (s.freezeWrite q tag slot e).jr = s.jr := by simp [State.freezeWrite]
@[simp] theorem State.freezeWrite_links {q : Nat} {tag slot : BitVec 5} {e : BitVec 512} : (s.freezeWrite q tag slot e).links = s.links := by simp [State.freezeWrite]
@[simp] theorem State.freezeWrite_levels {q : Nat} {tag slot : BitVec 5} {e : BitVec 512} : (s.freezeWrite q tag slot e).levels = s.levels := by simp [State.freezeWrite]
@[simp] theorem State.freezeWrite_levelDir {q : Nat} {tag slot : BitVec 5} {e : BitVec 512} : (s.freezeWrite q tag slot e).levelDir = s.levelDir := by simp [State.freezeWrite]
@[simp] theorem State.freezeWrite_pilotAge {q : Nat} {tag slot : BitVec 5} {e : BitVec 512} : (s.freezeWrite q tag slot e).pilotAge = s.pilotAge := by simp [State.freezeWrite]
@[simp] theorem State.freezeWrite_tiles {q : Nat} {tag slot : BitVec 5} {e : BitVec 512} : (s.freezeWrite q tag slot e).tiles = s.tiles := by simp [State.freezeWrite]
@[simp] theorem State.freezeWrite_ld {q : Nat} {tag slot : BitVec 5} {e : BitVec 512} : (s.freezeWrite q tag slot e).ld = s.ld := by simp [State.freezeWrite]
@[simp] theorem State.freezeWrite_keys {q : Nat} {tag slot : BitVec 5} {e : BitVec 512} : (s.freezeWrite q tag slot e).keys = s.keys := by simp [State.freezeWrite]
@[simp] theorem State.freezeWrite_cam {q : Nat} {tag slot : BitVec 5} {e : BitVec 512} : (s.freezeWrite q tag slot e).cam = s.cam := by simp [State.freezeWrite]
@[simp] theorem State.freezeWrite_dram {q : Nat} {tag slot : BitVec 5} {e : BitVec 512} : (s.freezeWrite q tag slot e).dram = s.dram := by simp [State.freezeWrite]
@[simp] theorem State.freezeWrite_intTgt {q : Nat} {tag slot : BitVec 5} {e : BitVec 512} : (s.freezeWrite q tag slot e).intTgt = s.intTgt := by simp [State.freezeWrite]
@[simp] theorem State.freezeWrite_intLock {q : Nat} {tag slot : BitVec 5} {e : BitVec 512} : (s.freezeWrite q tag slot e).intLock = s.intLock := by simp [State.freezeWrite]
@[simp] theorem State.freezeWrite_stewInt {q : Nat} {tag slot : BitVec 5} {e : BitVec 512} : (s.freezeWrite q tag slot e).stewInt = s.stewInt := by simp [State.freezeWrite]
@[simp] theorem State.freezeWrite_health {q : Nat} {tag slot : BitVec 5} {e : BitVec 512} : (s.freezeWrite q tag slot e).health = s.health := by simp [State.freezeWrite]
@[simp] theorem State.freezeWrite_dict {q : Nat} {tag slot : BitVec 5} {e : BitVec 512} : (s.freezeWrite q tag slot e).dict = s.dict := by simp [State.freezeWrite]
@[simp] theorem State.freezeWrite_stew {q : Nat} {tag slot : BitVec 5} {e : BitVec 512} : (s.freezeWrite q tag slot e).stew = s.stew := by simp [State.freezeWrite]
@[simp] theorem State.freezeWrite_pw {q : Nat} {tag slot : BitVec 5} {e : BitVec 512} : (s.freezeWrite q tag slot e).pw = s.pw := by simp [State.freezeWrite]
@[simp] theorem State.freezeWrite_out {q : Nat} {tag slot : BitVec 5} {e : BitVec 512} : (s.freezeWrite q tag slot e).out = s.out := by simp [State.freezeWrite]
@[simp] theorem State.freezeWrite_free {q : Nat} {tag slot : BitVec 5} {e : BitVec 512} : (s.freezeWrite q tag slot e).free = s.free := by simp [State.freezeWrite]
@[simp] theorem State.freezeWrite_pending {q : Nat} {tag slot : BitVec 5} {e : BitVec 512} : (s.freezeWrite q tag slot e).pending = s.pending := by simp [State.freezeWrite]

/-! ### A completion of the command itself (R31, R38, R41) -/

@[simp] theorem State.postRaw_now {ok : Bool} {q tag : Nat} {cls : CplClass} {code : Code} {result : DWord} {slack failing : Bool} : (s.postRaw ok q tag cls code result slack failing).now = s.now := by unfold State.postRaw; dsimp only; (repeat' split) <;> simp
@[simp] theorem State.postRaw_st {ok : Bool} {q tag : Nat} {cls : CplClass} {code : Code} {result : DWord} {slack failing : Bool} : (s.postRaw ok q tag cls code result slack failing).st = s.st := by unfold State.postRaw; dsimp only; (repeat' split) <;> simp
@[simp] theorem State.postRaw_staged {ok : Bool} {q tag : Nat} {cls : CplClass} {code : Code} {result : DWord} {slack failing : Bool} : (s.postRaw ok q tag cls code result slack failing).staged = s.staged := by unfold State.postRaw; dsimp only; (repeat' split) <;> simp
@[simp] theorem State.postRaw_jr {ok : Bool} {q tag : Nat} {cls : CplClass} {code : Code} {result : DWord} {slack failing : Bool} : (s.postRaw ok q tag cls code result slack failing).jr = s.jr := by unfold State.postRaw; dsimp only; (repeat' split) <;> simp
@[simp] theorem State.postRaw_links {ok : Bool} {q tag : Nat} {cls : CplClass} {code : Code} {result : DWord} {slack failing : Bool} : (s.postRaw ok q tag cls code result slack failing).links = s.links := by unfold State.postRaw; dsimp only; (repeat' split) <;> simp
@[simp] theorem State.postRaw_levels {ok : Bool} {q tag : Nat} {cls : CplClass} {code : Code} {result : DWord} {slack failing : Bool} : (s.postRaw ok q tag cls code result slack failing).levels = s.levels := by unfold State.postRaw; dsimp only; (repeat' split) <;> simp
@[simp] theorem State.postRaw_levelDir {ok : Bool} {q tag : Nat} {cls : CplClass} {code : Code} {result : DWord} {slack failing : Bool} : (s.postRaw ok q tag cls code result slack failing).levelDir = s.levelDir := by unfold State.postRaw; dsimp only; (repeat' split) <;> simp
@[simp] theorem State.postRaw_pilotAge {ok : Bool} {q tag : Nat} {cls : CplClass} {code : Code} {result : DWord} {slack failing : Bool} : (s.postRaw ok q tag cls code result slack failing).pilotAge = s.pilotAge := by unfold State.postRaw; dsimp only; (repeat' split) <;> simp
@[simp] theorem State.postRaw_tiles {ok : Bool} {q tag : Nat} {cls : CplClass} {code : Code} {result : DWord} {slack failing : Bool} : (s.postRaw ok q tag cls code result slack failing).tiles = s.tiles := by unfold State.postRaw; dsimp only; (repeat' split) <;> simp
@[simp] theorem State.postRaw_ld {ok : Bool} {q tag : Nat} {cls : CplClass} {code : Code} {result : DWord} {slack failing : Bool} : (s.postRaw ok q tag cls code result slack failing).ld = s.ld := by unfold State.postRaw; dsimp only; (repeat' split) <;> simp
@[simp] theorem State.postRaw_keys {ok : Bool} {q tag : Nat} {cls : CplClass} {code : Code} {result : DWord} {slack failing : Bool} : (s.postRaw ok q tag cls code result slack failing).keys = s.keys := by unfold State.postRaw; dsimp only; (repeat' split) <;> simp
@[simp] theorem State.postRaw_cam {ok : Bool} {q tag : Nat} {cls : CplClass} {code : Code} {result : DWord} {slack failing : Bool} : (s.postRaw ok q tag cls code result slack failing).cam = s.cam := by unfold State.postRaw; dsimp only; (repeat' split) <;> simp
@[simp] theorem State.postRaw_dram {ok : Bool} {q tag : Nat} {cls : CplClass} {code : Code} {result : DWord} {slack failing : Bool} : (s.postRaw ok q tag cls code result slack failing).dram = s.dram := by unfold State.postRaw; dsimp only; (repeat' split) <;> simp
@[simp] theorem State.postRaw_intTgt {ok : Bool} {q tag : Nat} {cls : CplClass} {code : Code} {result : DWord} {slack failing : Bool} : (s.postRaw ok q tag cls code result slack failing).intTgt = s.intTgt := by unfold State.postRaw; dsimp only; (repeat' split) <;> simp
@[simp] theorem State.postRaw_intLock {ok : Bool} {q tag : Nat} {cls : CplClass} {code : Code} {result : DWord} {slack failing : Bool} : (s.postRaw ok q tag cls code result slack failing).intLock = s.intLock := by unfold State.postRaw; dsimp only; (repeat' split) <;> simp
@[simp] theorem State.postRaw_stewInt {ok : Bool} {q tag : Nat} {cls : CplClass} {code : Code} {result : DWord} {slack failing : Bool} : (s.postRaw ok q tag cls code result slack failing).stewInt = s.stewInt := by unfold State.postRaw; dsimp only; (repeat' split) <;> simp
@[simp] theorem State.postRaw_health {ok : Bool} {q tag : Nat} {cls : CplClass} {code : Code} {result : DWord} {slack failing : Bool} : (s.postRaw ok q tag cls code result slack failing).health = s.health := by unfold State.postRaw; dsimp only; (repeat' split) <;> simp
@[simp] theorem State.postRaw_dict {ok : Bool} {q tag : Nat} {cls : CplClass} {code : Code} {result : DWord} {slack failing : Bool} : (s.postRaw ok q tag cls code result slack failing).dict = s.dict := by unfold State.postRaw; dsimp only; (repeat' split) <;> simp
@[simp] theorem State.postRaw_stew {ok : Bool} {q tag : Nat} {cls : CplClass} {code : Code} {result : DWord} {slack failing : Bool} : (s.postRaw ok q tag cls code result slack failing).stew = s.stew := by unfold State.postRaw; dsimp only; (repeat' split) <;> simp
@[simp] theorem State.postRaw_free {ok : Bool} {q tag : Nat} {cls : CplClass} {code : Code} {result : DWord} {slack failing : Bool} : (s.postRaw ok q tag cls code result slack failing).free = s.free := by unfold State.postRaw; dsimp only; (repeat' split) <;> simp
@[simp] theorem State.postRaw_pending {ok : Bool} {q tag : Nat} {cls : CplClass} {code : Code} {result : DWord} {slack failing : Bool} : (s.postRaw ok q tag cls code result slack failing).pending = s.pending := by unfold State.postRaw; dsimp only; (repeat' split) <;> simp

/-! ### Unstarted commands end -/

@[simp] theorem State.abortUnstarted_now {q : Nat} {code : Code} : (s.abortUnstarted q code).now = s.now := foldS_proj (g := State.now) (fun _ _ => State.postRaw_now)
@[simp] theorem State.abortUnstarted_st {q : Nat} {code : Code} : (s.abortUnstarted q code).st = s.st := foldS_proj (g := State.st) (fun _ _ => State.postRaw_st)
@[simp] theorem State.abortUnstarted_staged {q : Nat} {code : Code} : (s.abortUnstarted q code).staged = s.staged := foldS_proj (g := State.staged) (fun _ _ => State.postRaw_staged)
@[simp] theorem State.abortUnstarted_jr {q : Nat} {code : Code} : (s.abortUnstarted q code).jr = s.jr := foldS_proj (g := State.jr) (fun _ _ => State.postRaw_jr)
@[simp] theorem State.abortUnstarted_links {q : Nat} {code : Code} : (s.abortUnstarted q code).links = s.links := foldS_proj (g := State.links) (fun _ _ => State.postRaw_links)
@[simp] theorem State.abortUnstarted_levels {q : Nat} {code : Code} : (s.abortUnstarted q code).levels = s.levels := foldS_proj (g := State.levels) (fun _ _ => State.postRaw_levels)
@[simp] theorem State.abortUnstarted_levelDir {q : Nat} {code : Code} : (s.abortUnstarted q code).levelDir = s.levelDir := foldS_proj (g := State.levelDir) (fun _ _ => State.postRaw_levelDir)
@[simp] theorem State.abortUnstarted_pilotAge {q : Nat} {code : Code} : (s.abortUnstarted q code).pilotAge = s.pilotAge := foldS_proj (g := State.pilotAge) (fun _ _ => State.postRaw_pilotAge)
@[simp] theorem State.abortUnstarted_tiles {q : Nat} {code : Code} : (s.abortUnstarted q code).tiles = s.tiles := foldS_proj (g := State.tiles) (fun _ _ => State.postRaw_tiles)
@[simp] theorem State.abortUnstarted_ld {q : Nat} {code : Code} : (s.abortUnstarted q code).ld = s.ld := foldS_proj (g := State.ld) (fun _ _ => State.postRaw_ld)
@[simp] theorem State.abortUnstarted_keys {q : Nat} {code : Code} : (s.abortUnstarted q code).keys = s.keys := foldS_proj (g := State.keys) (fun _ _ => State.postRaw_keys)
@[simp] theorem State.abortUnstarted_cam {q : Nat} {code : Code} : (s.abortUnstarted q code).cam = s.cam := foldS_proj (g := State.cam) (fun _ _ => State.postRaw_cam)
@[simp] theorem State.abortUnstarted_dram {q : Nat} {code : Code} : (s.abortUnstarted q code).dram = s.dram := foldS_proj (g := State.dram) (fun _ _ => State.postRaw_dram)
@[simp] theorem State.abortUnstarted_intTgt {q : Nat} {code : Code} : (s.abortUnstarted q code).intTgt = s.intTgt := foldS_proj (g := State.intTgt) (fun _ _ => State.postRaw_intTgt)
@[simp] theorem State.abortUnstarted_intLock {q : Nat} {code : Code} : (s.abortUnstarted q code).intLock = s.intLock := foldS_proj (g := State.intLock) (fun _ _ => State.postRaw_intLock)
@[simp] theorem State.abortUnstarted_stewInt {q : Nat} {code : Code} : (s.abortUnstarted q code).stewInt = s.stewInt := foldS_proj (g := State.stewInt) (fun _ _ => State.postRaw_stewInt)
@[simp] theorem State.abortUnstarted_health {q : Nat} {code : Code} : (s.abortUnstarted q code).health = s.health := foldS_proj (g := State.health) (fun _ _ => State.postRaw_health)
@[simp] theorem State.abortUnstarted_dict {q : Nat} {code : Code} : (s.abortUnstarted q code).dict = s.dict := foldS_proj (g := State.dict) (fun _ _ => State.postRaw_dict)
@[simp] theorem State.abortUnstarted_stew {q : Nat} {code : Code} : (s.abortUnstarted q code).stew = s.stew := foldS_proj (g := State.stew) (fun _ _ => State.postRaw_stew)
@[simp] theorem State.abortUnstarted_free {q : Nat} {code : Code} : (s.abortUnstarted q code).free = s.free := foldS_proj (g := State.free) (fun _ _ => State.postRaw_free)
@[simp] theorem State.abortUnstarted_pending {q : Nat} {code : Code} : (s.abortUnstarted q code).pending = s.pending := foldS_proj (g := State.pending) (fun _ _ => State.postRaw_pending)

/-! ### Unstarted commands end with a freeze (R39) -/

@[simp] theorem State.frozenNow_now {u : State} {q : Nat} : (s.frozenNow u q).now = u.now := by unfold State.frozenNow; split <;> simp
@[simp] theorem State.frozenNow_st {u : State} {q : Nat} : (s.frozenNow u q).st = u.st := by unfold State.frozenNow; split <;> simp
@[simp] theorem State.frozenNow_staged {u : State} {q : Nat} : (s.frozenNow u q).staged = u.staged := by unfold State.frozenNow; split <;> simp
@[simp] theorem State.frozenNow_jr {u : State} {q : Nat} : (s.frozenNow u q).jr = u.jr := by unfold State.frozenNow; split <;> simp
@[simp] theorem State.frozenNow_links {u : State} {q : Nat} : (s.frozenNow u q).links = u.links := by unfold State.frozenNow; split <;> simp
@[simp] theorem State.frozenNow_levels {u : State} {q : Nat} : (s.frozenNow u q).levels = u.levels := by unfold State.frozenNow; split <;> simp
@[simp] theorem State.frozenNow_levelDir {u : State} {q : Nat} : (s.frozenNow u q).levelDir = u.levelDir := by unfold State.frozenNow; split <;> simp
@[simp] theorem State.frozenNow_pilotAge {u : State} {q : Nat} : (s.frozenNow u q).pilotAge = u.pilotAge := by unfold State.frozenNow; split <;> simp
@[simp] theorem State.frozenNow_tiles {u : State} {q : Nat} : (s.frozenNow u q).tiles = u.tiles := by unfold State.frozenNow; split <;> simp
@[simp] theorem State.frozenNow_ld {u : State} {q : Nat} : (s.frozenNow u q).ld = u.ld := by unfold State.frozenNow; split <;> simp
@[simp] theorem State.frozenNow_keys {u : State} {q : Nat} : (s.frozenNow u q).keys = u.keys := by unfold State.frozenNow; split <;> simp
@[simp] theorem State.frozenNow_cam {u : State} {q : Nat} : (s.frozenNow u q).cam = u.cam := by unfold State.frozenNow; split <;> simp
@[simp] theorem State.frozenNow_dram {u : State} {q : Nat} : (s.frozenNow u q).dram = u.dram := by unfold State.frozenNow; split <;> simp
@[simp] theorem State.frozenNow_intTgt {u : State} {q : Nat} : (s.frozenNow u q).intTgt = u.intTgt := by unfold State.frozenNow; split <;> simp
@[simp] theorem State.frozenNow_intLock {u : State} {q : Nat} : (s.frozenNow u q).intLock = u.intLock := by unfold State.frozenNow; split <;> simp
@[simp] theorem State.frozenNow_stewInt {u : State} {q : Nat} : (s.frozenNow u q).stewInt = u.stewInt := by unfold State.frozenNow; split <;> simp
@[simp] theorem State.frozenNow_health {u : State} {q : Nat} : (s.frozenNow u q).health = u.health := by unfold State.frozenNow; split <;> simp
@[simp] theorem State.frozenNow_dict {u : State} {q : Nat} : (s.frozenNow u q).dict = u.dict := by unfold State.frozenNow; split <;> simp
@[simp] theorem State.frozenNow_stew {u : State} {q : Nat} : (s.frozenNow u q).stew = u.stew := by unfold State.frozenNow; split <;> simp
@[simp] theorem State.frozenNow_free {u : State} {q : Nat} : (s.frozenNow u q).free = u.free := by unfold State.frozenNow; split <;> simp
@[simp] theorem State.frozenNow_pending {u : State} {q : Nat} : (s.frozenNow u q).pending = u.pending := by unfold State.frozenNow; split <;> simp

/-! ### A completion (R31, R38, R39, R41) -/

@[simp] theorem State.post_now {ok : Bool} {q tag : Nat} {cls : CplClass} {code : Code} {result : DWord} {slack failing : Bool} : (s.post ok q tag cls code result slack failing).now = s.now := by simp [State.post]
@[simp] theorem State.post_st {ok : Bool} {q tag : Nat} {cls : CplClass} {code : Code} {result : DWord} {slack failing : Bool} : (s.post ok q tag cls code result slack failing).st = s.st := by simp [State.post]
@[simp] theorem State.post_staged {ok : Bool} {q tag : Nat} {cls : CplClass} {code : Code} {result : DWord} {slack failing : Bool} : (s.post ok q tag cls code result slack failing).staged = s.staged := by simp [State.post]
@[simp] theorem State.post_jr {ok : Bool} {q tag : Nat} {cls : CplClass} {code : Code} {result : DWord} {slack failing : Bool} : (s.post ok q tag cls code result slack failing).jr = s.jr := by simp [State.post]
@[simp] theorem State.post_links {ok : Bool} {q tag : Nat} {cls : CplClass} {code : Code} {result : DWord} {slack failing : Bool} : (s.post ok q tag cls code result slack failing).links = s.links := by simp [State.post]
@[simp] theorem State.post_levels {ok : Bool} {q tag : Nat} {cls : CplClass} {code : Code} {result : DWord} {slack failing : Bool} : (s.post ok q tag cls code result slack failing).levels = s.levels := by simp [State.post]
@[simp] theorem State.post_levelDir {ok : Bool} {q tag : Nat} {cls : CplClass} {code : Code} {result : DWord} {slack failing : Bool} : (s.post ok q tag cls code result slack failing).levelDir = s.levelDir := by simp [State.post]
@[simp] theorem State.post_pilotAge {ok : Bool} {q tag : Nat} {cls : CplClass} {code : Code} {result : DWord} {slack failing : Bool} : (s.post ok q tag cls code result slack failing).pilotAge = s.pilotAge := by simp [State.post]
@[simp] theorem State.post_tiles {ok : Bool} {q tag : Nat} {cls : CplClass} {code : Code} {result : DWord} {slack failing : Bool} : (s.post ok q tag cls code result slack failing).tiles = s.tiles := by simp [State.post]
@[simp] theorem State.post_ld {ok : Bool} {q tag : Nat} {cls : CplClass} {code : Code} {result : DWord} {slack failing : Bool} : (s.post ok q tag cls code result slack failing).ld = s.ld := by simp [State.post]
@[simp] theorem State.post_keys {ok : Bool} {q tag : Nat} {cls : CplClass} {code : Code} {result : DWord} {slack failing : Bool} : (s.post ok q tag cls code result slack failing).keys = s.keys := by simp [State.post]
@[simp] theorem State.post_cam {ok : Bool} {q tag : Nat} {cls : CplClass} {code : Code} {result : DWord} {slack failing : Bool} : (s.post ok q tag cls code result slack failing).cam = s.cam := by simp [State.post]
@[simp] theorem State.post_dram {ok : Bool} {q tag : Nat} {cls : CplClass} {code : Code} {result : DWord} {slack failing : Bool} : (s.post ok q tag cls code result slack failing).dram = s.dram := by simp [State.post]
@[simp] theorem State.post_intTgt {ok : Bool} {q tag : Nat} {cls : CplClass} {code : Code} {result : DWord} {slack failing : Bool} : (s.post ok q tag cls code result slack failing).intTgt = s.intTgt := by simp [State.post]
@[simp] theorem State.post_intLock {ok : Bool} {q tag : Nat} {cls : CplClass} {code : Code} {result : DWord} {slack failing : Bool} : (s.post ok q tag cls code result slack failing).intLock = s.intLock := by simp [State.post]
@[simp] theorem State.post_stewInt {ok : Bool} {q tag : Nat} {cls : CplClass} {code : Code} {result : DWord} {slack failing : Bool} : (s.post ok q tag cls code result slack failing).stewInt = s.stewInt := by simp [State.post]
@[simp] theorem State.post_health {ok : Bool} {q tag : Nat} {cls : CplClass} {code : Code} {result : DWord} {slack failing : Bool} : (s.post ok q tag cls code result slack failing).health = s.health := by simp [State.post]
@[simp] theorem State.post_dict {ok : Bool} {q tag : Nat} {cls : CplClass} {code : Code} {result : DWord} {slack failing : Bool} : (s.post ok q tag cls code result slack failing).dict = s.dict := by simp [State.post]
@[simp] theorem State.post_stew {ok : Bool} {q tag : Nat} {cls : CplClass} {code : Code} {result : DWord} {slack failing : Bool} : (s.post ok q tag cls code result slack failing).stew = s.stew := by simp [State.post]
@[simp] theorem State.post_free {ok : Bool} {q tag : Nat} {cls : CplClass} {code : Code} {result : DWord} {slack failing : Bool} : (s.post ok q tag cls code result slack failing).free = s.free := by simp [State.post]
@[simp] theorem State.post_pending {ok : Bool} {q tag : Nat} {cls : CplClass} {code : Code} {result : DWord} {slack failing : Bool} : (s.post ok q tag cls code result slack failing).pending = s.pending := by simp [State.post]

/-! ### Success -/

@[simp] theorem State.succeed_now {q tag : Nat} {code : Code} {result : DWord} : (s.succeed q tag code result).now = s.now := by simp [State.succeed]
@[simp] theorem State.succeed_st {q tag : Nat} {code : Code} {result : DWord} : (s.succeed q tag code result).st = s.st := by simp [State.succeed]
@[simp] theorem State.succeed_staged {q tag : Nat} {code : Code} {result : DWord} : (s.succeed q tag code result).staged = s.staged := by simp [State.succeed]
@[simp] theorem State.succeed_jr {q tag : Nat} {code : Code} {result : DWord} : (s.succeed q tag code result).jr = s.jr := by simp [State.succeed]
@[simp] theorem State.succeed_links {q tag : Nat} {code : Code} {result : DWord} : (s.succeed q tag code result).links = s.links := by simp [State.succeed]
@[simp] theorem State.succeed_levels {q tag : Nat} {code : Code} {result : DWord} : (s.succeed q tag code result).levels = s.levels := by simp [State.succeed]
@[simp] theorem State.succeed_levelDir {q tag : Nat} {code : Code} {result : DWord} : (s.succeed q tag code result).levelDir = s.levelDir := by simp [State.succeed]
@[simp] theorem State.succeed_pilotAge {q tag : Nat} {code : Code} {result : DWord} : (s.succeed q tag code result).pilotAge = s.pilotAge := by simp [State.succeed]
@[simp] theorem State.succeed_tiles {q tag : Nat} {code : Code} {result : DWord} : (s.succeed q tag code result).tiles = s.tiles := by simp [State.succeed]
@[simp] theorem State.succeed_ld {q tag : Nat} {code : Code} {result : DWord} : (s.succeed q tag code result).ld = s.ld := by simp [State.succeed]
@[simp] theorem State.succeed_keys {q tag : Nat} {code : Code} {result : DWord} : (s.succeed q tag code result).keys = s.keys := by simp [State.succeed]
@[simp] theorem State.succeed_cam {q tag : Nat} {code : Code} {result : DWord} : (s.succeed q tag code result).cam = s.cam := by simp [State.succeed]
@[simp] theorem State.succeed_dram {q tag : Nat} {code : Code} {result : DWord} : (s.succeed q tag code result).dram = s.dram := by simp [State.succeed]
@[simp] theorem State.succeed_intTgt {q tag : Nat} {code : Code} {result : DWord} : (s.succeed q tag code result).intTgt = s.intTgt := by simp [State.succeed]
@[simp] theorem State.succeed_intLock {q tag : Nat} {code : Code} {result : DWord} : (s.succeed q tag code result).intLock = s.intLock := by simp [State.succeed]
@[simp] theorem State.succeed_stewInt {q tag : Nat} {code : Code} {result : DWord} : (s.succeed q tag code result).stewInt = s.stewInt := by simp [State.succeed]
@[simp] theorem State.succeed_health {q tag : Nat} {code : Code} {result : DWord} : (s.succeed q tag code result).health = s.health := by simp [State.succeed]
@[simp] theorem State.succeed_dict {q tag : Nat} {code : Code} {result : DWord} : (s.succeed q tag code result).dict = s.dict := by simp [State.succeed]
@[simp] theorem State.succeed_stew {q tag : Nat} {code : Code} {result : DWord} : (s.succeed q tag code result).stew = s.stew := by simp [State.succeed]
@[simp] theorem State.succeed_free {q tag : Nat} {code : Code} {result : DWord} : (s.succeed q tag code result).free = s.free := by simp [State.succeed]
@[simp] theorem State.succeed_pending {q tag : Nat} {code : Code} {result : DWord} : (s.succeed q tag code result).pending = s.pending := by simp [State.succeed]

/-! ### Refusal -/

@[simp] theorem State.refuse_now {q tag : Nat} {code : Code} : (s.refuse q tag code).now = s.now := by simp [State.refuse]
@[simp] theorem State.refuse_st {q tag : Nat} {code : Code} : (s.refuse q tag code).st = s.st := by simp [State.refuse]
@[simp] theorem State.refuse_staged {q tag : Nat} {code : Code} : (s.refuse q tag code).staged = s.staged := by simp [State.refuse]
@[simp] theorem State.refuse_jr {q tag : Nat} {code : Code} : (s.refuse q tag code).jr = s.jr := by simp [State.refuse]
@[simp] theorem State.refuse_links {q tag : Nat} {code : Code} : (s.refuse q tag code).links = s.links := by simp [State.refuse]
@[simp] theorem State.refuse_levels {q tag : Nat} {code : Code} : (s.refuse q tag code).levels = s.levels := by simp [State.refuse]
@[simp] theorem State.refuse_levelDir {q tag : Nat} {code : Code} : (s.refuse q tag code).levelDir = s.levelDir := by simp [State.refuse]
@[simp] theorem State.refuse_pilotAge {q tag : Nat} {code : Code} : (s.refuse q tag code).pilotAge = s.pilotAge := by simp [State.refuse]
@[simp] theorem State.refuse_tiles {q tag : Nat} {code : Code} : (s.refuse q tag code).tiles = s.tiles := by simp [State.refuse]
@[simp] theorem State.refuse_ld {q tag : Nat} {code : Code} : (s.refuse q tag code).ld = s.ld := by simp [State.refuse]
@[simp] theorem State.refuse_keys {q tag : Nat} {code : Code} : (s.refuse q tag code).keys = s.keys := by simp [State.refuse]
@[simp] theorem State.refuse_cam {q tag : Nat} {code : Code} : (s.refuse q tag code).cam = s.cam := by simp [State.refuse]
@[simp] theorem State.refuse_dram {q tag : Nat} {code : Code} : (s.refuse q tag code).dram = s.dram := by simp [State.refuse]
@[simp] theorem State.refuse_intTgt {q tag : Nat} {code : Code} : (s.refuse q tag code).intTgt = s.intTgt := by simp [State.refuse]
@[simp] theorem State.refuse_intLock {q tag : Nat} {code : Code} : (s.refuse q tag code).intLock = s.intLock := by simp [State.refuse]
@[simp] theorem State.refuse_stewInt {q tag : Nat} {code : Code} : (s.refuse q tag code).stewInt = s.stewInt := by simp [State.refuse]
@[simp] theorem State.refuse_health {q tag : Nat} {code : Code} : (s.refuse q tag code).health = s.health := by simp [State.refuse]
@[simp] theorem State.refuse_dict {q tag : Nat} {code : Code} : (s.refuse q tag code).dict = s.dict := by simp [State.refuse]
@[simp] theorem State.refuse_stew {q tag : Nat} {code : Code} : (s.refuse q tag code).stew = s.stew := by simp [State.refuse]
@[simp] theorem State.refuse_free {q tag : Nat} {code : Code} : (s.refuse q tag code).free = s.free := by simp [State.refuse]
@[simp] theorem State.refuse_pending {q tag : Nat} {code : Code} : (s.refuse q tag code).pending = s.pending := by simp [State.refuse]

/-! ### Abort -/

@[simp] theorem State.abortOp_now {q tag : Nat} {code : Code} {result : DWord} : (s.abortOp q tag code result).now = s.now := by simp [State.abortOp]
@[simp] theorem State.abortOp_st {q tag : Nat} {code : Code} {result : DWord} : (s.abortOp q tag code result).st = s.st := by simp [State.abortOp]
@[simp] theorem State.abortOp_staged {q tag : Nat} {code : Code} {result : DWord} : (s.abortOp q tag code result).staged = s.staged := by simp [State.abortOp]
@[simp] theorem State.abortOp_jr {q tag : Nat} {code : Code} {result : DWord} : (s.abortOp q tag code result).jr = s.jr := by simp [State.abortOp]
@[simp] theorem State.abortOp_links {q tag : Nat} {code : Code} {result : DWord} : (s.abortOp q tag code result).links = s.links := by simp [State.abortOp]
@[simp] theorem State.abortOp_levels {q tag : Nat} {code : Code} {result : DWord} : (s.abortOp q tag code result).levels = s.levels := by simp [State.abortOp]
@[simp] theorem State.abortOp_levelDir {q tag : Nat} {code : Code} {result : DWord} : (s.abortOp q tag code result).levelDir = s.levelDir := by simp [State.abortOp]
@[simp] theorem State.abortOp_pilotAge {q tag : Nat} {code : Code} {result : DWord} : (s.abortOp q tag code result).pilotAge = s.pilotAge := by simp [State.abortOp]
@[simp] theorem State.abortOp_tiles {q tag : Nat} {code : Code} {result : DWord} : (s.abortOp q tag code result).tiles = s.tiles := by simp [State.abortOp]
@[simp] theorem State.abortOp_ld {q tag : Nat} {code : Code} {result : DWord} : (s.abortOp q tag code result).ld = s.ld := by simp [State.abortOp]
@[simp] theorem State.abortOp_keys {q tag : Nat} {code : Code} {result : DWord} : (s.abortOp q tag code result).keys = s.keys := by simp [State.abortOp]
@[simp] theorem State.abortOp_cam {q tag : Nat} {code : Code} {result : DWord} : (s.abortOp q tag code result).cam = s.cam := by simp [State.abortOp]
@[simp] theorem State.abortOp_dram {q tag : Nat} {code : Code} {result : DWord} : (s.abortOp q tag code result).dram = s.dram := by simp [State.abortOp]
@[simp] theorem State.abortOp_intTgt {q tag : Nat} {code : Code} {result : DWord} : (s.abortOp q tag code result).intTgt = s.intTgt := by simp [State.abortOp]
@[simp] theorem State.abortOp_intLock {q tag : Nat} {code : Code} {result : DWord} : (s.abortOp q tag code result).intLock = s.intLock := by simp [State.abortOp]
@[simp] theorem State.abortOp_stewInt {q tag : Nat} {code : Code} {result : DWord} : (s.abortOp q tag code result).stewInt = s.stewInt := by simp [State.abortOp]
@[simp] theorem State.abortOp_health {q tag : Nat} {code : Code} {result : DWord} : (s.abortOp q tag code result).health = s.health := by simp [State.abortOp]
@[simp] theorem State.abortOp_dict {q tag : Nat} {code : Code} {result : DWord} : (s.abortOp q tag code result).dict = s.dict := by simp [State.abortOp]
@[simp] theorem State.abortOp_stew {q tag : Nat} {code : Code} {result : DWord} : (s.abortOp q tag code result).stew = s.stew := by simp [State.abortOp]
@[simp] theorem State.abortOp_free {q tag : Nat} {code : Code} {result : DWord} : (s.abortOp q tag code result).free = s.free := by simp [State.abortOp]
@[simp] theorem State.abortOp_pending {q tag : Nat} {code : Code} {result : DWord} : (s.abortOp q tag code result).pending = s.pending := by simp [State.abortOp]

/-! ### Failure (R38, R39) -/

@[simp] theorem State.failIn_now {ok : Bool} {q tag : Nat} {code : Code} {d r : DWord} {l : Word} : (s.failIn ok q tag code d r l).now = s.now := by simp [State.failIn]
@[simp] theorem State.failIn_st {ok : Bool} {q tag : Nat} {code : Code} {d r : DWord} {l : Word} : (s.failIn ok q tag code d r l).st = s.st := by simp [State.failIn]
@[simp] theorem State.failIn_staged {ok : Bool} {q tag : Nat} {code : Code} {d r : DWord} {l : Word} : (s.failIn ok q tag code d r l).staged = s.staged := by simp [State.failIn]
@[simp] theorem State.failIn_jr {ok : Bool} {q tag : Nat} {code : Code} {d r : DWord} {l : Word} : (s.failIn ok q tag code d r l).jr = s.jr := by simp [State.failIn]
@[simp] theorem State.failIn_links {ok : Bool} {q tag : Nat} {code : Code} {d r : DWord} {l : Word} : (s.failIn ok q tag code d r l).links = s.links := by simp [State.failIn]
@[simp] theorem State.failIn_levels {ok : Bool} {q tag : Nat} {code : Code} {d r : DWord} {l : Word} : (s.failIn ok q tag code d r l).levels = s.levels := by simp [State.failIn]
@[simp] theorem State.failIn_levelDir {ok : Bool} {q tag : Nat} {code : Code} {d r : DWord} {l : Word} : (s.failIn ok q tag code d r l).levelDir = s.levelDir := by simp [State.failIn]
@[simp] theorem State.failIn_pilotAge {ok : Bool} {q tag : Nat} {code : Code} {d r : DWord} {l : Word} : (s.failIn ok q tag code d r l).pilotAge = s.pilotAge := by simp [State.failIn]
@[simp] theorem State.failIn_tiles {ok : Bool} {q tag : Nat} {code : Code} {d r : DWord} {l : Word} : (s.failIn ok q tag code d r l).tiles = s.tiles := by simp [State.failIn]
@[simp] theorem State.failIn_ld {ok : Bool} {q tag : Nat} {code : Code} {d r : DWord} {l : Word} : (s.failIn ok q tag code d r l).ld = s.ld := by simp [State.failIn]
@[simp] theorem State.failIn_keys {ok : Bool} {q tag : Nat} {code : Code} {d r : DWord} {l : Word} : (s.failIn ok q tag code d r l).keys = s.keys := by simp [State.failIn]
@[simp] theorem State.failIn_cam {ok : Bool} {q tag : Nat} {code : Code} {d r : DWord} {l : Word} : (s.failIn ok q tag code d r l).cam = s.cam := by simp [State.failIn]
@[simp] theorem State.failIn_dram {ok : Bool} {q tag : Nat} {code : Code} {d r : DWord} {l : Word} : (s.failIn ok q tag code d r l).dram = s.dram := by simp [State.failIn]
@[simp] theorem State.failIn_intTgt {ok : Bool} {q tag : Nat} {code : Code} {d r : DWord} {l : Word} : (s.failIn ok q tag code d r l).intTgt = s.intTgt := by simp [State.failIn]
@[simp] theorem State.failIn_intLock {ok : Bool} {q tag : Nat} {code : Code} {d r : DWord} {l : Word} : (s.failIn ok q tag code d r l).intLock = s.intLock := by simp [State.failIn]
@[simp] theorem State.failIn_stewInt {ok : Bool} {q tag : Nat} {code : Code} {d r : DWord} {l : Word} : (s.failIn ok q tag code d r l).stewInt = s.stewInt := by simp [State.failIn]
@[simp] theorem State.failIn_health {ok : Bool} {q tag : Nat} {code : Code} {d r : DWord} {l : Word} : (s.failIn ok q tag code d r l).health = s.health := by simp [State.failIn]
@[simp] theorem State.failIn_dict {ok : Bool} {q tag : Nat} {code : Code} {d r : DWord} {l : Word} : (s.failIn ok q tag code d r l).dict = s.dict := by simp [State.failIn]
@[simp] theorem State.failIn_stew {ok : Bool} {q tag : Nat} {code : Code} {d r : DWord} {l : Word} : (s.failIn ok q tag code d r l).stew = s.stew := by simp [State.failIn]
@[simp] theorem State.failIn_free {ok : Bool} {q tag : Nat} {code : Code} {d r : DWord} {l : Word} : (s.failIn ok q tag code d r l).free = s.free := by simp [State.failIn]
@[simp] theorem State.failIn_pending {ok : Bool} {q tag : Nat} {code : Code} {d r : DWord} {l : Word} : (s.failIn ok q tag code d r l).pending = s.pending := by simp [State.failIn]

/-! ### Failure on the slab a command names -/

@[simp] theorem State.fail_now {ok : Bool} {q tag : Nat} {code : Code} {d r : DWord} : (s.fail ok q tag code d r).now = s.now := by simp [State.fail]
@[simp] theorem State.fail_st {ok : Bool} {q tag : Nat} {code : Code} {d r : DWord} : (s.fail ok q tag code d r).st = s.st := by simp [State.fail]
@[simp] theorem State.fail_staged {ok : Bool} {q tag : Nat} {code : Code} {d r : DWord} : (s.fail ok q tag code d r).staged = s.staged := by simp [State.fail]
@[simp] theorem State.fail_jr {ok : Bool} {q tag : Nat} {code : Code} {d r : DWord} : (s.fail ok q tag code d r).jr = s.jr := by simp [State.fail]
@[simp] theorem State.fail_links {ok : Bool} {q tag : Nat} {code : Code} {d r : DWord} : (s.fail ok q tag code d r).links = s.links := by simp [State.fail]
@[simp] theorem State.fail_levels {ok : Bool} {q tag : Nat} {code : Code} {d r : DWord} : (s.fail ok q tag code d r).levels = s.levels := by simp [State.fail]
@[simp] theorem State.fail_levelDir {ok : Bool} {q tag : Nat} {code : Code} {d r : DWord} : (s.fail ok q tag code d r).levelDir = s.levelDir := by simp [State.fail]
@[simp] theorem State.fail_pilotAge {ok : Bool} {q tag : Nat} {code : Code} {d r : DWord} : (s.fail ok q tag code d r).pilotAge = s.pilotAge := by simp [State.fail]
@[simp] theorem State.fail_tiles {ok : Bool} {q tag : Nat} {code : Code} {d r : DWord} : (s.fail ok q tag code d r).tiles = s.tiles := by simp [State.fail]
@[simp] theorem State.fail_ld {ok : Bool} {q tag : Nat} {code : Code} {d r : DWord} : (s.fail ok q tag code d r).ld = s.ld := by simp [State.fail]
@[simp] theorem State.fail_keys {ok : Bool} {q tag : Nat} {code : Code} {d r : DWord} : (s.fail ok q tag code d r).keys = s.keys := by simp [State.fail]
@[simp] theorem State.fail_cam {ok : Bool} {q tag : Nat} {code : Code} {d r : DWord} : (s.fail ok q tag code d r).cam = s.cam := by simp [State.fail]
@[simp] theorem State.fail_dram {ok : Bool} {q tag : Nat} {code : Code} {d r : DWord} : (s.fail ok q tag code d r).dram = s.dram := by simp [State.fail]
@[simp] theorem State.fail_intTgt {ok : Bool} {q tag : Nat} {code : Code} {d r : DWord} : (s.fail ok q tag code d r).intTgt = s.intTgt := by simp [State.fail]
@[simp] theorem State.fail_intLock {ok : Bool} {q tag : Nat} {code : Code} {d r : DWord} : (s.fail ok q tag code d r).intLock = s.intLock := by simp [State.fail]
@[simp] theorem State.fail_stewInt {ok : Bool} {q tag : Nat} {code : Code} {d r : DWord} : (s.fail ok q tag code d r).stewInt = s.stewInt := by simp [State.fail]
@[simp] theorem State.fail_health {ok : Bool} {q tag : Nat} {code : Code} {d r : DWord} : (s.fail ok q tag code d r).health = s.health := by simp [State.fail]
@[simp] theorem State.fail_dict {ok : Bool} {q tag : Nat} {code : Code} {d r : DWord} : (s.fail ok q tag code d r).dict = s.dict := by simp [State.fail]
@[simp] theorem State.fail_stew {ok : Bool} {q tag : Nat} {code : Code} {d r : DWord} : (s.fail ok q tag code d r).stew = s.stew := by simp [State.fail]
@[simp] theorem State.fail_free {ok : Bool} {q tag : Nat} {code : Code} {d r : DWord} : (s.fail ok q tag code d r).free = s.free := by simp [State.fail]
@[simp] theorem State.fail_pending {ok : Bool} {q tag : Nat} {code : Code} {d r : DWord} : (s.fail ok q tag code d r).pending = s.pending := by simp [State.fail]

/-! ### Journal entries (R124) -/

@[simp] theorem State.journal_now {p : Nat} {c : Bool} {b : JBody} : (s.journal p c b).now = s.now := rfl
@[simp] theorem State.journal_hq {p : Nat} {c : Bool} {b : JBody} : (s.journal p c b).hq = s.hq := rfl
@[simp] theorem State.journal_st {p : Nat} {c : Bool} {b : JBody} : (s.journal p c b).st = s.st := rfl
@[simp] theorem State.journal_staged {p : Nat} {c : Bool} {b : JBody} : (s.journal p c b).staged = s.staged := rfl
@[simp] theorem State.journal_links {p : Nat} {c : Bool} {b : JBody} : (s.journal p c b).links = s.links := rfl
@[simp] theorem State.journal_levels {p : Nat} {c : Bool} {b : JBody} : (s.journal p c b).levels = s.levels := rfl
@[simp] theorem State.journal_levelDir {p : Nat} {c : Bool} {b : JBody} : (s.journal p c b).levelDir = s.levelDir := rfl
@[simp] theorem State.journal_pilotAge {p : Nat} {c : Bool} {b : JBody} : (s.journal p c b).pilotAge = s.pilotAge := rfl
@[simp] theorem State.journal_tiles {p : Nat} {c : Bool} {b : JBody} : (s.journal p c b).tiles = s.tiles := rfl
@[simp] theorem State.journal_ld {p : Nat} {c : Bool} {b : JBody} : (s.journal p c b).ld = s.ld := rfl
@[simp] theorem State.journal_keys {p : Nat} {c : Bool} {b : JBody} : (s.journal p c b).keys = s.keys := rfl
@[simp] theorem State.journal_cam {p : Nat} {c : Bool} {b : JBody} : (s.journal p c b).cam = s.cam := rfl
@[simp] theorem State.journal_dram {p : Nat} {c : Bool} {b : JBody} : (s.journal p c b).dram = s.dram := rfl
@[simp] theorem State.journal_intTgt {p : Nat} {c : Bool} {b : JBody} : (s.journal p c b).intTgt = s.intTgt := rfl
@[simp] theorem State.journal_intLock {p : Nat} {c : Bool} {b : JBody} : (s.journal p c b).intLock = s.intLock := rfl
@[simp] theorem State.journal_stewInt {p : Nat} {c : Bool} {b : JBody} : (s.journal p c b).stewInt = s.stewInt := rfl
@[simp] theorem State.journal_health {p : Nat} {c : Bool} {b : JBody} : (s.journal p c b).health = s.health := rfl
@[simp] theorem State.journal_dict {p : Nat} {c : Bool} {b : JBody} : (s.journal p c b).dict = s.dict := rfl
@[simp] theorem State.journal_stew {p : Nat} {c : Bool} {b : JBody} : (s.journal p c b).stew = s.stew := rfl
@[simp] theorem State.journal_pw {p : Nat} {c : Bool} {b : JBody} : (s.journal p c b).pw = s.pw := rfl
@[simp] theorem State.journal_out {p : Nat} {c : Bool} {b : JBody} : (s.journal p c b).out = s.out := rfl
@[simp] theorem State.journal_free {p : Nat} {c : Bool} {b : JBody} : (s.journal p c b).free = s.free := rfl
@[simp] theorem State.journal_pending {p : Nat} {c : Bool} {b : JBody} : (s.journal p c b).pending = s.pending := rfl

/-! ### Acts that wait for the journal -/

@[simp] theorem State.whenPersisted_now {a : JAct} : (s.whenPersisted a).now = s.now := rfl
@[simp] theorem State.whenPersisted_hq {a : JAct} : (s.whenPersisted a).hq = s.hq := rfl
@[simp] theorem State.whenPersisted_st {a : JAct} : (s.whenPersisted a).st = s.st := rfl
@[simp] theorem State.whenPersisted_staged {a : JAct} : (s.whenPersisted a).staged = s.staged := rfl
@[simp] theorem State.whenPersisted_links {a : JAct} : (s.whenPersisted a).links = s.links := rfl
@[simp] theorem State.whenPersisted_levels {a : JAct} : (s.whenPersisted a).levels = s.levels := rfl
@[simp] theorem State.whenPersisted_levelDir {a : JAct} : (s.whenPersisted a).levelDir = s.levelDir := rfl
@[simp] theorem State.whenPersisted_pilotAge {a : JAct} : (s.whenPersisted a).pilotAge = s.pilotAge := rfl
@[simp] theorem State.whenPersisted_tiles {a : JAct} : (s.whenPersisted a).tiles = s.tiles := rfl
@[simp] theorem State.whenPersisted_ld {a : JAct} : (s.whenPersisted a).ld = s.ld := rfl
@[simp] theorem State.whenPersisted_keys {a : JAct} : (s.whenPersisted a).keys = s.keys := rfl
@[simp] theorem State.whenPersisted_cam {a : JAct} : (s.whenPersisted a).cam = s.cam := rfl
@[simp] theorem State.whenPersisted_dram {a : JAct} : (s.whenPersisted a).dram = s.dram := rfl
@[simp] theorem State.whenPersisted_intTgt {a : JAct} : (s.whenPersisted a).intTgt = s.intTgt := rfl
@[simp] theorem State.whenPersisted_intLock {a : JAct} : (s.whenPersisted a).intLock = s.intLock := rfl
@[simp] theorem State.whenPersisted_stewInt {a : JAct} : (s.whenPersisted a).stewInt = s.stewInt := rfl
@[simp] theorem State.whenPersisted_health {a : JAct} : (s.whenPersisted a).health = s.health := rfl
@[simp] theorem State.whenPersisted_dict {a : JAct} : (s.whenPersisted a).dict = s.dict := rfl
@[simp] theorem State.whenPersisted_stew {a : JAct} : (s.whenPersisted a).stew = s.stew := rfl
@[simp] theorem State.whenPersisted_pw {a : JAct} : (s.whenPersisted a).pw = s.pw := rfl
@[simp] theorem State.whenPersisted_out {a : JAct} : (s.whenPersisted a).out = s.out := rfl
@[simp] theorem State.whenPersisted_free {a : JAct} : (s.whenPersisted a).free = s.free := rfl
@[simp] theorem State.whenPersisted_pending {a : JAct} : (s.whenPersisted a).pending = s.pending := rfl

/-! ### What a message leaves of the host queue engine -/

@[simp] theorem State.message_queue {v q : Nat} : (s.message v).queue q = s.queue q :=
  State.message_proj (g := fun s => s.queue q) (fun _ _ _ => rfl) (fun _ _ => rfl) (fun _ _ => rfl)
@[simp] theorem State.message_op {v q t : Nat} : (s.message v).op q t = s.op q t :=
  State.message_proj (g := fun s => s.op q t) (fun _ _ _ => rfl) (fun _ _ => rfl) (fun _ _ => rfl)
@[simp] theorem State.notePosted_queue {v q : Nat} : (s.notePosted v).queue q = s.queue q :=
  State.notePosted_proj (g := fun s => s.queue q) (fun _ _ _ => rfl) (fun _ _ => rfl) (fun _ _ => rfl)
@[simp] theorem State.notePosted_op {v q t : Nat} : (s.notePosted v).op q t = s.op q t :=
  State.notePosted_proj (g := fun s => s.op q t) (fun _ _ _ => rfl) (fun _ _ => rfl) (fun _ _ => rfl)
@[simp] theorem State.writeCpl_queue {q j : Nat} {h : HeldCpl} : (s.writeCpl q h).queue j = s.queue j := by
  unfold State.writeCpl; split <;> rfl
@[simp] theorem State.writeCpl_op {q j t : Nat} {h : HeldCpl} : (s.writeCpl q h).op j t = s.op j t := by
  unfold State.writeCpl; split <;> rfl
@[simp] theorem State.dropOp_queue {q tag j : Nat} : (s.dropOp q tag).queue j = s.queue j := rfl
@[simp] theorem State.dropOp_op_self {q tag : Nat} : (s.dropOp q tag).op q tag = none :=
  (State.op_setOp_self : (s.setOp q tag none).op q tag = none)

/-! ### Outputs are only added -/

theorem State.message_out {v : Nat} {x : Out} (h : x ∈ s.out) : x ∈ (s.message v).out := by
  unfold State.message
  split
  · exact h
  · dsimp only
    split
    · exact h
    · exact List.mem_cons_of_mem _ h
theorem State.windowMessage_out {v : Nat} {x : Out} (h : x ∈ s.out) : x ∈ (s.windowMessage v).out := State.message_out (by simpa using h)
theorem State.notePosted_out {v : Nat} {x : Out} (h : x ∈ s.out) : x ∈ (s.notePosted v).out := by
  unfold State.notePosted
  extract_lets u y z
  have hu : x ∈ u.out := by
    simp only [u]
    split
    · split
      · exact State.windowMessage_out h
      · exact h
    · exact h
  clear_value u
  split
  · split
    · exact State.windowMessage_out (hu : x ∈ u.out)
    · exact hu
  · split
    · exact State.message_out (by simpa using hu)
    · split
      · exact State.message_out (by simpa using hu)
      · simpa using hu

/-! ### A completion whose write succeeds (R31) -/

theorem State.postOk_queue_ne {q tag : Nat} {cls : CplClass} {code : Code} {result : DWord} {slack failing : Bool} {j : Nat} (h : j ≠ q) : (s.postOk q tag cls code result slack failing).queue j = s.queue j := by
  simp [State.postOk, State.queue_setQueue_ne h]

theorem State.postOk_op {q tag : Nat} {cls : CplClass} {code : Code} {result : DWord} {slack failing : Bool} : (s.postOk q tag cls code result slack failing).op q tag = none := by
  simp [State.postOk]

theorem State.postOk_queue_active {q tag : Nat} {cls : CplClass} {code : Code} {result : DWord} {slack failing : Bool} (h : (s.queue q).st = .active) :
    (s.postOk q tag cls code result slack failing).queue q = (s.queue q).advanceCq (BitVec.ofNat 5 tag) := by
  simp [State.postOk, h]

/-- The completion of a command of an ACTIVE queue out of D3hot is written, and the command ends (R31, R43). -/
theorem State.post_ended {q tag : Nat} {cls : CplClass} {code : Code} {result : DWord} {failing : Bool} (hp : Posting s q)
    (ha : s.hq.cqAnswer = true) : Ended s (s.post true q tag cls code result false failing) q tag cls code result := by
  have e : s.post true q tag cls code result false failing = s.postOk q tag cls code result false failing := by
    simp [State.post, State.postRaw, State.frozenNow, hp.1, ha, State.postOk_queue_active hp.1, Queue.advanceCq]
  rw [e]
  refine ⟨?_, by rw [State.postOk_queue_active hp.1]; rfl, State.postOk_op⟩
  simp only [State.postOk]
  apply State.notePosted_out
  simp [State.writeCpl, State.dropOp, State.busy, State.setOp, State.setQueue, hp.2, nextEntry, Queue.entryFor, State.entryHeld]

/-! ### Nothing goes on where nothing waits -/

theorem State.finishErase_quiet {k : Nat} (h : (s.bandAt k).st ≠ .erasing ∨ (s.bandAt k).erasePend ≠ []) : s.finishErase k = s := by
  unfold State.finishErase
  dsimp only
  rw [if_pos (h.imp_right Or.inl)]

theorem State.retryHomes_quiet (h : ∀ e ∈ s.st.bands, e.2.checking = []) : s.retryHomes = s := by
  unfold State.retryHomes
  refine foldS_id fun e he => ?_
  simp [h e he]

theorem State.pumpVerify_quiet {k n : Nat} (h : mget none s.st.verifies k = none) : s.pumpVerify k n = s := by
  cases n with
  | zero => rfl
  | succ n => simp [State.pumpVerify, h]

/-- With the reserve whole and no instance WRITE_CLOSED, the spare pool asks for nothing (R117, R119). -/
theorem State.poolChanged_quiet (h : (s.spareReserve : Int) ≤ s.sparePool) (hi : ∀ e ∈ s.hq.insts, e.2.st ≠ .writeClosed) :
    s.poolChanged = s := by
  have e : s.applyRetirement = s := by
    unfold State.applyRetirement
    rw [Int.toNat_of_nonpos (by omega)]
    rfl
  unfold State.poolChanged State.noteSpare
  rw [e]
  refine foldS_id fun e _ => ?_
  have : (s.inst e.1).st ≠ .writeClosed := mget_of_all (p := fun x : Inst => x.st ≠ .writeClosed) (by decide) hi
  simp [this]

theorem State.pumpCopy_quiet {b : Bool} {n : Nat} (h : JournalStill s) : s.pumpCopy b n = s := by
  obtain ⟨h1, h2, h3⟩ := h
  have ha : (s.jcopy b).2.again = [] := by cases b <;> simp [State.jcopy, h2, h3]
  cases n with
  | zero => rfl
  | succ n => simp [State.pumpCopy, h1, ha]

theorem State.pumpJournal_quiet (h : JournalStill s) : s.pumpJournal = s := by
  unfold State.pumpJournal
  dsimp only
  rw [State.pumpCopy_quiet h, State.pumpCopy_quiet h]

theorem State.issueRows_quiet (h : s.staged.all (fun e => e.issued) = true) : s.issueRows = s := by
  have e : s.staged.filter (fun e => !e.issued) = [] := by
    refine List.filter_eq_nil_iff.2 fun x hx => ?_
    simp [List.all_eq_true.1 h x hx]
  unfold State.issueRows
  rw [e]
  rfl

theorem State.pumpWrites_quiet {ok : Bool}
    (h : s.hq.ops.all (fun e => match e.2 with | some o => !(o.started && isWrite o.sqe) | none => true) = true) : s.pumpWrites ok = s := by
  unfold State.pumpWrites
  refine foldS_id fun e he => ?_
  have k := List.all_eq_true.1 h e he
  split
  · rename_i o eo
    rw [eo] at k
    have : (o.started && isWrite o.sqe) = false := by
      cases hx : o.started && isWrite o.sqe with
      | false => rfl
      | true => simp [hx] at k
    simp only [this, Bool.false_eq_true, if_false]
  · rfl

theorem State.pump_quiet {ok : Bool} (h : Quiet s) : s.pump ok = s := by
  obtain ⟨⟨h1, h2, h3, h4, h5, h6, h7, h8, h9, -, h11, h12, h13, -⟩, hj⟩ := h
  have hb : ∀ e ∈ s.st.bands, e.2.checking = [] ∧ (e.2.st ≠ .erasing ∨ e.2.erasePend ≠ []) := fun e he => by
    simpa using List.all_eq_true.1 h2 e he
  have hi : ∀ e ∈ s.hq.insts, e.2.st ≠ .writeClosed := fun e he => by simpa using List.all_eq_true.1 h13 e he
  have e1 : foldS (fun (s : State) (e : Nat × Band) => s.finishErase e.1) s s.st.bands = s :=
    foldS_id fun e _ => State.finishErase_quiet
      (mget_of_all (p := fun x : Band => x.st ≠ .erasing ∨ x.erasePend ≠ []) (by decide) (fun e he => (hb e he).2))
  have e2 : s.pumpEmpty = s := by simp [State.pumpEmpty, h3, foldS]
  have e3 : foldS (fun (s : State) (e : Nat × Option Verify) => s.pumpVerify e.1 2) s s.st.verifies = s :=
    foldS_id fun e _ => State.pumpVerify_quiet
      (mget_of_all (p := fun x : Option Verify => x = none) rfl (fun e he => by simpa using List.all_eq_true.1 h4 e he))
  have e4 : s.parityRetry = s := by simp [State.parityRetry, h5, foldS]
  unfold State.pump
  rw [e1, e2]
  dsimp only
  rw [e3, State.retryHomes_quiet (fun e he => (hb e he).1), State.poolChanged_quiet h12 hi, State.issueRows_quiet h1, e4, h6]
  simp only [foldS, h7, h8, h9, State.pumpJournal_quiet hj, State.pumpWrites_quiet h11]

theorem State.pumpRuns_quiet {ok : Bool} (h : Still s) : s.pumpRuns ok = s := by
  simp only [State.pumpRuns, h.2.2.2.2.2.2.2.2.2.1, foldS]

theorem State.pumpBack_quiet (h : Still s) : s.pumpBack = s := by
  obtain ⟨-, -, -, -, -, -, -, -, -, -, -, -, -, hf, hs, ht, -⟩ := h
  have e1 : s.pumpFormat = s := by simp [State.pumpFormat, hf]
  have e2 : s.pumpSanitize 64 = s := by simp [State.pumpSanitize, hs]
  simp [State.pumpBack, e1, e2, State.pumpTest, ht]

theorem State.p2Go_quiet (h : Still s) : s.p2Go = s := by
  obtain ⟨-, -, -, -, -, -, -, -, -, -, -, -, -, -, -, -, hp⟩ := h
  simp [State.p2Go, hp]

/-! ### The shared forms of a meaning answer a next state -/

theorem answering_next {ok : Bool} {f : State → Answer} (h : ∀ u, ∃ t, f u = .next t) : ∃ t, answering ok s f = .next t := by
  unfold answering
  generalize { s with hq := { s.hq with cqAnswer := ok } } = u
  obtain ⟨t, ht⟩ := h u
  rw [ht]
  exact ⟨_, rfl⟩

theorem State.custodian_next {q tag op : Nat} {sel : Sqe → Bool} {own : Sqe → Op → Option Code} {run : Sqe → Op → State} :
    ∃ t, s.custodian q tag op sel own run = .next t := ⟨_, rfl⟩

theorem State.camCommand_next {n q tag : Nat} {b : HostRead} {c : Bool} {run : State → Inst → CamReq → State} :
    ∃ t, s.camCommand n q tag b c run = .next t := ⟨_, rfl⟩

theorem State.selfTestRow_next {q tag : Nat} {e : Bool} {todo : List Nat} : ∃ t, s.selfTestRow q tag e todo = .next t := by
  unfold State.selfTestRow
  split
  · exact ⟨_, rfl⟩
  · split
    · exact ⟨_, rfl⟩
    · exact State.custodian_next

theorem State.kdpRequest_next {op port : Nat} {frame : Bytes} {run : State → Bytes → Bytes → State} :
    ∃ t, s.kdpRequest op port frame run = .next t := by
  simp only [State.kdpRequest]
  repeat' split
  all_goals exact ⟨_, rfl⟩

end Sys2Proof.Machine
end

