-- ==== Sys2Proof/Laws/Spans.lean ====
section
/-! SUPPORT. Laws of scratchpad accesses: what a write of whole words changes, and a lane's write. -/

namespace Sys2Proof.Machine

/-- `u` is `s` but for the stored bytes, syndromes and spare cells of tile `t`. -/
def SameButCells (t : Nat) (s u : State) : Prop :=
  u = { s with tiles := u.tiles } ∧
  u.tile t = { s.tile t with mem := (u.tile t).mem, synd := (u.tile t).synd, spare := (u.tile t).spare } ∧
  ∀ j, j ≠ t → u.tile j = s.tile j

theorem SameButCells.refl (t : Nat) (s : State) : SameButCells t s s := ⟨rfl, rfl, fun _ _ => rfl⟩

theorem SameButCells.trans {t : Nat} {s u v : State} (h : SameButCells t s u) (k : SameButCells t u v) : SameButCells t s v := by
  obtain ⟨a1, a2, a3⟩ := h
  obtain ⟨b1, b2, b3⟩ := k
  refine ⟨?_, ?_, fun j hj => (b3 j hj).trans (a3 j hj)⟩
  · rw [a1] at b1; exact b1
  · rw [a2] at b2; exact b2


theorem State.storeRaw_cells (s : State) (t b w : Nat) (v : Word) (y : BitVec 7) : SameButCells t s (s.storeRaw t b w v y) := by
  unfold State.storeRaw
  dsimp only
  split <;> exact ⟨rfl, by simp, fun j hj => State.tile_setTile_ne hj⟩

theorem SameButCells.bank {t : Nat} {s u : State} (h : SameButCells t s u) (b : Nat) : u.bank t b = s.bank t b := by
  unfold State.bank
  rw [h.2.1]

/-- A whole word goes straight to the array where no merge entry and no armed flip stands in the way (R312, R321). -/
theorem State.writeWord_whole {s : State} {t b : Nat} (w : Nat) (v : Word) (m : Nat) (hm : (s.bank t b).merge = [])
    (hf : (s.bank t b).flipArm = false) : ∃ u, s.writeWord t b w 0 4 v m = (true, u) ∧ SameButCells t s u := by
  refine ⟨s.storeRaw t b w v 0, ?_, s.storeRaw_cells t b w v 0⟩
  simp [State.writeWord, State.arrayWrite, hm, hf]

/-- A write of whole words succeeds and changes stored cells alone, where the tile's banks have neither merge entries nor an
armed flip. -/
theorem State.writeSpan_whole {s : State} {t : Nat} (hb : ∀ b, (s.bank t b).merge = [] ∧ (s.bank t b).flipArm = false) {a : Nat}
    {d : Bytes} (ha : a % 4 = 0) (hd : d.length % 4 = 0) (m : Nat) : ∃ u, s.writeSpan t a d m = (true, u) ∧ SameButCells t s u := by
  unfold State.writeSpan
  dsimp only
  split
  · exact ⟨s, rfl, .refl t s⟩
  · rename_i h0
    refine foldS_keeps (p := fun acc => ∃ u, acc = (true, u) ∧ SameButCells t s u) ⟨s, rfl, .refl t s⟩ ?_
    rintro _ i hi ⟨u, rfl, hu⟩
    have hi := List.mem_range.1 hi
    have e1 : Nat.max a (4 * (a / 4 + i)) - 4 * (a / 4 + i) = 0 := by
      have : Nat.max a (4 * (a / 4 + i)) = 4 * (a / 4 + i) := Nat.max_eq_right (by omega)
      omega
    have e2 : Nat.min (a + d.length) (4 * (a / 4 + i) + 4) - Nat.max a (4 * (a / 4 + i)) = 4 := by
      have h1 : Nat.max a (4 * (a / 4 + i)) = 4 * (a / 4 + i) := Nat.max_eq_right (by omega)
      have h2 : Nat.min (a + d.length) (4 * (a / 4 + i) + 4) = 4 * (a / 4 + i) + 4 := Nat.min_eq_right (by omega)
      omega
    obtain ⟨w, hw, hc⟩ := State.writeWord_whole (s := u) (t := t) (b := (a / 4 + i) / 32768) ((a / 4 + i) % 32768)
      (BitVec.ofNat 32 (leNat (slice d (Nat.max a (4 * (a / 4 + i)) - a) 4) * 2 ^ (8 * 0))) m
      (by rw [hu.bank]; exact (hb _).1) (by rw [hu.bank]; exact (hb _).2)
    exact ⟨w, by simp only [e1, e2]; exact hw, hu.trans hc⟩

/-- A word with no syndrome that no merge entry holds reads as stored, and the read changes nothing (R313, R316). -/
theorem State.readWord_clean {s : State} {t b : Nat} (w m : Nat) (hm : (s.bank t b).merge = []) (hr : (s.bank t b).remapOf w = none)
    (hy : (s.tile t).synd = []) : s.readWord t b w m = (some (memWord (s.tile t).mem (b * bankBytes + 4 * w)), s) := by
  have e : eccDecode 0#7 = .clean := rfl
  simp [State.readWord, State.rawWord, hm, hr, hy, e]

@[simp] theorem slice_length (b : Bytes) (off n : Nat) : (slice b off n).length = n := by
  simp only [slice, List.length_append, List.length_take, List.length_drop, List.length_replicate]
  omega

/-- A read succeeds, gives as many bytes as asked, and changes nothing, where no word of the tile has a syndrome and its banks
have neither merge entries nor remap entries. -/
theorem State.readSpan_clean {s : State} {t : Nat} (hb : ∀ b, (s.bank t b).merge = [] ∧ (s.bank t b).remap = [])
    (hy : (s.tile t).synd = []) (a n m : Nat) : ∃ d, s.readSpan t a n m = (some d, s) ∧ d.length = n := by
  have hr : ∀ b w, (s.bank t b).remapOf w = none := by
    intro b w
    simp [Bank.remapOf, (hb b).2]
  unfold State.readSpan
  dsimp only
  generalize e : foldS _ _ _ = r
  obtain ⟨bs, rfl⟩ : ∃ bs, r = (some bs, s) := by
    rw [← e]
    refine foldS_keeps (p := fun acc => ∃ bs, acc = (some bs, s)) ⟨[], rfl⟩ ?_
    rintro _ i - ⟨bs, rfl⟩
    simp only [State.readWord_clean _ m (hb _).1 (hr _ _) hy]
    exact ⟨_, rfl⟩
  exact ⟨_, rfl, slice_length ..⟩

/-- A lane's write of whole words, where its banks admit it. -/
theorem State.laneWrite_whole {s : State} {t : Nat} (hb : ∀ b, (s.bank t b).merge = [] ∧ (s.bank t b).flipArm = false) {a cls inst : Nat}
    {d : Bytes} (ha : a % 4 = 0) (hd : d.length % 4 = 0) (hl : s.laneMay t cls inst a d.length = true) (m : Nat) :
    ∃ u, s.laneWrite t cls inst m a d = (none, u) ∧ SameButCells t s u := by
  unfold State.laneWrite
  split
  · exact ⟨s, rfl, .refl t s⟩
  · obtain ⟨u, h, k⟩ := State.writeSpan_whole hb ha hd m
    exact ⟨u, by simp [hl, h], k⟩

/-- A lane's read, where its banks admit it. -/
theorem State.laneRead_clean {s : State} {t : Nat} (hb : ∀ b, (s.bank t b).merge = [] ∧ (s.bank t b).remap = [])
    (hy : (s.tile t).synd = []) {cls inst a n : Nat} (hl : s.laneMay t cls inst a n = true) (m : Nat) (hn : 0 < n) :
    ∃ d, s.laneRead t cls inst m a n = (.ok d, s) ∧ d.length = n := by
  obtain ⟨d, h, k⟩ := State.readSpan_clean hb hy a n m
  refine ⟨d, ?_, k⟩
  unfold State.laneRead
  simp [Nat.ne_of_gt hn, hl, h]

/-- A cipher job whose checks passed when it began goes on: it reads, works and writes the next bytes and keeps its record OPEN
(R350, R357). -/
theorem State.cipherRun_on {s v u : State} {t upto : Nat} {j : Job} {g : Gen} {b : Bytes} (h0 : j.fail = 0)
    (hg : (s.cslot (s.ctxRec j.inst (cCtx j.desc)).kslot.toNat).gen? (s.ctxRec j.inst (cCtx j.desc)).gen = some g)
    (hr : s.laneRead (j.home t) unitCipher j.inst 5 (jSrc j.desc + j.done) (upto - j.done) = (.ok b, v))
    (hw : v.laneWrite (j.home t) unitCipher j.inst 5 (cDst j.desc + j.done)
      (cipherText g.key (cMode j.desc) (s.ctxRec j.inst (cCtx j.desc)) b).1 = (none, u)) :
    s.cipherRun t j upto = (none, u.setCtx j.inst (cCtx j.desc)
      { (cipherText g.key (cMode j.desc) (s.ctxRec j.inst (cCtx j.desc)) b).2 with st := 1 }) := by
  unfold State.cipherRun
  simp [h0, hg, hr, hw]

end Sys2Proof.Machine
end

