-- ==== Sys2Proof/Machine/Package.lean ====
section
/-! DEFINITION. The package (23): which signal or supply each ball carries (R500 to R507), and what a signal is (R508, R509). No
command acts on a ball; these functions give the ball map. -/

namespace Sys2Proof.Machine

/-- Supply rails (R509); `coreT p` is the tile rail of region p. -/
inductive Rail where
  | coreT (p : Nat)
  | coreC | sram | fla | flh | pe | peh | ddr | io | aon | fn
deriving DecidableEq, Repr

/-- Control, strap, test, xSPI and rail request signals (R504). -/
inductive Ctl where
  | xspiClk | xspiCs | xspiDqs | powerFail | devRst | thermAlert | tck | tms | tdi | tdo | trst
  | xspiDq (i : Nat)
  | nodeId (i : Nat)
  | bootSel (i : Nat)
  | vreq (p i : Nat)
deriving DecidableEq, Repr

/-- Signals of a DRAM channel by subchannel (R506): `false` is subchannel A. Check bits take the place of the data bits of lane 4. -/
inductive Ddr where
  | dq (sub : Bool) (i : Nat)
  | cb (sub : Bool) (i : Nat)
  | dqs (sub neg : Bool) (i : Nat)
  | ca (sub : Bool) (i : Nat)
  | ck (sub neg : Bool)
  | cs (sub : Bool) (i : Nat)
  | resetN | alertN
deriving DecidableEq, Repr

/-- What a ball carries. `neg` marks the N ball of a pair. -/
inductive Ball where
  | vss
  | rail (r : Rail)
  | flTx (link : Nat) (neg : Bool)
  | flRx (link : Nat) (neg : Bool)
  | fref (g : Nat) (neg : Bool)
  | peTx (lane : Nat) (neg : Bool)
  | peRx (lane : Nat) (neg : Bool)
  | peRef (neg : Bool)
  | perst | wake
  | fieldNet (port : Nat) (neg : Bool)
  | ctl (c : Ctl)
  | ddr (channel : Nat) (d : Ddr)
deriving DecidableEq, Repr

/-- The region of a flash link ball, its relative column (1–10), and its row from the block's base row (R501, R502). -/
def flashBlock (row col : Nat) : Nat × Nat × Nat :=
  let low := if row ≤ 35 then 0 else 1
  let r := row - 1 - 35 * low
  if col ≤ 10 then (low, col, r)
  else if col ≤ 20 then (2 + low, col - 10, r)
  else if col ≤ 60 then (6 + low, 61 - col, r)
  else (4 + low, 71 - col, r)

/-- The pair of a relative column in a link row, and whether it is the N ball; none for VSS (R502). -/
def pairOf (c : Nat) : Option (Nat × Bool) :=
  match c with
  | 2 => some (0, false)
  | 3 => some (0, true)
  | 4 => some (1, false)
  | 5 => some (1, true)
  | 7 => some (2, false)
  | 8 => some (2, true)
  | 9 => some (3, false)
  | 10 => some (3, true)
  | _ => none

/-- A ball of a flash link zone (R502, R503). -/
def flashBall (row col : Nat) : Ball :=
  let (p, c, r) := flashBlock row col
  if 16 ≤ r ∧ r ≤ 18 then
    let g := 4 * p + (if r = 18 then 2 else 0)
    if c = 1 ∨ c = 6 then .rail .flh
    else if r = 17 ∨ c = 4 ∨ c = 5 ∨ 9 ≤ c then .rail .fla
    else if c ≤ 3 then .fref g (decide (c = 3))
    else .fref (g + 1) (decide (c = 8))
  else
    let r' := if r < 16 then r else r - 3
    match pairOf c with
    | none => .vss
    | some (q, neg) =>
      let link := 64 * p + 4 * (r' / 2) + q
      if r' % 2 = 0 then .flTx link neg else .flRx link neg

/-- A ball of a PCIe lane row whose lanes begin at `first` (R504). -/
def laneBall (rx : Bool) (first col : Nat) : Ball :=
  let i := first + (col - 21) / 3
  match (col - 21) % 3 with
  | 0 => .vss
  | k => if rx then .peRx i (decide (k = 2)) else .peTx i (decide (k = 2))

/-- Rows 07 and 08, columns 21 to 50 (R504). -/
def row07 : List Ball :=
  [.ctl .xspiClk, .ctl .xspiCs] ++ (List.range 8).map (fun i => .ctl (.xspiDq i)) ++
  [.ctl .xspiDqs, .rail .io, .vss, .ctl .powerFail, .ctl .devRst, .ctl .thermAlert] ++ (List.range 5).map (fun i => .ctl (.nodeId i)) ++
  [.ctl (.bootSel 0), .ctl (.bootSel 1), .rail .io, .rail .aon, .rail .aon, .vss, .ctl .tck, .ctl .tms, .ctl .tdi]
def row08 : List Ball :=
  [.ctl .tdo, .ctl .trst, .rail .io, .vss, .fieldNet 0 false, .fieldNet 0 true, .rail .fn, .fieldNet 1 false, .fieldNet 1 true, .rail .fn,
    .vss] ++ (List.range 16).map (fun i => .ctl (.vreq (i / 2) (i % 2))) ++ [.rail .io, .rail .io, .rail .io]

/-- A ball of the PCIe and control zones (R504). -/
def peBall (row col : Nat) : Ball :=
  match row with
  | 1 => laneBall false 0 col
  | 2 =>
    if col ≤ 38 then laneBall false 10 col
    else match col with
      | 40 => .peRef false
      | 41 => .peRef true
      | 43 => .perst
      | 44 => .wake
      | _ => .vss
  | 4 => laneBall true 0 col
  | 5 => if col ≤ 38 then laneBall true 10 col else .vss
  | 6 => if col ≤ 40 then .rail .pe else .rail .peh
  | 7 => row07.getD (col - 21) .vss
  | 8 => row08.getD (col - 21) .vss
  | _ => .vss

/-- A ball of the core zone (R505). -/
def coreBall (row col : Nat) : Ball :=
  if (row + col) % 2 = 0 then .vss
  else if row ≤ 12 then .rail .sram
  else if row ≤ 36 then .rail (.coreT ((row - 13) / 6 + (if col ≤ 35 then 0 else 4)))
  else .rail .coreC

/-- A byte-lane row of a DRAM channel block (R506). -/
def laneRow (c : Nat) (sub : Bool) (b col : Nat) : Ball :=
  let d := fun (i : Nat) => Ball.ddr c (if b = 4 then .cb sub i else .dq sub (8 * b + i))
  if 2 ≤ col ∧ col ≤ 5 then d (col - 2)
  else if 11 ≤ col ∧ col ≤ 14 then d (col - 7)
  else match col with
    | 6 => .ddr c (.dqs sub false (2 * b))
    | 7 => .ddr c (.dqs sub true (2 * b))
    | 8 => .rail .ddr
    | 9 => .ddr c (.dqs sub false (2 * b + 1))
    | 10 => .ddr c (.dqs sub true (2 * b + 1))
    | _ => .vss

/-- A command and address row of a DRAM channel block (R506). -/
def caRow (c : Nat) (sub : Bool) (col : Nat) : Ball :=
  if col = 8 then .rail .ddr else .ddr c (.ca sub (if col < 8 then col - 1 else col - 2))

/-- Row 13 of a DRAM channel block (R506). -/
def clockRow (c : Nat) : List Ball :=
  [.ddr c (.ck false false), .ddr c (.ck false true), .vss, .ddr c (.cs false 0), .ddr c (.cs false 1), .rail .ddr, .ddr c .resetN,
    .rail .ddr, .ddr c .alertN, .rail .ddr, .ddr c (.cs true 0), .ddr c (.cs true 1), .vss, .ddr c (.ck true false), .ddr c (.ck true true)]

/-- A ball of the DRAM zone (R506). -/
def dramBall (row col : Nat) : Ball :=
  let c := (if 56 ≤ row then 0 else 2) + (if col ≤ 35 then 0 else 1)
  let r := if 56 ≤ row then 71 - row else 56 - row
  let k := if col ≤ 35 then col - 20 else col - 35
  if r ≤ 5 then laneRow c false (r - 1) k
  else if r ≤ 10 then laneRow c true (r - 6) k
  else match r with
    | 11 => caRow c false k
    | 12 => caRow c true k
    | 13 => (clockRow c).getD (k - 1) .vss
    | 14 => if k % 2 = 1 then .rail .ddr else .vss
    | _ => if k % 3 = 0 then .vss else .rail .ddr

/-- What the ball in a row and column, each 1 to 70, carries (R500, R501). -/
def ballAt (row col : Nat) : Ball :=
  if col ≤ 20 ∨ 51 ≤ col then flashBall row col
  else if row ≤ 8 then peBall row col
  else if row ≤ 40 then coreBall row col
  else dramBall row col

/-- The directions of signals (R508). -/
inductive Dir where
  | input | output | both
deriving DecidableEq, Repr

/-- The direction of a control signal (R508). -/
def Ctl.dir : Ctl → Dir
  | .xspiClk | .xspiCs | .thermAlert | .tdo | .vreq _ _ => .output
  | .xspiDq _ => .both
  | _ => .input

/-- The supply of a control signal (R508). -/
def Ctl.supply : Ctl → Rail
  | .powerFail | .vreq _ _ => .aon
  | _ => .io

/-- The direction of the signal on a ball: none for a supply, and for DRAM signals, which JESD79-5 gives (R508). -/
def Ball.dir : Ball → Option Dir
  | .flTx _ _ | .peTx _ _ | .wake => some .output
  | .flRx _ _ | .fref _ _ | .peRx _ _ | .peRef _ | .perst => some .input
  | .fieldNet _ _ => some .both
  | .ctl c => some c.dir
  | .vss | .rail _ | .ddr _ _ => none

/-- Internal pull resistors: true up, false down (R508). -/
def Ctl.pull : Ctl → Option Bool
  | .devRst | .tms | .tdi => some true
  | .xspiDqs | .nodeId _ | .bootSel _ | .tck | .trst => some false
  | _ => none

end Sys2Proof.Machine
end

