-- ==== Sys2Proof/Machine/RegReads.lean ====
section
/-! DEFINITION. What reads of registers return: the BARs (R25, R26, R32, R52), and the steward's address range (15, 16, 17, 18).
No command of the table reads a register, and a read changes nothing; these functions give the registers' layout. -/

namespace Sys2Proof.Machine

/-- The number a field's flag adds at bit `k`. -/
def flag (v : Bool) (k : Nat) : Nat := if v then 2 ^ k else 0

/-- A half of a 64-bit register. -/
def halfOf (v : DWord) (high : Bool) : Word := if high then v.extractLsb' 32 32 else v.extractLsb' 0 32

/-- `HQ_CTX.STATE.STATE`. -/
def qstateCode : QState → Nat
  | .disabled => 0
  | .active => 1
  | .frozen => 2
  | .draining => 3

/-- A word of the error log page (R32). -/
def Elog.read (e : Elog) (off : Nat) : Word :=
  match off with
  | 0x00 => BitVec.ofNat 32 (flag e.valid 0 + flag e.more 1 + 2 ^ 8 * e.tag.toNat + 2 ^ 16 * e.opcode.toNat + 2 ^ 24 * e.code.toNat)
  | 0x04 => e.freezes
  | 0x08 => halfOf e.time false
  | 0x0C => halfOf e.time true
  | 0x10 => halfOf e.detail false
  | 0x14 => halfOf e.detail true
  | 0x18 => e.slab
  | 0x1C => BitVec.ofNat 32 (e.started.toNat + 2 ^ 8 * e.notStarted.toNat)
  | _ => if 0x40 ≤ off ∧ off < 0x80 then e.sqe.extractLsb' (8 * (off - 0x40)) 32 else 0

/-- A word of a queue context page (R32). -/
def Queue.readCtx (x : Queue) (off : Nat) : Word :=
  match off with
  | 0x00 => BitVec.ofNat 32 (qstateCode x.st + flag x.restartPending 2 + 2 ^ 8 * x.inst + 2 ^ 16 * x.cls.toNat + 2 ^ 24 * x.weight.toNat)
  | 0x04 => x.vector.setWidth 32
  | 0x08 => match x.pasid with
    | some p => BitVec.ofNat 32 (p.toNat + 2 ^ 31)
    | none => 0
  | 0x10 => halfOf x.sqBase false
  | 0x14 => halfOf x.sqBase true
  | 0x18 => halfOf x.cqBase false
  | 0x1C => halfOf x.cqBase true
  | 0x20 => BitVec.ofNat 32 (x.sqHead.toNat + 2 ^ 8 * x.sqTail.toNat + 2 ^ 16 * x.cqTail.toNat + 2 ^ 24 * x.cqHead.toNat + flag x.phase 31)
  | 0x24 => x.tags
  | _ => if 0x100 ≤ off ∧ off < 0x200 then x.elog.read (off - 0x100) else 0

/-- A word of the MSI-X table (R22, R52). -/
def Vec.readTable (x : Vec) (k : Nat) : Word :=
  match k with
  | 0 => halfOf x.addr false
  | 1 => halfOf x.addr true
  | 2 => x.data
  | _ => BitVec.ofNat 32 (flag x.masked 0)

/-- 32 bits of the MSI-X pending-bit array, vectors from `v` on (R25, R52). -/
def State.readPba (s : State) (v : Nat) : Word :=
  BitVec.ofNat 32 ((List.range 32).foldl (fun n i => n + flag (s.vec (v + i)).pending i) 0)

/-- A 32-bit register of the identity block or the custodian registers (R26). -/
def State.readId (s : State) (off : Nat) : Word :=
  match off with
  | 0x0000 => 0x00B00512
  | 0x0004 => BitVec.ofNat 32 (flag s.hq.dramPresent 0 + flag s.hq.compact 1)
  | 0x0010 => s.hq.idReady
  | 0x0020 => BitVec.ofNat 32 (exitLatency 1)
  | 0x0024 => BitVec.ofNat 32 (exitLatency 2)
  | 0x0028 => BitVec.ofNat 32 (exitLatency 3)
  | 0x10000 => halfOf s.hq.aqSqBase false
  | 0x10004 => halfOf s.hq.aqSqBase true
  | 0x10008 => halfOf s.hq.aqCqBase false
  | 0x1000C => halfOf s.hq.aqCqBase true
  | 0x10010 => BitVec.ofNat 32 (flag s.hq.aqEnable 0 + 2 ^ 16 * s.hq.aqVector.toNat)
  | 0x10020 => s.hq.cuEvent
  | 0x10024 => s.hq.cuEventMask
  | 0x10034 => BitVec.ofNat 32 (flag s.hq.shutdownDone 0)
  | _ => 0

/-- A 32-bit read of BAR0 at a multiple of 4; reserved ranges read 0 (R25), and so does `CU_CTRL`, which is WO (R2). -/
def State.readBar0Word (s : State) (off : Nat) : Word :=
  if off % 4 ≠ 0 then 0
  else if off < 0x20000 then s.readId off
  else if 0x100000 ≤ off ∧ off < 0x500000 then (s.queue ((off - 0x100000) / 0x400)).readCtx (off % 0x400)
  else if 0x500000 ≤ off ∧ off < 0x508000 then (s.vec ((off - 0x500000) / 16)).readTable (off % 16 / 4)
  else if 0x508000 ≤ off ∧ off < 0x508100 then s.readPba (8 * (off - 0x508000))
  else 0

/-- A 64-bit read of BAR0: the ring bases; another register returns 0 (R4, R26). -/
def State.readBar0Wide (s : State) (off : Nat) : DWord :=
  if off = 0x10000 then s.hq.aqSqBase
  else if off = 0x10008 then s.hq.aqCqBase
  else if 0x100000 ≤ off ∧ off < 0x500000 ∧ off % 0x400 = 0x10 then (s.queue ((off - 0x100000) / 0x400)).sqBase
  else if 0x100000 ≤ off ∧ off < 0x500000 ∧ off % 0x400 = 0x18 then (s.queue ((off - 0x100000) / 0x400)).cqBase
  else 0

/-- A read of BAR0 of `w` bits: one of another width than the register's returns 0 (R4). -/
def State.readBar0 (s : State) (w off : Nat) : DWord :=
  if w = 32 then (s.readBar0Word off).setWidth 64 else if w = 64 then s.readBar0Wide off else 0

/-- A read of BAR2: every doorbell register is WO (R2, R25). -/
def State.readBar2 (_ : State) (_ _ : Nat) : DWord := 0

/-- A read in configuration space (R22), with the model's numbers (assumption 4): 0 MSI-X Message Control, 1 Device Control, 2 the
device ID, 3 the class code, 4 the ATS capability with its invalidate queue depth (32 is written 0 there). -/
def State.readConfig (s : State) (off : Nat) : Word :=
  match off with
  | 0 => BitVec.ofNat 32 (2047 + flag s.hq.funcMask 14)
  | 1 => BitVec.ofNat 32 (2 ^ 5 * s.hq.maxPayload.toNat + 2 ^ 12 * s.hq.maxReadReq.toNat)
  | 2 => Config.deviceId.setWidth 32
  | 3 => Config.classCode.setWidth 32
  | 4 => BitVec.ofNat 32 (Config.atsDepth % 32)
  | _ => 0

/-- A register of the boot digest unit (15, R376). -/
def Steward.readBd (x : Steward) (off : Nat) : Word :=
  match off with
  | 0x00 => BitVec.ofNat 32 (flag x.bdDone 0 + 2 * (x.image % 2) + 4 * x.bdHit.toNat)
  | 0x04 => x.bdR0
  | 0x08 => x.bdR1
  | _ => 0

/-- A register of the CAM (16). -/
def Cam.readReg (c : Cam) (off : Nat) : Word :=
  match off with
  | 0x00 => BitVec.ofNat 32 (flag c.scanEn 0)
  | 0x04 => BitVec.ofNat 32 (c.inService.toNat + flag c.changing 16)
  | 0x08 => BitVec.ofNat 32 (c.searches / 1024)
  | 0x0C => BitVec.ofNat 32 (c.multis / 1024)
  | 0x10 => BitVec.ofNat 32 c.moved
  | 0x14 => BitVec.ofNat 32 (c.parity + 2 ^ 16 * c.errSeg.toNat + flag c.errValid 20)
  | _ => 0

/-- The highest leaky bucket of a channel. -/
def Chan.bucket (x : Chan) : Nat :=
  Nat.max (Nat.max x.sub0.buckets.1 x.sub0.buckets.2) (Nat.max x.sub1.buckets.1 x.sub1.buckets.2)

/-- A register of a DRAM channel (17). -/
def State.readDc (s : State) (c off : Nat) : Word :=
  let x := s.chan c
  match off with
  | 0x00 => BitVec.ofNat 32 (flag x.scrubEn 0)
  | 0x04 => BitVec.ofNat 32 (flag x.sub0.inService 0 + flag x.sub1.inService 1 + flag x.sub0.training 2 + flag x.sub1.training 3 +
      2 ^ 4 * x.speed.toNat + flag x.unmirrored 6)
  | 0x08 => BitVec.ofNat 32 (x.bucket % 256 + flag x.ovf 8 + flag x.ue 9 + flag x.addrErr 10 + 2 ^ 16 * x.cecnt)
  | 0x0C => BitVec.ofNat 32 (flag x.errSub 0 + flag x.errRank 1 + 2 ^ 2 * x.errBeat.toNat + 2 ^ 6 * x.errSynd.toNat + flag x.errAp 13 +
      flag x.errUnc 14 + 2 ^ 15 * x.errRow.toNat)
  | 0x10 => BitVec.ofNat 32 (x.flipMask.toNat + flag x.flipAp 7 + flag x.flipArm 31)
  | 0x14 => BitVec.ofNat 32 s.keepMask
  | _ => 0

/-- A target register (R416). -/
def Target.read (x : Target) : Word := BitVec.ofNat 32 (x.core.toNat + 2 ^ 8 * x.prio.toNat + flag x.en 10)

/-- A read of `w` bits by the steward in its own address range: one of another width than 32 bits returns 0 (R4). -/
def State.readSteward (s : State) (w a : Nat) : Word :=
  if w ≠ 32 then 0
  else if 0x02002000 ≤ a ∧ a < 0x02006000 ∧ a % 4 = 0 then (mget {} s.intTgt ((a - 0x02002000) / 4)).read
  else if 0x02000100 ≤ a ∧ a < 0x0200010C then s.stew.readBd (a - 0x02000100)
  else if 0x02000400 ≤ a ∧ a < 0x02000418 then s.cam.readReg (a - 0x02000400)
  else if 0x02000800 ≤ a ∧ a < 0x02000900 then s.readDc ((a - 0x02000800) / 64) (a % 64)
  else if 0x02001000 ≤ a ∧ a < 0x02001020 then s.readInt 64 (a - 0x02001000)
  else if a = 0x02001020 then BitVec.ofNat 32 (flag s.intLock 0)
  else 0

end Sys2Proof.Machine
end

