-- ==== Sys2Proof/Tests/Slice0.lean ====
section
/-! SUPPORT. Tests: each is one step, or one operation, on a small state, or the witness that the hypotheses of a statement
can be met. Expected values come from the rules named. -/

namespace Sys2Proof.Tests

set_option Elab.async false

open Sys2Proof Sys2Proof.Machine

/-- Command `i` at `s` answers a next state that passes `p`. -/
def after (i : Instr) (s : State) (p : State → Bool) : Bool :=
  match exec i s with
  | .next t => p t
  | _ => false

/-- The machine from reset with one queue as given. -/
def withQueue (q : Nat) (x : Queue) : State := State.reset.setQueue q x

/-- A submission entry from its fields: pairs (bit position, value). -/
def entry (l : List (Nat × Nat)) : BitVec 512 := BitVec.ofNat 512 (l.foldl (fun n e => n + e.2 * 2 ^ e.1) 0)

/-! ### Host queues (02) -/

/-- Queue 3 ACTIVE with SQ_TAIL 30 and two unconsumed completions of tags 4 and 9 (R34, R36). -/
def sBell : State := withQueue 3 { st := .active, sqTail := 30, cqHead := 31, cqTags := [4, 9], tags := 0x210 }

theorem wit_DoorbellsMovePointers : sBell.barOpen = true ∧ (sBell.queue 3).listens = true := by decide +kernel

theorem test_sqTail_wraps : after (.sqTail 3 2) sBell (fun t =>
    decide ((t.queue 3).sqTail = 2 ∧ (t.queue 3).unfetched = 4)) = true := by decide +kernel

theorem test_cqHead_frees_tags : after (.cqHead 3 0) sBell (fun t =>
    decide ((t.queue 3).cqHead = 0 ∧ (t.queue 3).cqTags = [9] ∧ (t.queue 3).tags = 0x200)) = true := by decide +kernel

theorem test_cqHead_past_tail_ignored : after (.cqHead 3 2) sBell (fun t => decide (t.queue 3 = sBell.queue 3)) = true := by decide +kernel

theorem wit_PcieEventsAndLowPower_D3hotDiscardsBarWrites :
    ({ State.reset with hq := { State.reset.hq with pcie := .d3hot } } : State).hq.pcie = .d3hot := by decide +kernel

/-- Queue 3 FROZEN with two entries between SQ_HEAD and SQ_TAIL. -/
def sFrozen : State := withQueue 3 { st := .frozen, sqHead := 31, sqTail := 1, unfetched := 2, elog := { valid := true } }

theorem wit_ControlBitsAndRestart_RestartResumesQueue : (sFrozen.queue 3).st = .frozen ∧ (sFrozen.queue 3).held = [] ∧ sFrozen.hq.cqAnswer = true ∧
    sFrozen.hq.pcie ≠ .d3hot ∧ sFrozen.startedOps 3 = [] ∧ (sFrozen.queue 3).flushPending = false := by decide +kernel

theorem test_restart_resumes : after (.restart 3 true) sFrozen (fun t =>
    decide ((t.queue 3).st = .active ∧ (t.queue 3).elog.valid = false ∧ (t.queue 3).unfetched = 2)) = true := by decide +kernel

theorem test_flush_completes_entries : after (.flushPending 3 true) sFrozen (fun t =>
    decide ((t.queue 3).st = .active ∧ (t.queue 3).unfetched = 0 ∧ (t.queue 3).sqHead = 1 ∧ (t.queue 3).cqTags = [31, 0])) = true := by
  decide +kernel

/-- The same with a command started before the freeze still running. -/
def sFrozenRunning : State := sFrozen.setOp 3 7 (some { started := true })

theorem wit_ControlBitsAndRestart_RestartResumesQueue_waits : (sFrozenRunning.queue 3).st = .frozen ∧ (sFrozenRunning.queue 3).held = [] ∧
    sFrozenRunning.startedOps 3 ≠ [] := by decide +kernel

theorem test_restart_waits : after (.restart 3 true) sFrozenRunning (fun t =>
    decide ((t.queue 3).st = .frozen ∧ (t.queue 3).restartPending = true)) = true := by decide +kernel

theorem wit_ControlBitsAndRestart_RestartResumesQueue_effect : let s := withQueue 3 { st := .frozen, restartPending := true }
    (s.queue 3).st = .frozen ∧ s.startedOps 3 = [] ∧ (s.queue 3).restartPending = true ∧ (s.queue 3).flushPending = false := by decide +kernel

/-- ID_READY.ADMIN set, queue 0 DISABLED. -/
def sAdmin : State := { State.reset with hq := { State.reset.hq with idReady := 3, aqVector := 5 } }

theorem wit_ControlBitsAndRestart_EnableMovesQueueZero : sAdmin.barOpen = true ∧ bit sAdmin.hq.idReady 1 = true ∧ (sAdmin.queue 0).st = .disabled := by
  decide +kernel

theorem test_enable_activates : after .enableSet sAdmin (fun t =>
    decide ((t.queue 0).st = .active ∧ (t.queue 0).phase = true ∧ (t.queue 0).vector = 5)) = true := by decide +kernel

theorem wit_ControlBitsAndRestart_EnableMovesQueueZero_early : State.reset.barOpen = true ∧ bit State.reset.hq.idReady 1 = false := by decide +kernel

theorem wit_ControlBitsAndRestart_EnableMovesQueueZero_clear :
    let s := ({ State.reset with hq := { State.reset.hq with aqEnable := true } } : State).setQueue 0 { st := .active }
    s.hq.aqEnable = true ∧ (s.queue 0).listens = true ∧ s.unstarted 0 = [] := by decide +kernel

theorem wit_ControlBitsAndRestart_ShutdownStopsFetching : State.reset.barOpen = true ∧ (∀ q, State.reset.unstarted q = []) :=
  ⟨by decide +kernel, fun _ => by simp [State.unstarted, State.op, State.reset]⟩

theorem test_aq_base_reserved_bits : after (.registerWrite .bar0 0x10000 64 0x12345FFF) sAdmin (fun t =>
    decide (t.hq.aqSqBase = 0x12345000)) = true := by decide +kernel

theorem wit_RegisterWritesFollowAccessCodes : sAdmin.barOpen = true ∧ (sAdmin.queue 0).st = .disabled ∧ sAdmin.intLock = false ∧
    (∀ e ∈ sBell.hq.queues, sBell.unstarted e.1 = []) ∧ (sBell.queue 3).listens = true ∧ sBell.barOpen = true ∧ ((sBell.setQueue 0 { st := .active }).queue 0).st ≠ .disabled := by decide +kernel

theorem test_event_write_clears : after (.registerWrite .bar0 0x10020 32 0xFFFFFFF2)
    { State.reset with hq := { State.reset.hq with cuEvent := 0x13 } } (fun t => decide (t.hq.cuEvent = 1)) = true := by decide +kernel

theorem test_target_register : after (.registerWrite .steward (0x02002000 + 4 * 0x90F) 32 0x441) State.reset (fun t =>
    decide (mget {} t.intTgt 0x90F = { core := 0x41, prio := 0, en := true })) = true := by decide +kernel

/-- Queue 3 with one entry to fetch. -/
def sFetch : State :=
  let s := withQueue 3 { st := .active, sqHead := 31, sqTail := 0, unfetched := 1, weight := 1, cls := 1 }
  { s with hq := { s.hq with idReady := 15 } }

/-- An OPEN of slab 2. -/
def eOpen : BitVec 512 := entry [(0, 4), (32, 2)]

theorem wit_DataReachesTheStore_FetchTakesEntry : sFetch.fetching = true ∧ sFetch.hq.cqAnswer = true ∧ sFetch.arbitrate.isSome = true ∧
    (match sFetch.arbitrate with
      | some (q, s1) => decide (q = 3) && (s1.opPool q).isSome && !bit (s1.queue q).tags 31 && !bit (s1.queue q).marks 31 &&
          decide ((s1.queue q).st = .active) && decide (s1.unstarted q = [])
      | none => false) = true ∧ opcodeKnown (Sqe.opcode eOpen) = true ∧ Sqe.subop eOpen ≤ subopMax (Sqe.opcode eOpen) := by decide +kernel

theorem test_fetch : after (.submissionFetch (.ok eOpen) (.ok []) true) sFetch (fun t =>
    decide ((t.queue 3).sqHead = 0 ∧ (t.queue 3).unfetched = 0 ∧ (t.queue 3).tags = 0x80000000 ∧ t.out = [.dmaRead 3 31 none]) &&
    (match t.op 3 31 with | some o => decide (o.sqe = eOpen ∧ o.started = false) | none => false)) = true := by decide +kernel

theorem test_fetch_fault_freezes : after (.submissionFetch .fault (.ok []) true) sFetch (fun t =>
    decide ((t.queue 3).st = .frozen ∧ (t.queue 3).elog.code = 0x4D ∧ (t.queue 3).elog.detail = 31)) = true := by decide +kernel

/-- Queue 3 with tag 31 in use. -/
def sTagInUse : State := sFetch.setQueue 3 { sFetch.queue 3 with tags := 0x80000000 }

theorem wit_DataReachesTheStore_FetchTakesEntry_tag : sTagInUse.fetching = true ∧ (match sTagInUse.arbitrate with
      | some (q, s1) => decide (q = 3) && (s1.opPool q).isSome && bit (s1.queue q).tags 31 && decide ((s1.queue q).st = .active) &&
          decide (s1.unstarted q = [])
      | none => false) = true := by decide +kernel

/-- A started APPEND of 1,024 bytes to slab 2 of instance 0, with its list read. -/
def oAppend : Op := { sqe := entry [(0, 1), (32, 2), (96, 1024)], started := true, listOk := true }

/-- One DATA descriptor of 2,048 bytes, LAST. -/
def dLast : BitVec 128 := BitVec.ofNat 128 (2048 * 2 ^ 64 + 2 ^ 96)

theorem wit_DataReachesTheStore_HostDataReachesCommand_list : let s := State.reset.setOp 3 7 (some { oAppend with listOk := false })
    s.op 3 7 = some { oAppend with listOk := false } ∧ s.hq.cqAnswer = true ∧ readsList oAppend.sqe = true ∧
    oAppend.started = true ∧ walkList [dLast] 0 0 0 0 = .ok 2048 ∧ Sqe.length oAppend.sqe ≤ 2048 ∧ Sqe.opcode oAppend.sqe ≠ 2 ∧ Sqe.opcode oAppend.sqe ≠ 8 := by
  decide +kernel

theorem test_list_slack : after (.descriptorListRead 3 7 (.ok [dLast]) .ok true)
    (State.reset.setOp 3 7 (some { oAppend with listOk := false })) (fun t =>
      decide (t.op 3 7 = some { oAppend with slack := true })) = true := by decide +kernel

/-- Slab 2 of instance 0 OPEN in band 1 of region 0 at write pointer 5, and the APPEND of `oAppend` running. -/
def sAppend : State :=
  let s := withQueue 3 { st := .active }
  let s := (s.setInst 0 { s.inst 0 with extents := [(0, 16)] }).setSlab 2 { st := .opened, band := 1, wp := 5 }
  let s := (s.setBand 0 1 { st := .opened }).setOp 3 7 (some oAppend)
  { s with hq := { s.hq with idReady := 0x10F }, st := { s.st with geom := [(0, (1, 1024))] } }

theorem wit_DataReachesTheStore_HostDataReachesCommand_bytes :
    let s := sAppend.setOp 3 7 (some { oAppend with share := some (0, 1) })
    s.op 3 7 = some { oAppend with share := some (0, 1) } ∧ s.hq.cqAnswer = true ∧ s.jr.holdStep = 0 ∧ Sqe.opcode oAppend.sqe = 1 ∧
    Sqe.fReduce oAppend.sqe = false ∧ s.slabIdx oAppend = some 2 ∧ oAppend.bytesIn + ([1, 2] : Bytes).length ≤ Sqe.length oAppend.sqe ∧
    (oAppend.pend ++ ([1, 2] : Bytes)).length < 1024 * groupGrains oAppend := by decide +kernel

theorem wit_DataReachesTheStore_HostDataReachesCommand_share : sAppend.op 3 7 = some oAppend ∧ oAppend.share = none ∧ sAppend.appendPlace 2 = some (0, 1) ∧
    sAppend.stagedIn 0 + groupGrains oAppend ≤ sAppend.stageShare := by decide +kernel

theorem test_arrival_takes_share : after (.hostDataArrival 3 7 (.ok [1, 2]) .ok true) sAppend (fun t =>
    decide ((t.op 3 7).map (fun o => (o.share, o.pend, o.bytesIn)) = some (some (0, 1), [1, 2], 2) ∧ t.staged = [])) = true := by
  decide +kernel

/-- One grain of data. -/
def grainData : Bytes := List.replicate 1024 7

theorem wit_AppendStagesAtWritePointer : sAppend.op 3 7 = some oAppend ∧ Posting sAppend 3 ∧ sAppend.hq.cqAnswer = true ∧
    sAppend.jr.holdStep = 0 ∧ sAppend.slabIdx oAppend = some 2 ∧ sAppend.appendPlace 2 = some (0, 1) ∧
    sAppend.canStage 0 1 1 0 0 0 = true ∧ (sAppend.slab 2).wp + 1 < Config.slabGrains ∧ sAppend.staged.all (fun e => e.issued) = true ∧ (sAppend.band 0 1).st = .opened ∧
    (sAppend.staged.filter (fun e => decide (e.region = 0 ∧ e.band = 1))).length < 511 ∧ Sqe.fStream oAppend.sqe = false ∧ Sqe.fXts oAppend.sqe = false ∧
    Sqe.length oAppend.sqe = 1024 := by decide +kernel

theorem test_append_stages : after (.hostDataArrival 3 7 (.ok grainData) .ok true) sAppend (fun t =>
    decide ((t.slab 2).wp = 6 ∧ t.staged.length = 1 ∧ (t.queue 3).cqTail = 1 ∧ t.op 3 7 = none)) = true := by decide +kernel

/-- Vector 4 unmasked, with an open window that ends at 900. -/
def sWindow : State := State.reset.setVec 4 { masked := false, winEnd := some 900, posted := 1 }

theorem wit_InterruptsAreDelivered_ModerationAndUnmask : sWindow.hq.pcie ≠ .d3hot ∧ sWindow.hq.funcMask = false ∧ (sWindow.vec 4).winEnd = some 900 ∧
    (sWindow.vec 4).masked = false ∧ ((State.reset.setVec 4 { winEnd := some 900 }).vec 4).masked = true ∧
    ((State.reset.setVec 4 { pending := true }).vec 4).pending = true ∧ (sWindow.vec 4).pending = false := by decide +kernel

theorem test_window_end : after (.moderationWindowEnd 4) sWindow (fun t => decide (t.out = [.msix 4] ∧ t.now = 900)) = true := by
  decide +kernel

theorem wit_PcieEventsAndLowPower_PciePowerEvents : State.reset.hq.pcie ≠ .d3hot ∧ State.reset.hq.pcie = .d0 ∧ State.reset.hq.vecs = [] ∧
    ({ State.reset with hq := { State.reset.hq with pcie := .d3hot } } : State).hq.pcie = .d3hot := by decide +kernel

theorem test_d3hot_entry : after .d3hotEntry State.reset (fun t => decide (t.hq.pcie = .d3hot ∧ t.out = [.cfgDone])) = true := by
  decide +kernel

theorem wit_DrainAndFunctionReset_DrainEndClearsQueue :
    (∀ c : DrainCause, ((withQueue 3 { st := .draining, drain := c, inst := 2 }).queue 3).st = .draining ∧
      ((withQueue 3 { st := .draining, drain := c, inst := 2 }).queue 3).drain = c ∧
      ((withQueue 3 { st := .draining, drain := c, inst := 2 }).queue 3).held = [] ∧
      (withQueue 3 { st := .draining, drain := c, inst := 2 }).startedOps 3 = []) := by
  intro c; cases c <;> decide +kernel

theorem test_drain_end_reset : after (.queueDrainEnd 3 true) (withQueue 3 { st := .draining, drain := .instReset, inst := 2 }) (fun t =>
    decide ((t.queue 3).st = .active ∧ (t.queue 3).inst = 2 ∧ t.out = [.ringZero 3 none])) = true := by decide +kernel

theorem wit_DrainAndFunctionReset_FunctionLevelResetClearsQueues : (∀ e ∈ sBell.hq.insts, e.1 = 0 ∨ e.2.st = .free) ∧ (∀ q, sBell.startedOps q = []) ∧
    mwf {} sBell.hq.queues = true ∧ mwf {} sBell.hq.vecs = true :=
  ⟨by decide +kernel, fun _ => by simp [State.startedOps, State.op, sBell, withQueue, State.setQueue, State.reset], by decide +kernel, by decide +kernel⟩

theorem test_flr : after .functionLevelReset sBell (fun t => decide (t.queue 3 = {} ∧ t.hq.queues = [])) = true := by decide +kernel

theorem wit_PcieEventsAndLowPower_LinkChangeAndInvalidate : State.reset.targetOf 0x90F = none ∧
    ({ State.reset with intTgt := [(0x90F, { core := 64, en := true })] } : State).targetOf 0x90F = some 64 := by decide +kernel


/-! ### Data commands (03, 04) -/

/-- One region of small geometry ready, slab 2 of instance 0 OPEN in band 1 of region 0 at write pointer 5, slab 3 EMPTY. -/
def sStore : State :=
  let s := withQueue 3 { st := .active }
  let s := (s.setInst 0 { s.inst 0 with extents := [(0, 16)], keyCount := 8, hmacCount := 8 }).setSlab 2 { st := .opened, band := 1, wp := 5 }
  let s := s.setBand 0 1 { st := .opened }
  { s with hq := { s.hq with idReady := 0x10F }, st := { s.st with geom := [(0, (1, 1024))] } }

/-- The machine from reset with no spare reserve asked for and the bands of two regions. -/
def ample : State :=
  let s := State.reset
  { s with dict := { s.dict with vals := [(0x040010, [0, 0, 0, 0])] }, st := { s.st with geom := [(4, (1, 1024)), (5, (1, 1024))] } }

/-- Command `e` fetched in queue 3 under tag 7. -/
def sCmd (e : BitVec 512) : State := sStore.setOp 3 7 (some { sqe := e })
def oCmd (e : BitVec 512) : Op := { sqe := e }

theorem onlyOp {s : State} {k : Nat} {o : Op} {p : Op → Prop} (h : s.hq.ops = [(k, some o)]) (hp : p o) :
    ∀ e ∈ s.hq.ops, ∀ a, e.2 = some a → p a := by
  rw [h]; simpa using hp

def eAppend : BitVec 512 := entry [(0, 1), (32, 2), (96, 1024)]
def eOverwrite : BitVec 512 := entry [(0, 3), (32, 2), (64, 4), (96, 1024)]
/-- An APPEND with XTS under cipher slot 6. -/
def eXts : BitVec 512 := entry [(0, 1), (20, 1), (32, 2), (96, 1024), (256, 6)]
def sXts : State := (sCmd eXts).setCslot 6 { cur := some { num := 1, key := List.replicate 16 1 ++ List.replicate 16 2 }, gens := 1 }

theorem wit_WriteCommandsStart : Startable (sCmd eAppend) 3 7 (oCmd eAppend) ∧ (sCmd eAppend).slabIdx (oCmd eAppend) = some 2 ∧
    (sCmd eAppend).slabFree 2 0 false = true ∧ (sCmd eAppend).slabReady 2 0 = true ∧ (sCmd eAppend).hq.cqAnswer = true ∧
    (sCmd eAppend).appendOwn eAppend (oCmd eAppend) = none ∧ Sqe.fXts eAppend = false := by and_intros <;> decide +kernel
theorem wit_WriteCommandsStart_xts : Startable sXts 3 7 (oCmd eXts) ∧ sXts.slabIdx (oCmd eXts) = some 2 ∧
    sXts.slabFree 2 0 false = true ∧ sXts.slabReady 2 0 = true ∧ sXts.appendOwn eXts (oCmd eXts) = none ∧ Sqe.fXts eXts = true ∧
    (sXts.takeKey false (Sqe.kslot eXts)).1 = some 1 := by and_intros <;> decide +kernel
theorem wit_WriteCommandsStart_overwrite : Startable (sCmd eOverwrite) 3 7 (oCmd eOverwrite) ∧ (sCmd eOverwrite).slabIdx (oCmd eOverwrite) = some 2 ∧
    (sCmd eOverwrite).slabFree 2 0 false = true ∧ (sCmd eOverwrite).overwriteOwn eOverwrite (oCmd eOverwrite) = none := by
  and_intros <;> decide +kernel
theorem test_append_starts : after (.append 3 7 true) (sCmd eAppend) (fun t =>
    decide (t.op 3 7 = some { oCmd eAppend with started := true, first := 5, base := 5 })) = true := by decide +kernel
theorem test_append_takes_key : after (.append 3 7 true) sXts (fun t => match t.op 3 7, (t.cslot 6).cur with
    | some x, some g => decide (x.keyGen = some (6, 1) ∧ g.refs = 1) | _, _ => false) = true := by decide +kernel
theorem test_overwrite_starts : after (.overwrite 3 7 true) (sCmd eOverwrite) (fun t =>
    decide (t.op 3 7 = some { oCmd eOverwrite with started := true, first := 4 })) = true := by decide +kernel

/-- An INLINE READ of grain 1 of slab 2. -/
def eRead : BitVec 512 := entry [(0, 2), (17, 1), (32, 2), (64, 1), (96, 1024)]
/-- The grain staged; and the same with the grain on flash, its link (of die 0 of tile 0) ACTIVE. -/
def sReadStaged : State :=
  let s := sCmd eRead
  { s with staged := [{ slab := 2, grain := 1, region := 0, band := 1, at_ := 1, data := [9], issued := true }] }
def sReadFlash : State := (sCmd eRead).setLink 1 { st := .active, dies := 1 }
theorem wit_ReadServesGrain : Startable sReadStaged 3 7 (oCmd eRead) ∧ Posting sReadStaged 3 ∧ sReadStaged.readOwn eRead (oCmd eRead) = none ∧
    sReadStaged.readReady 2 0 1 2 = true ∧ sReadStaged.grainAt 2 1 = some (0, 1, 1) ∧ ((sReadStaged.stagedAt 0 1 1).map Staged.poison) = some false := by
  and_intros <;> decide +kernel
theorem wit_ReadServesGrain_flash : Startable sReadFlash 3 7 (oCmd eRead) ∧ sReadFlash.stagedAt 0 1 1 = none ∧ sReadFlash.cached 2 1 = none ∧ sReadFlash.jr.holdStep = 0 ∧
    sReadFlash.grainAt 2 1 = some (0, 1, 1) ∧ sReadFlash.reachable (sReadFlash.loc 0 1 1) = true ∧ (sReadFlash.loc 0 1 1).link = 1 ∧
    (sReadFlash.link 1).retraining = none ∧ (sReadFlash.link 1).onLadder (sReadFlash.loc 0 1 1) = none ∧ (sReadFlash.link 1).freeCid = some 0 := by
  and_intros <;> decide +kernel
theorem test_read_staged : after (.read 3 7 .ok true) sReadStaged (fun t =>
    t.out.contains (.hostWrite 3 7 0 none [9]) && decide (t.op 3 7 = none ∧ (t.queue 3).cqTail = 1) &&
    t.out.contains (nextEntry sReadStaged 3 7 .success 0x00 1024 false)) = true := by decide +kernel
theorem test_read_flash : after (.read 3 7 .ok true) sReadFlash (fun t =>
    (match mget none (t.link 1).cmds 0 with | some m => decide (m.op = .readPage ∧ m.why = .hostRead 3 7 [(1, 1)] ∧ m.page = 0) | none => false) &&
    (match t.op 3 7 with | some x => decide (x.want = [1]) | none => false)) = true := by decide +kernel

/-- Commands on slabs 2 and 3. -/
def eOpenSlab : BitVec 512 := entry [(0, 4), (32, 3)]
def eClose : BitVec 512 := entry [(0, 5), (32, 2)]
def eReset : BitVec 512 := entry [(0, 6), (32, 2)]
def eFlush : BitVec 512 := entry [(0, 7), (32, 2)]
theorem wit_SlabAndFlushCommands_SlabStateCommands_close : Startable (sCmd eClose) 3 7 (oCmd eClose) ∧ Posting (sCmd eClose) 3 ∧ flagsOk eClose = true ∧
    (sCmd eClose).slabIdx (oCmd eClose) = some 2 ∧ (sCmd eClose).journalRoom 8 = true ∧ ((sCmd eClose).slab 2).st = .opened ∧
    mget [] (sCmd eClose).st.tails 2 = [] ∧ mget none (sCmd eClose).st.moves 2 = none := by and_intros <;> decide +kernel
theorem test_close : after (.closeSlab 3 7 true) (sCmd eClose) (fun t =>
    decide ((t.slab 2).st = .full ∧ (t.slab 2).wp = 5 ∧ (t.band 0 1).st = .closed) &&
    t.out.contains (nextEntry (sCmd eClose) 3 7 .success 0x00 5 false)) = true := by decide +kernel
/-- The same store with a small spare reserve in force and the region's eight links of offset 0 ACTIVE. -/
def sRoomy (e : BitVec 512) : State :=
  let s := (List.range 8).foldl (fun (s : State) t => s.setLink (8 * t) { st := .active, dies := 1 }) (sCmd e)
  { s with dict := { s.dict with vals := [(0x040010, [0, 0, 0, 0])] } }
theorem wit_SlabAndFlushCommands_SlabStateCommands_reset : Startable (sRoomy eReset) 3 7 (oCmd eReset) ∧ ((sRoomy eReset).slab 2).st = .opened ∧
    (sRoomy eReset).slabFree 2 0 true = true ∧ (sRoomy eReset).slabReady 2 0 = true ∧ (sRoomy eReset).journalRoom 8 = true ∧ (sRoomy eReset).emptyRoom 2 = true ∧
    ((sRoomy eReset).band 0 1).st ≠ .free ∧ mget none (sRoomy eReset).st.moves 2 = none ∧ (sRoomy eReset).st.logs = [] ∧
    (let u := ((sRoomy eReset).setOp 3 7 (some { oCmd eReset with started := true, listOk := true, waiting := none })).emptySlab 2;
        (u.spareReserve : Int) ≤ u.sparePool) := by and_intros <;> decide +kernel
theorem test_reset_slab : after (.resetSlab 3 7 true) (sRoomy eReset) (fun t =>
    decide (t.slab 2 = { st := .empty } ∧ (t.queue 3).cqTail = 1)) = true := by decide +kernel
theorem wit_SlabAndFlushCommands_SlabStateCommands_open : Startable (sRoomy eOpenSlab) 3 7 (oCmd eOpenSlab) ∧ ((sRoomy eOpenSlab).slab 3).st = .empty ∧
    (sRoomy eOpenSlab).place? = some (0, 0) ∧ (List.range 8).any (sRoomy eOpenSlab).passes12 = true ∧
    (sRoomy eOpenSlab).journalRoom 8 = true := by and_intros <;> decide +kernel
theorem test_open_slab : after (.openSlab 3 7 true) (sRoomy eOpenSlab) (fun t =>
    decide ((t.slab 3).st = .opened ∧ (t.slab 3).band = 0 ∧ (t.band 0 0).taken = true ∧ (t.band 0 0).checking = List.range 8 ∧ (t.queue 3).cqTail = 1)) = true := by decide +kernel

/-- Slab 2 holds a stream tail of four bytes. -/
def sTail : State :=
  let s := sCmd eFlush
  { s with st := { s.st with tails := [(2, [1, 2, 3, 4])] } }
theorem wit_SlabAndFlushCommands_FlushStoresTail : Startable sTail 3 7 (oCmd eFlush) ∧ flagsOk eFlush = true ∧ mget [] sTail.st.tails 2 ≠ [] ∧
    sTail.appendPlace 2 = some (0, 1) ∧ (unitGrains (krfSlab (mget [] sTail.st.tails 2))).length = 1 ∧
    sTail.canStage 0 1 1 0 4 0 = true ∧ (sTail.band 0 1).st = .opened ∧ sTail.staged = [] ∧ mget [] (sCmd eFlush).st.tails 2 = [] ∧
    Startable (sCmd eFlush) 3 7 (oCmd eFlush) := by and_intros <;> decide +kernel
theorem test_flush_tail : after (.flushTail 3 7 true) sTail (fun t =>
    decide (mget [] t.st.tails 2 = [] ∧ (t.slab 2).wp = 6 ∧ t.staged.length = 1) &&
    t.out.contains (nextEntry sTail 3 7 .success 0x00 (writeResult 5 1 0 0) false)) = true := by decide +kernel
theorem test_flush_nothing : after (.flushTail 3 7 true) (sCmd eFlush) (fun t =>
    decide (t.staged = []) && t.out.contains (nextEntry (sCmd eFlush) 3 7 .success 0x00 0 false)) = true := by decide +kernel

/-- A byte-stream pipeline of one digest per range, at level 3 with ORDER. -/
def bPipe : Bytes := [1, 0, 1, 0, 0, 0, 0, 0, 1, 3] ++ List.replicate 54 0 ++ [5, 1] ++ List.replicate 254 0
/-- A RUN of handle 1 over one range: grains 0 to 3 of slab 2, with 4,096 bytes of room at the host. -/
def eRun : BitVec 512 := entry [(0, 8), (32, 2), (96, 4096), (288, 1), (304, 1)]
def bRange : Bytes := [2, 0, 0, 0, 0, 0, 0, 0, 4, 0, 0, 0, 0, 0, 0, 0]
def oRun : Op := { sqe := eRun, checked := true, rlist := .ok bRange }
def sRun : State :=
  let s := (sCmd eRun).setOp 3 7 (some oRun)
  { s with ld := { s.ld with progs := [(progKey 0 1, some (.pipeline bPipe))] } }
theorem wit_RunIsAdmittedAndStarts : (sRun.setOp 3 7 (some (oCmd eRun))).op 3 7 = some (oCmd eRun) ∧
    (sRun.setOp 3 7 (some (oCmd eRun))).orderOk 3 7 (oCmd eRun) = true ∧
    (sRun.setOp 3 7 (some (oCmd eRun))).commonRefusal 3 eRun = none ∧
    (sRun.setOp 3 7 (some (oCmd eRun))).runOwn eRun (oCmd eRun) = none := by and_intros <;> decide +kernel
theorem wit_RunIsAdmittedAndStarts_start : sRun.op 3 7 = some oRun ∧ Sqe.fResume eRun = false ∧
    sRun.orderOk 3 7 oRun = true ∧ oRun.rlist = .ok bRange ∧ sRun.pipeOf 0 1 = some bPipe ∧ runHandle eRun = 1 ∧
    sRun.runStartRefusal oRun bPipe oRun.ranges [] = none ∧
    sRun.runReady oRun oRun.ranges = true ∧ sRun.runLimitOk 0 = true ∧ toSlabRun eRun = false ∧
    rangeEntries (runCount eRun) bRange = [(2, 0, 4)] ∧ Sqe.fInline eRun = false ∧ Sqe.length eRun = 4096 := by and_intros <;> decide +kernel
theorem test_run_waits : after (.run 3 7 true) (sRun.setOp 3 7 (some (oCmd eRun))) (fun t =>
    decide (t.op 3 7 = some { sqe := eRun, checked := true })) = true := by
  decide +kernel
theorem test_run_starts : after (.runStart 3 7 (.ok []) (.ok []) (.ok []) true) sRun (fun t =>
    match t.runOf (opKey 3 7) with | some r => decide (r.ranges = [(2, 0, 4)] ∧ r.cap = some 4096 ∧ r.runs = 1) | none => false) = true := by
  decide +kernel

/-- Loads of a 320-byte descriptor, INLINE, into the program store, and a drop of handle 1. -/
def ePipeLoad : BitVec 512 := entry [(0, 9), (8, 1), (17, 1), (96, 320)]
def eProgLoad : BitVec 512 := entry [(0, 9), (17, 1), (96, 24)]
def eDrop : BitVec 512 := entry [(0, 10), (288, 1)]
/-- A program of one label and one instruction, DONE (0x36BFFFF0; R234, R271). -/
def bProg : Bytes := [0x31, 0x54, 0x59, 0x50, 1, 0, 1, 0, 4, 0, 0, 0, 0, 0, 0, 0, 20, 0, 0, 0, 0xF0, 0xFF, 0xBF, 0x36]
theorem wit_ProgramStoreCommands : DataHere (sCmd ePipeLoad) 3 7 (oCmd ePipeLoad) ((sCmd ePipeLoad).loadOwn ePipeLoad (oCmd ePipeLoad)) ∧
    (sCmd ePipeLoad).freeHandle 0 = some 1 ∧ (sCmd ePipeLoad).checkPipeline 0 (slice bPipe 0 (Sqe.length ePipeLoad)) = [] := by
  and_intros <;> decide +kernel
theorem test_pipeline_load : after (.pipelineDescriptorLoad 3 7 (.ok bPipe) .ok true) (sCmd ePipeLoad) (fun t =>
    decide (t.prog 0 1 = some (.pipeline bPipe)) && t.out.contains (nextEntry (sCmd ePipeLoad) 3 7 .success 0x00 1 false)) = true := by
  decide +kernel

theorem wit_ProgramStoreCommands_program : DataHere (sCmd eProgLoad) 3 7 (oCmd eProgLoad) ((sCmd eProgLoad).loadOwn eProgLoad (oCmd eProgLoad)) ∧
    (sCmd eProgLoad).freeHandle 0 = some 1 ∧ (checkProgram (slice bProg 0 (Sqe.length eProgLoad))).1 = [] := by and_intros <;> decide +kernel
theorem test_program_load : after (.programLoad 3 7 (.ok bProg) .ok true) (sCmd eProgLoad) (fun t =>
    decide (t.prog 0 1 = some (.program bProg [20] [20]))) = true := by decide +kernel
def sDrop : State := { sCmd eDrop with ld := { (sCmd eDrop).ld with progs := [(progKey 0 1, some (.pipeline bPipe))] } }
theorem wit_ProgramStoreCommands_drop : Startable sDrop 3 7 (oCmd eDrop) ∧ flagsOk eDrop = true ∧ (sDrop.prog 0 1).isSome = true ∧
    sDrop.handleBusy 0 1 = false := by and_intros <;> decide +kernel
theorem test_program_drop : after (.programDrop 3 7 true) sDrop (fun t => decide (t.prog 0 1 = none ∧ t.op 3 7 = none)) = true := by decide +kernel

/-! ### Keys (14, 15) -/

/-- KEY commands on slot 6, INLINE. -/
def eKey (subop : Nat) : BitVec 512 := entry [(0, 11), (8, subop), (17, if subop % 2 = 0 then 1 else 0), (96, 32), (256, 6)]
/-- Key material whose halves differ. -/
def bKey : Bytes := List.replicate 16 1 ++ List.replicate 16 2
theorem wit_KeyLoadsAndZeroise_KeyLoadsInstallGenerations : DataHere (sCmd (eKey 0)) 3 7 (oCmd (eKey 0)) ((sCmd (eKey 0)).keyOwn (eKey 0) (oCmd (eKey 0))) ∧
    ((sCmd (eKey 0)).cslot 6).load = none ∧ halvesEqual (slice bKey 0 (Sqe.length (eKey 0))) = false ∧ Sqe.kslot (eKey 0) = 6 ∧
    DataHere (sCmd (eKey 2)) 3 7 (oCmd (eKey 2)) ((sCmd (eKey 2)).keyOwn (eKey 2) (oCmd (eKey 2))) ∧ ((sCmd (eKey 2)).hslot 6).load = none := by
  and_intros <;> decide +kernel
theorem test_cipher_load : after (.cipherLoad 3 7 (.ok bKey) true) (sCmd (eKey 0)) (fun t => decide ((t.cslot 6).load = some (bKey, 3, 7))) = true := by
  decide +kernel
theorem test_hmac_load : after (.hmacLoad 3 7 (.ok bKey) true) (sCmd (eKey 2)) (fun t => decide ((t.hslot 6).load = some (bKey, 3, 7))) = true := by
  decide +kernel
/-- The load of slot 6 by the command of tag 7, its old generation still referenced. -/
def sLoading : State := (sCmd (eKey 0)).setCslot 6 { cur := some { num := 1, key := [5], refs := 1 }, gens := 1, load := some (bKey, 3, 7) }
def sHmacLoading : State := (sCmd (eKey 2)).setHslot 6 { load := some (bKey, 3, 7) }
theorem wit_KeyLoadsAndZeroise_KeyLoadsInstallGenerations_done : (sLoading.cslot 6).load = some (bKey, 3, 7) ∧ (sLoading.cslot 6).old = none ∧ Posting sLoading 3 ∧
    sLoading.op 3 7 = some (oCmd (eKey 0)) ∧ (sHmacLoading.hslot 6).load = some (bKey, 3, 7) ∧ (sHmacLoading.hslot 6).old = none := by
  and_intros <;> decide +kernel
theorem test_schedule_done : after (.keyScheduleDone false 6 true) sLoading (fun t => match (t.cslot 6).cur, (t.cslot 6).old with
    | some g, some h => decide (g.key = bKey ∧ g.num = 2 ∧ h.num = 1 ∧ (t.queue 3).cqTail = 1) | _, _ => false) = true := by decide +kernel
theorem test_hmac_schedule : after (.keyScheduleDone true 6 true) sHmacLoading (fun t => match (t.hslot 6).cur with
    | some g => decide (g.key = [] ∧ g.inner.length = 8 ∧ (t.hslot 6).load = none) | none => false) = true := by decide +kernel
def sZero : State := ((sCmd (eKey 1)).setCslot 6 { cur := some { num := 1, key := bKey }, gens := 1 })
def sHmacZero : State := ((sCmd (eKey 3)).setHslot 6 { cur := some { num := 1, key := [] }, gens := 1 })
theorem wit_KeyLoadsAndZeroise_ZeroiseEmptiesSlot : Startable sZero 3 7 (oCmd (eKey 1)) ∧ sZero.keyOwn (eKey 1) (oCmd (eKey 1)) = none ∧ sZero.ld.runs = [] ∧
    sZero.ld.regions = [] ∧ sZero.tiles = [] ∧ (sZero.cslot 6).load = none ∧ Startable sHmacZero 3 7 (oCmd (eKey 3)) ∧
    sHmacZero.keyOwn (eKey 3) (oCmd (eKey 3)) = none := by and_intros <;> decide +kernel
theorem wit_KeyLoadsAndZeroise_ZeroiseEmptiesSlot_free : ∀ e ∈ sZero.hq.ops, ∀ a, e.2 = some a → a.keyGen = none :=
  onlyOp (k := opKey 3 7) (o := oCmd (eKey 1)) (by decide +kernel) (by decide)
theorem test_zeroise : after (.cipherZeroise 3 7 true) sZero (fun t => decide ((t.cslot 6).cur = none ∧ t.op 3 7 = none)) = true := by decide +kernel
theorem test_hmac_zeroise : after (.hmacZeroise 3 7 true) sHmacZero (fun t => decide ((t.hslot 6).cur = none ∧ t.op 3 7 = none)) = true := by decide +kernel

/-! ### The CAM (16) -/

/-- A CAM command with its request INLINE. -/
def eCam (subop : Nat) : BitVec 512 := entry [(0, 12), (8, subop), (17, 1), (96, 48)]
/-- Key 5 of 128 exact bits in context 3, PRIO 2, RESULT 9. -/
def bCam : Bytes := natLe 16 5 ++ List.replicate 16 0xFF ++ natLe 2 3 ++ natLe 2 2 ++ natLe 4 0 ++ natLe 8 9
/-- Instance 0 has contexts 0 to 7, places 16 to 31 and room for 8 entries; the entries given stand in the table. -/
def sCam (subop : Nat) (places : SMap Place) : State :=
  let s := sCmd (eCam subop)
  let s := s.setInst 0 { s.inst 0 with camCount := 8, camQuota := 8, camStart := 16, camLen := 16 }
  { s with cam := { s.cam with places := places } }
/-- The entry of the request with RESULT 1, at place 16. -/
def oldPlace : Place := { (camReq bCam).place with result := 1 }

theorem wit_CamCommandsChangeEntries : DataHere (sCam 1 []) 3 7 (oCmd (eCam 1)) (camOwn (eCam 1)) ∧ (sCam 1 []).camEarlier 3 (oCmd (eCam 1)) = false ∧
    (sCam 1 []).cam.changing = false ∧ (sCam 1 []).cam.placing = [] ∧ ((sCam 1 []).inst 0).hasCam (camReq bCam).ctx = true ∧
    ((sCam 1 []).inst 0).camAz128 = false ∧ ((sCam 1 []).cam.regionEntries ((sCam 1 []).inst 0)).length < ((sCam 1 []).inst 0).camQuota ∧
    (sCam 1 []).cam.nativeRoom ((sCam 1 []).inst 0) (camReq bCam).place = some (16, []) ∧ (sCam 1 []).cam.inServ 16 = true := by
  and_intros <;> decide +kernel
theorem wit_CamCommandsChangeEntries_there : DataHere (sCam 2 [(16, oldPlace)]) 3 7 (oCmd (eCam 2)) (camOwn (eCam 2)) ∧
    (match (sCam 2 [(16, oldPlace)]).cam.target ((sCam 2 [(16, oldPlace)]).inst 0) (camReq bCam) with
      | .ok x => decide (x = some (16, oldPlace)) | .error _ => false) = true ∧
    (sCam 2 [(16, oldPlace)]).cam.entryAt 16 = some (16, oldPlace) := by and_intros <;> decide +kernel
theorem test_cam_insert : after (.camInsert 3 7 (.ok bCam) true) (sCam 1 []) (fun t =>
    decide (t.place 16 = (camReq bCam).place ∧ (t.queue 3).cqTail = 1)) = true := by decide +kernel
theorem test_cam_delete : after (.camDelete 3 7 (.ok bCam) true) (sCam 2 [(16, oldPlace)]) (fun t =>
    decide (t.place 16 = {} ∧ (t.queue 3).cqTail = 1)) = true := by decide +kernel
theorem test_cam_update : after (.camUpdate 3 7 (.ok bCam) true) (sCam 3 [(16, oldPlace)]) (fun t =>
    decide ((t.place 16).result = 9 ∧ (t.place 16).key = 5)) = true := by decide +kernel
theorem test_cam_read : after (.camRead 3 7 (.ok bCam) .ok true) (sCam 4 [(16, oldPlace)]) (fun t =>
    t.out.contains (.auxWrite 3 7 0 none (oldPlace.block 0))) = true := by decide +kernel
theorem test_cam_clear : after (.camClear 3 7 (.ok bCam) true) (sCam 5 [(16, oldPlace), (17, { oldPlace with ctx := 4 })]) (fun t =>
    decide ((t.place 16).valid = false ∧ (t.place 17).valid = true) &&
    t.out.contains (nextEntry (sCam 5 []) 3 7 .success 0x00 1 false)) = true := by decide +kernel
theorem wit_CamSearchesMovesAndFailures_CamSearchAnswers : DataHere (sCam 0 []) 3 7 (oCmd (eCam 0)) (camOwn (eCam 0)) ∧ (sCam 0 []).camEarlier 3 (oCmd (eCam 0)) = false ∧
    (mget [] (sCam 0 []).cam.waiting 8) = [] ∧ (sCam 0 []).cam.flying = [] := by and_intros <;> decide +kernel
/-- The search of the command waits at the host port, whose turn it is; and it is under way, with its response. -/
def sSearch : State :=
  let s := sCam 0 [(16, oldPlace)]
  { s with cam := { s.cam with waiting := [(8, [{ key := 5, ctx := 3, inst := 0, cmd := some (3, 7) }])], nextPort := 8 } }
def sFlying : State := match exec .searchStart sSearch with | .next t => t | _ => sSearch
theorem wit_CamSearchesMovesAndFailures_CamSearchAnswers_start : sSearch.cam.nextPort = 8 ∧ sSearch.portSearch 8 = some ({ key := 5, ctx := 3, inst := 0, cmd := some (3, 7) }, []) ∧
    (match sFlying.cam.flying with | x :: _ => decide (x.core = none ∧ x.cmd = some (3, 7)) | [] => false) = true ∧
    sFlying.op 3 7 = some (oCmd (eCam 0)) ∧ Posting sFlying 3 ∧ Sqe.aptr (eCam 0) = 0 := by and_intros <;> decide +kernel
theorem test_cam_search : after (.camSearch 3 7 (.ok bCam) true) (sCam 0 []) (fun t =>
    match mget [] t.cam.waiting 8 with | [y] => decide (y.key = 5 ∧ y.ctx = 3 ∧ y.cmd = some (3, 7)) | _ => false) = true := by decide +kernel
theorem test_search_hit : after (.searchResponse .ok true) sFlying (fun t =>
    t.out.contains (nextEntry sFlying 3 7 .success 0x00 1 false) && decide (t.now = 23)) = true := by decide +kernel

/-- Core 0 runs item 1, whose search with D at 0x40 of its bank 0 is under way. -/
def sCamsFlying : State :=
  let k : Core := { item := some { seq := 1 }, mode := .running, camsOut := 1 }
  let s := ((sCam 0 []).setCore 0 k).setBank 0 0 { kind := 1 }
  { s with cam := { s.cam with flying := [{ key := 5, ctx := 3, inst := 0, core := some (0, 1, 0x40), resp := some 9 }] } }
theorem wit_CamSearchesMovesAndFailures_CamSearchAnswers_core : (sCamsFlying.cam.flying).map (·.core) = [some (0, 1, 0x40)] ∧
    (sCamsFlying.core 0).item = some { seq := 1 } ∧ sCamsFlying.hq.cqAnswer = true := by and_intros <;> decide +kernel
theorem test_cams_response : after (.searchResponse .ok true) sCamsFlying (fun t =>
    decide ((t.core 0).evp = 4 ∧ (t.core 0).camsOut = 0 ∧ t.peek 0 0x40 2 = [9, 0])) = true := by decide +kernel

/-- Two moves are due, the first from place 16 to 20. -/
def sMoving : State :=
  let s := sCam 1 [(16, oldPlace)]
  { s with cam := { s.cam with moves := [(16, 20), (30, 30)] } }
theorem wit_CamSearchesMovesAndFailures_CamMovesAndFailures : sMoving.cam.moves = [(16, 20), (30, 30)] ∧ sMoving.cam.entryAt 16 = some (16, oldPlace) ∧
    sMoving.cam.inServ 20 = true ∧ (sMoving.place 20).valid = false ∧ sMoving.cam.placing = [] := by and_intros <;> decide +kernel
theorem test_cam_move : after (.camMove true) sMoving (fun t =>
    decide ((t.place 20).result = 1 ∧ (t.place 16).valid = false ∧ t.cam.moves = [(30, 30)] ∧ t.cam.moved = 1)) = true := by decide +kernel
/-- DRAM present; segment 0 failed its parity once, at time 0. -/
def sParity (fails : SMap Nat) : State :=
  let s := sCam 1 [(16, oldPlace)]
  { s with hq := { s.hq with dramPresent := true }, cam := { s.cam with failAt := fails } }
theorem wit_CamSearchesMovesAndFailures_CamMovesAndFailures_parity : (sParity []).cam.scanEn = true ∧ bit (sParity []).cam.inService (16 / Config.camSegPlaces) = true ∧
    mget 0 (sParity []).cam.failAt (16 / Config.camSegPlaces) = 0 ∧ mget 0 (sParity [(0, 1)]).cam.failAt (16 / Config.camSegPlaces) = 1 ∧
    (sParity [(0, 1)]).now + 1 < 1 + 1000000000 := by and_intros <;> decide +kernel
theorem test_parity_counts : after (.camParityScan (some 16)) (sParity []) (fun t =>
    decide (t.cam.parity = 1 ∧ t.cam.errValid = true ∧ t.cam.errSeg = 0 ∧ t.place 16 = oldPlace)) = true := by decide +kernel
theorem test_parity_retires : after (.camParityScan (some 16)) (sParity [(0, 1)]) (fun t =>
    decide (bit t.cam.inService 0 = false ∧ t.cam.placing = [0] ∧ (t.place 16).valid = false)) = true := by decide +kernel
def sPlacing : State := { State.reset with cam := { State.reset.cam with placing := [0] } }
theorem wit_CamSearchesMovesAndFailures_CamMovesAndFailures_placing : sPlacing.cam.placing.contains 0 = true ∧ sPlacing.cam.directory = [] ∧ sPlacing.ld.runs = [] ∧
    sPlacing.ld.regions = [] ∧ sPlacing.tiles = [] := by and_intros <;> decide +kernel
theorem test_placing_done : after (.camSegmentPlacingDone 0) sPlacing (fun t => decide (t.cam.placing = [])) = true := by decide +kernel

/-! ### Custodian commands (03) -/

/-- Custodian command `e` fetched in queue 0 under tag 7; queue 5 is ACTIVE for instance 2, and so is instance 2. -/
def sAdm (e : BitVec 512) : State :=
  let s := ((sStore.setQueue 0 { st := .active }).setQueue 5 { st := .active, inst := 2 }).setInst 2 { st := .active, extents := [(16, 4)], keyBase := 100, keyCount := 2 }
  (({ s with st := { s.st with exported := 64 }, dict := { s.dict with vals := [(0x040010, [0, 0, 0, 0])] } } : State)).setOp 0 7 (some { sqe := e })
/-- INSTANCE_CREATE of instance 1 with 8 slabs and a quota of 32. -/
def eCreate : BitVec 512 := entry [(0, 0x80), (288, 1), (320, 8), (352, 32)]
def eInstReset (keep : Nat) : BitVec 512 := entry [(0, 0x82), (288, 2), (296, keep)]
def eInstDelete : BitVec 512 := entry [(0, 0x81), (288, 2)]
theorem wit_InstanceLifecycle : Startable (sAdm eCreate) 0 7 (oCmd eCreate) ∧ Posting (sAdm eCreate) 0 ∧ flagsOk eCreate = true ∧
    fInstance eCreate = 1 ∧ Sqe.field eCreate 44 4 = 32 ∧ ((sAdm eCreate).inst 1).st = .free ∧ (sAdm eCreate).slabSum + 8 ≤ (sAdm eCreate).st.exported ∧
    lowestFree (sAdm eCreate).allExtents Config.slabEntries 8 0 8 = [(20, 8)] ∧ covered [(20, 8)] = 8 ∧ (sAdm eCreate).journalRoom 8 = true ∧
    ((sAdm eCreate).spareReserve : Int) + 8 ≤ (sAdm eCreate).sparePool ∧ mwf {} (sAdm eCreate).hq.insts = true ∧
    (∀ e ∈ (sAdm eCreate).st.slabs, [(20, 8)].any (fun x : Nat × Nat => decide (x.1 ≤ e.1 ∧ e.1 < x.1 + x.2)) = false) := by
  and_intros <;> decide +kernel
theorem test_instance_create : after (.instanceCreate 0 7 true) (sAdm eCreate) (fun t =>
    decide (t.inst 1 = { st := .active, quota := 32, extents := [(20, 8)] } ∧ (t.queue 0).cqTail = 1)) = true := by decide +kernel
theorem wit_InstanceLifecycle_reset : Startable (sAdm (eInstReset 0)) 0 7 (oCmd (eInstReset 0)) ∧ ((sAdm (eInstReset 0)).inst 2).st = .active ∧
    fInstance (eInstReset 0) = 2 ∧ Quiet (sAdm (eInstReset 0)) ∧ (sAdm (eInstReset 0)).tiles = [] ∧ (sAdm (eInstReset 0)).ld.regions = [] ∧
    (sAdm (eInstReset 0)).keys.cipher = [] ∧ (sAdm (eInstReset 0)).keys.hmac = [] ∧ ((sAdm (eInstReset 0)).queue 5).listens = true ∧
    ((sAdm (eInstReset 0)).inst 2).hasCipher 100 = true ∧ (Sqe.field (eInstReset 1) 37 1 % 2 = 1) ∧ (Sqe.field (eInstReset 0) 37 1 % 2 = 0) := by
  and_intros <;> decide +kernel
theorem wit_InstanceLifecycle_ops : ∀ e ∈ (sAdm (eInstReset 0)).hq.ops, ∀ a, e.2 = some a → a.inst ≠ 2 ∧ a.keyGen = none :=
  onlyOp (k := opKey 0 7) (o := oCmd (eInstReset 0)) (by decide +kernel) (by decide)
theorem wit_InstanceLifecycle_delete : Startable (sAdm eInstDelete) 0 7 (oCmd eInstDelete) ∧ fInstance eInstDelete = 2 ∧
    (sAdm eInstDelete).journalRoom 8 = true := by and_intros <;> decide +kernel
theorem test_instance_reset : after (.instanceReset 0 7 true) (sAdm (eInstReset 1)) (fun t =>
    decide ((t.inst 2).st = .resetting ∧ (t.inst 2).keepKeys = true ∧ (t.inst 2).resetOp = some (0, 7) ∧ (t.queue 5).drain = .instReset)) = true := by
  decide +kernel
theorem test_instance_delete : after (.instanceDelete 0 7 true) (sAdm eInstDelete) (fun t =>
    decide ((t.inst 2).st = .resetting ∧ (t.inst 2).resetDelete = true ∧ (t.queue 5).drain = .instDelete)) = true := by decide +kernel
/-- The reset, or delete, of instance 2 with nothing of the instance left. -/
def sResetting (delete : Bool) : State :=
  let s := (sAdm (eInstReset 0)).setQueue 5 {}
  let s := s.setOp 0 7 (some { oCmd (eInstReset 0) with started := true })
  s.setInst 2 { s.inst 2 with st := .resetting, resetOp := some (0, 7), resetDelete := delete, extents := if delete then [] else [(16, 4)] }
theorem wit_InstanceLifecycle_complete : (sResetting true).op 0 7 = some { oCmd (eInstReset 0) with started := true } ∧
    ((sResetting true).inst 2).st = .resetting ∧ ((sResetting true).inst 2).resetOp = some (0, 7) ∧
    (∀ e ∈ (sResetting true).hq.queues, e.2.inst ≠ 2 ∨ e.2.st ≠ .draining) ∧ ((sResetting true).inst 2).resetDelete = true ∧
    ((sResetting false).inst 2).resetDelete = false ∧ Quiet (sResetting true) ∧ (sResetting true).slabsOf 2 = [] ∧
    ((sResetting true).spareReserve : Int) ≤ (sResetting true).sparePool ∧ mwf {} (sResetting true).hq.insts = true := by
  and_intros <;> decide +kernel
theorem wit_InstanceLifecycle_complete_ops : ∀ e ∈ (sResetting true).hq.ops, ∀ a, e.2 = some a → a.inst ≠ 2 :=
  onlyOp (k := opKey 0 7) (o := { oCmd (eInstReset 0) with started := true }) (by decide +kernel) (by decide)
theorem test_reset_completes : after (.instanceResetComplete 2 true) (sResetting false) (fun t =>
    decide ((t.inst 2).st = .active ∧ (t.inst 2).resetOp = none ∧ t.op 0 7 = none)) = true := by decide +kernel
theorem test_delete_completes : after (.instanceResetComplete 2 true) (sResetting true) (fun t =>
    decide (t.inst 2 = {} ∧ t.op 0 7 = none)) = true := by decide +kernel
/-- An ordered flow of instance 2 is left over. -/
def sLeak : State := { sResetting false with ld := { (sResetting false).ld with flows := [(9, some { inst := 2 })] } }
theorem wit_InstanceLifecycle_leak : (sLeak.inst 2).st = .resetting ∧ sLeak.flowsOf 2 ≠ 0 := by and_intros <;> decide +kernel
theorem test_leak_returned : after (.instanceResetTimeout 2) sLeak (fun t =>
    decide (t.health.mismatches = 1 ∧ t.now = 5000000) && (match t.health.events with | e :: _ => decide (e.kind = 0x80 ∧ e.arg = 5) | [] => false) &&
    t.ld.flows.all (fun e => match e.2 with | some f => decide (f.inst ≠ 2) | none => true)) = true := by decide +kernel

/-- QUEUE_CREATE of queue 6 for instance 2: class 1, weight 4, vector 9; QUEUE_DELETE of queue 5. -/
def eQCreate : BitVec 512 := entry [(0, 0x83), (128, 0x10000), (192, 0x20000), (288, 6), (304, 2), (312, 1), (320, 4), (336, 9)]
def eQDelete : BitVec 512 := entry [(0, 0x84), (288, 5)]
theorem wit_QueueCommands : Startable (sAdm eQCreate) 0 7 (oCmd eQCreate) ∧ Posting (sAdm eQCreate) 0 ∧ flagsOk eQCreate = true ∧
    Sqe.field eQCreate 36 2 = 6 ∧ Sqe.field eQCreate 38 1 = 2 ∧ bits (Sqe.dptr eQCreate) 0 12 = 0 ∧ bits (Sqe.aptr eQCreate) 0 12 = 0 ∧
    ((sAdm eQCreate).queue 6).st = .disabled ∧ ((sAdm eQCreate).inst 2).st ≠ .free ∧ Sqe.field eQCreate 42 2 % 2048 ≠ 0 ∧
    (∀ k : Fin 4, ((sAdm eQCreate).frameInst (4 + k)).all (fun j => decide (j = 2)) = true) := by and_intros <;> decide +kernel
theorem wit_QueueCommands_delete : Startable (sAdm eQDelete) 0 7 (oCmd eQDelete) ∧ ((sAdm eQDelete).queue 5).listens = true ∧
    (sAdm eQDelete).unstarted 5 = [] := by and_intros <;> decide +kernel
theorem test_queue_create : after (.queueCreate 0 7 true) (sAdm eQCreate) (fun t =>
    decide (t.queue 6 = { st := .active, inst := 2, cls := 1, weight := 4, vector := 9, sqBase := 0x10000, cqBase := 0x20000, phase := true })) = true := by
  decide +kernel
theorem test_queue_delete : after (.queueDelete 0 7 true) (sAdm eQDelete) (fun t =>
    decide ((t.queue 5).st = .draining ∧ (t.queue 5).drain = .delete ∧ (t.queue 0).cqTail = 1)) = true := by decide +kernel

/-- PASID_BIND and UNBIND of instance 4, which has no queue; grants of instance 2; MODERATE of vector 9. -/
def eBind (v : Nat) : BitVec 512 := entry [(0, 0x85), (288, 4), (320, v)]
def eGrant : BitVec 512 := entry [(0, 0x86), (288, 2), (320, 101), (336, 3), (352, 10), (368, 2)]
def eCamGrant : BitVec 512 := entry [(0, 0x87), (288, 2), (320, 4), (336, 4), (352, 16)]
def eModerate : BitVec 512 := entry [(0, 0x88), (288, 9), (304, 8), (320, 50)]
def sBind (v : Nat) : State := (sAdm (eBind v)).setInst 4 { st := .active }
theorem wit_GrantsAndModeration : Startable (sBind 77) 0 7 (oCmd (eBind 77)) ∧ fInstance (eBind 77) = 4 ∧ (sBind 77).queuesOff 4 = true ∧
    Sqe.field (eBind 77) 40 4 = 77 ∧ ((sBind 77).inst 4).st ≠ .free ∧
    (sBind 77).hq.insts.all (fun x => decide (x.1 = 4 ∨ x.2.pasid ≠ some 77)) = true ∧
    Startable (sBind 2147483648) 0 7 (oCmd (eBind 2147483648)) ∧ 2147483648 ≤ Sqe.field (eBind 2147483648) 40 4 := by and_intros <;> decide +kernel
theorem wit_GrantsAndModeration_keys : Startable (sAdm eGrant) 0 7 (oCmd eGrant) ∧ flagsOk eGrant = true ∧ Sqe.field eGrant 40 2 = 101 ∧ Sqe.field eGrant 42 2 = 3 ∧
    Sqe.field eGrant 44 2 = 10 ∧ Sqe.field eGrant 46 2 = 2 ∧ (sAdm eGrant).keys.cipher = [] ∧ (sAdm eGrant).keys.hmac = [] ∧ (sAdm eGrant).ld.runs = [] ∧
    (sAdm eGrant).hq.insts.all (fun x => decide (x.1 = 2) ||
        !(rangesShare 101 3 x.2.keyBase x.2.keyCount || rangesShare 10 2 x.2.hmacBase x.2.hmacCount)) = true := by and_intros <;> decide +kernel
theorem wit_GrantsAndModeration_cam : Startable (sAdm eCamGrant) 0 7 (oCmd eCamGrant) ∧ ((sAdm eCamGrant).camGranted 2 eCamGrant).isSome = true ∧
    (sAdm eCamGrant).cam.changing = false ∧ (sAdm eCamGrant).cam.regionEntries ((sAdm eCamGrant).inst 2) = [] ∧
    (sAdm eCamGrant).hq.insts.all (fun x => decide (x.1 = 2) || !rangesShare 4 4 x.2.camBase x.2.camCount) = true ∧
    Startable (sAdm eModerate) 0 7 (oCmd eModerate) ∧ Sqe.field eModerate 36 2 % 2048 = 9 ∧ Sqe.field eModerate 38 1 = 8 ∧ Sqe.field eModerate 40 2 = 50 := by
  and_intros <;> decide +kernel
theorem test_pasid_bind : after (.pasidBind 0 7 true) (sBind 77) (fun t => decide ((t.inst 4).pasid = some 77)) = true := by decide +kernel
theorem test_pasid_unbind : after (.pasidUnbind 0 7 true) ((sBind 2147483648).setInst 4 { st := .active, pasid := some 7 }) (fun t =>
    decide ((t.inst 4).pasid = none)) = true := by decide +kernel
theorem test_key_grant : after (.keyGrant 0 7 true) ((sAdm eGrant).setCslot 100 { cur := some { num := 1, key := [1] }, gens := 1 }) (fun t =>
    decide ((t.inst 2).keyBase = 101 ∧ (t.inst 2).keyCount = 3 ∧ (t.cslot 100).cur = none)) = true := by decide +kernel
theorem test_cam_grant : after (.camGrant 0 7 true) (sAdm eCamGrant) (fun t =>
    decide ((t.inst 2).camBase = 4 ∧ (t.inst 2).camCount = 4 ∧ (t.inst 2).camQuota = 16)) = true := by decide +kernel
theorem test_moderate : after (.moderate 0 7 true) (sAdm eModerate) (fun t => decide ((t.vec 9).count = 8 ∧ (t.vec 9).window = 50)) = true := by
  decide +kernel

/-- LOG_READ, DICT_READ and DICT_WRITE, their data INLINE. -/
def eLog (subop : Nat) : BitVec 512 := entry [(0, 0x89), (8, subop), (17, 1), (96, 4096), (288, 5)]
def eDict (subop num len : Nat) : BitVec 512 := entry [(0, 0x8A), (8, subop), (17, 1), (96, len), (320, num)]
theorem wit_LogsAndDictionary : DataHere (sAdm (eLog 0)) 0 7 (oCmd (eLog 0)) none ∧ flagsOk (eLog 0) = true ∧ dptrOk (eLog 0) = true ∧
    Sqe.field (eLog 0) 36 2 = 5 ∧ DataHere (sAdm (eLog 1)) 0 7 (oCmd (eLog 1)) none ∧
    DataHere (sAdm (eDict 0 0x050002 2)) 0 7 (oCmd (eDict 0 0x050002 2)) none ∧
    (match (sAdm (eDict 0 0x050002 2)).accessStatus 2 0x050002 false with | (a, some x) => decide (a = dOK ∧ x.num = 0x050002) | _ => false) = true := by
  and_intros <;> decide +kernel
theorem wit_LogsAndDictionary_write : DataHere (sAdm (eDict 1 0x050002 2)) 0 7 (oCmd (eDict 1 0x050002 2)) none ∧ Quiet (sAdm (eDict 1 0x050002 2)) ∧
    (match (sAdm (eDict 1 0x050002 2)).accessStatus 2 0x050002 true with
      | (a, some x) => decide (a = dOK ∧ x.sizeOk 2 = true ∧ x.cls = .p ∧ keyEntry x.num = false ∧ x.num ≠ 0x010001) &&
          (sAdm (eDict 1 0x050002 2)).rangeOk x [0, 8]
      | _ => false) = true ∧ (sAdm (eDict 1 0x050002 2)).dict.saving = none ∧
    (let s := sAdm (eDict 1 0x050002 2);
      let u : State := { s with dict := { s.dict with vals := mset [] s.dict.vals 0x050002 [0, 8] } };
      (u.spareReserve : Int) ≤ u.sparePool) := by and_intros <;> decide +kernel
theorem test_error_log : after (.logReadErrorLog 0 7 .ok true) (sAdm (eLog 0)) (fun t =>
    t.out.contains (.hostWrite 0 7 0 none (({} : Elog).bytes.take 4096)) && decide (t.op 0 7 = none)) = true := by decide +kernel
theorem test_health_report : after (.logReadHealthReport 0 7 .ok true) (sAdm (eLog 1)) (fun t => decide (t.op 0 7 = none)) = true := by decide +kernel
theorem test_dict_read : after (.dictRead 0 7 .ok true) (sAdm (eDict 0 0x050002 2)) (fun t => t.out.contains (.hostWrite 0 7 0 none [0, 4])) = true := by
  decide +kernel
theorem test_dict_write : after (.dictWrite 0 7 (.ok [0, 8]) true) (sAdm (eDict 1 0x050002 2)) (fun t =>
    decide (mget [] t.dict.vals 0x050002 = [0, 8] ∧ t.dict.saving = some [.cmd 0 7])) = true := by decide +kernel
/-- The save of the value under way. -/
def sSaving : State := match exec (.dictWrite 0 7 (.ok [0, 8]) true) (sAdm (eDict 1 0x050002 2)) with | .next t => t | _ => State.reset
theorem wit_LogsAndDictionary_save : (match sSaving.op 0 7 with | some o => decide (o.checked = true) | none => false) = true ∧
    sSaving.dict.saving = some [.cmd 0 7] ∧ sSaving.dict.nextSave = [] ∧ ({ sSaving with dict := { sSaving.dict with inForce := 0 } } : State).dict.inForce = 0 := by
  and_intros <;> decide +kernel
theorem test_save_done : after (.configSaveDone true) { sSaving with dict := { sSaving.dict with inForce := 0 } } (fun t =>
    decide (t.dict.inForce = 1 ∧ t.dict.saving = none ∧ t.op 0 7 = none)) = true := by decide +kernel

/-- Host queue 3 holds an ABORT of tag 9 of queue 3 under tag 7, and of queue 4 when `tq` is 4. -/
def eAbort (tq : Nat) : BitVec 512 := entry [(0, 0x0D), (288, tq), (304, 9)]
def sAbort (tq : Nat) (x : Option Op) (unfetched : Nat) : State :=
  let s := (sCmd (eAbort tq)).setQueue 4 { st := .active }
  let s := s.setQueue tq { s.queue tq with sqHead := 8, sqTail := 8 + BitVec.ofNat 5 unfetched, unfetched := unfetched, tags := if x.isSome ∨ unfetched = 0 then 0x200 else 0 }
  match x with
  | some x => s.setOp tq 9 (some x)
  | none => s
theorem wit_AbortsTestsAndWaits_AbortActsOnTarget : Startable (sAbort 4 (some (oCmd eRead)) 0) 3 7 (oCmd (eAbort 4)) ∧ abortQueue (eAbort 4) = 4 ∧ abortTag (eAbort 4) = 9 ∧
    (sAbort 4 (some (oCmd eRead)) 0).abortOwn 3 (eAbort 4) (oCmd (eAbort 4)) = none ∧ Posting (sAbort 4 (some (oCmd eRead)) 0) 4 ∧
    (sAbort 4 (some (oCmd eRead)) 0).ld.runs = [] := by and_intros <;> decide +kernel
theorem wit_AbortsTestsAndWaits_AbortActsOnTarget_same : Startable (sAbort 3 (some (oCmd eRead)) 0) 3 7 (oCmd (eAbort 3)) ∧
    (sAbort 3 (some (oCmd eRead)) 0).abortOwn 3 (eAbort 3) (oCmd (eAbort 3)) = none ∧
    Startable (sAbort 4 none 2) 3 7 (oCmd (eAbort 4)) ∧ (sAbort 4 none 2).abortOwn 3 (eAbort 4) (oCmd (eAbort 4)) = none ∧
    (9 + 32 - ((sAbort 4 none 2).queue 4).sqHead.toNat) % 32 < ((sAbort 4 none 2).queue 4).unfetched ∧
    Startable (sAbort 4 none 0) 3 7 (oCmd (eAbort 4)) ∧ (sAbort 4 none 0).abortOwn 3 (eAbort 4) (oCmd (eAbort 4)) = none ∧
    ((sAbort 4 none 0).queue 4).unfetched = 0 := by and_intros <;> decide +kernel
theorem test_abort_other : after (.abort 3 7 true) (sAbort 4 (some (oCmd eRead)) 0) (fun t =>
    decide (t.op 4 9 = none ∧ t.op 3 7 = none ∧ (t.queue 4).cqTail = 1) &&
    t.out.contains (nextEntry (sAbort 4 (some (oCmd eRead)) 0) 4 9 .aborted 0x60 0 false)) = true := by decide +kernel
theorem test_abort_same : after (.abort 3 7 true) (sAbort 3 (some (oCmd eRead)) 0) (fun t =>
    decide (t.op 3 9 = none ∧ t.op 3 7 = none ∧ (t.queue 3).cqTail = 2)) = true := by decide +kernel
theorem test_abort_marks : after (.abort 3 7 true) (sAbort 4 none 2) (fun t => decide ((t.queue 4).marks = 0x200)) = true := by decide +kernel
theorem test_abort_late : after (.abort 3 7 true) (sAbort 4 none 0) (fun t =>
    t.out.contains (nextEntry (sAbort 4 none 0) 3 7 .success 0x01 0 false)) = true := by decide +kernel

/-- FORMAT and SANITIZE with no guest instance, no link being up. -/
def sWipe (op : Nat) : State :=
  ((sAdm (entry [(0, op)])).setQueue 5 {}).setCslot 6 { cur := some { num := 1, key := [1] }, gens := 1 }
def eWipe (op : Nat) : BitVec 512 := entry [(0, op)]
theorem wit_FormatAndSanitize_room : mwf ({} : Slab) (sWipe 0x8B).st.slabs = true ∧
    (sWipe 0x8B).journalRoom (16 + (sWipe 0x8B).st.slabs.length * (4 + (sWipe 0x8B).st.logs.length) + (sWipe 0x8B).st.exts.length) = true ∧
    (∀ e ∈ (sWipe 0x8B).st.slabs, e.2.st = .opened ∨ e.2.st = .full → ((sWipe 0x8B).band e.2.region e.2.band).st ≠ .free) ∧
    (sWipe 0x8B).st.logs = [] ∧ (sWipe 0x8C).st.formatting = false ∧ (sWipe 0x8C).ld.runs = [] := by and_intros <;> decide +kernel
theorem wit_FormatAndSanitize : Startable (sWipe 0x8B) 0 7 (oCmd (eWipe 0x8B)) ∧ flagsOk (eWipe 0x8B) = true ∧ (sWipe 0x8B).guestsOff = true ∧
    (sWipe 0x8B).storeIdle 0 7 = true ∧ Quiet (sWipe 0x8B) ∧
    Startable (sWipe 0x8C) 0 7 (oCmd (eWipe 0x8C)) ∧ (sWipe 0x8C).st.sanitizing = false ∧ (sWipe 0x8C).cam.changing = false ∧
    (∀ e ∈ (sWipe 0x8C).keys.cipher, e.2.load = none) ∧ (sWipe 0x8C).keys.hmac = [] := by and_intros <;> decide +kernel
theorem wit_FormatAndSanitize_ops : (sWipe 0x8C).hq.ops = [(opKey 0 7, some (oCmd (eWipe 0x8C)))] ∧ (oCmd (eWipe 0x8C)).keyGen = none := by
  and_intros <;> decide +kernel
theorem test_format : after (.format 0 7 true) (sWipe 0x8B) (fun t =>
    decide ((t.slab 2).st = .empty ∧ t.keys = (sWipe 0x8B).keys ∧ t.op 0 7 = none)) = true := by decide +kernel
theorem test_sanitize : after (.sanitize 0 7 true) (sWipe 0x8C) (fun t =>
    decide ((t.cslot 6).cur = none ∧ t.cam.places = [])) = true := by decide +kernel

def eSelf (subop : Nat) : BitVec 512 := entry [(0, 0x8D), (8, subop)]
def sSelf (subop : Nat) : State := sAdm (eSelf subop)
/-- The test under way. -/
def sTesting (subop : Nat) : State :=
  let s := (sSelf subop).setOp 0 7 (some { oCmd (eSelf subop) with started := true })
  { s with
    stew := { s.stew with selfTest := some { q := 0, tag := 7, extended := decide (subop = 1), verified := 3, found := 2 } }
    health := { s.health with nEvents := 7 } }
theorem wit_AbortsTestsAndWaits_SelfTestsRunAndEnd : Startable (sSelf 0) 0 7 (oCmd (eSelf 0)) ∧ (sSelf 0).stew.selfTest = none ∧ flagsOk (eSelf 0) = true ∧
    Startable (sSelf 1) 0 7 (oCmd (eSelf 1)) ∧ (sTesting 0).stew.selfTest = some { q := 0, tag := 7, verified := 3, found := 2 } ∧
    (sTesting 0).countCmds (fun m => decide (m.why = .selfTest)) = 0 ∧ 
    (sTesting 1).stew.selfTest.map (fun x => (x.extended, x.todo)) = some (true, []) ∧ (sTesting 1).st.verifies = [] := by
  and_intros <;> decide +kernel
theorem test_short_starts : after (.selfTestShort 0 7 true) (sSelf 0) (fun t =>
    decide (t.stew.selfTest.map (fun x => (x.q, x.tag, x.extended)) = some (0, 7, false))) = true := by decide +kernel
theorem test_short_ends : after (.selfTestShort 0 7 true) (sTesting 0) (fun t => decide (t.stew.selfTest = none ∧ t.op 0 7 = none) &&
    t.out.contains (nextEntry (sTesting 0) 0 7 .success 0x00 0x500000003 false)) = true := by decide +kernel
theorem test_extended_starts : after (.selfTestExtended 0 7 true) (sSelf 1) (fun t =>
    decide (t.stew.selfTest.map (fun x => (x.q, x.tag, x.extended)) = some (0, 7, true))) = true := by decide +kernel
theorem test_extended_ends : after (.selfTestExtended 0 7 true) (sTesting 1) (fun t => decide (t.stew.selfTest = none ∧ t.op 0 7 = none) &&
    t.out.contains (nextEntry (sTesting 1) 0 7 .success 0x00 0x500000003 false)) = true := by
  decide +kernel

/-- A READ that has waited since 100, and instance 2 WRITE_CLOSED with the spare pool back since 200. -/
def sWaits : State := ((sRoomy eRead).setOp 3 7 (some { oCmd eRead with waiting := some 100 })).setInst 2 { st := .writeClosed, spareOkSince := some 200 }
theorem wit_AbortsTestsAndWaits_WaitsEnd : sWaits.op 3 7 = some { oCmd eRead with waiting := some 100 } ∧ Posting sWaits 3 ∧ (sWaits.inst 2).st = .writeClosed ∧
    (sWaits.inst 2).spareOkSince = some 200 ∧ (sWaits.spareReserve : Int) ≤ sWaits.sparePool := by and_intros <;> decide +kernel
theorem test_wait_limit : after (.readWaitLimit 3 7 true) sWaits (fun t =>
    decide (t.now = 500000100 ∧ (t.queue 3).st = .active) && t.out.contains (nextEntry sWaits 3 7 .refused 0x1D 0 false)) = true := by decide +kernel
theorem test_reopen : after (.writeClosedReopen 2) sWaits (fun t => decide (t.now = 1000000200 ∧ (t.inst 2).st = .active)) = true := by decide +kernel

/-! ### The field network (21) -/

/-- A request: operation, role, entry, offset, length, flags, counter, data, and with a role its tag under the factory key
[1]; and its Ethernet frame from station 9 to the device. -/
def client (op role num off len flags ctr : Nat) (data : Bytes) : Bytes :=
  let b : Bytes := natLe 1 1 ++ natLe 1 op ++ natLe 1 role ++ natLe 1 0 ++ natLe 4 5 ++ natLe 4 num ++ natLe 4 off ++ natLe 2 len ++
    natLe 1 flags ++ natLe 1 0 ++ natLe 8 ctr ++ natLe 4 0 ++ data
  let b := if role = 0 then b else b ++ (hmac [1] (natLe 8 0 ++ b)).take 16
  b ++ List.replicate (46 - b.length) 0
def devMac : Bytes := [2, 0, 0, 0, 0, 1]
def frame (c : Bytes) : Bytes := ethFrame devMac [2, 0, 0, 0, 0, 9] c
def sNet : State :=
  let s := sRoomy eRead
  { s with stew := { s.stew with boot := .firmware }, dict := { s.dict with nonce := 0, factoryKey := [1], mac := devMac } }
def cRead : Bytes := client 1 0 0x010005 0 0 0 0 []
def cBread : Bytes := client 3 0 0x010005 1 2 0 0 []
def cWrite : Bytes := client 2 0 0x050002 0 2 0 0 [0, 8]
def cBwrite : Bytes := client 4 0 0x050002 0 2 3 0 [0, 8]
theorem wit_NetworkReadsAndWrites_ObserverReadsOnly : sNet.stew.boot = .firmware ∧ sNet.param 0x0A0003 0 / 2 ^ 1 % 2 = 0 ∧ sNet.targetOf 0x90E = none ∧
    (∀ c ∈ [cRead, cBread, cWrite, cBwrite], (frame c).take 6 = sNet.macBytes ∧ ethType (frame c) = [0x88, 0xB5] ∧
      ethClient (frame c) = c ∧ kdpLengthOk c = true ∧ kdpFormatOk c = true ∧ kRole c = 0) ∧
    kOp cRead = 1 ∧ kLen cRead = 0 ∧ (sNet.accessStatus 0 0x010005 false).1 = dOK ∧ kEntry cRead = 0x010005 ∧ kOp cBread = 3 ∧
    kOp cWrite = 2 ∧ kOp cBwrite = 4 := by and_intros <;> decide +kernel
/-- What the device answered, to station 9. -/
def answers (i : Instr) (p : Bytes → Bool) : Bool := after i sNet (fun t => t.out.any (fun o => match o with
  | .kdp 1 f => decide (f.take 6 = [2, 0, 0, 0, 0, 9] ∧ ethSrc f = devMac ∧ ethType f = [0x88, 0xB5]) && p (ethClient f) | _ => false))
theorem test_kdp_read : answers (.kdpRead 1 (frame cRead)) (fun f => decide (byteNat f 3 = 0 ∧ slice f 32 4 = [0, 0, 0, 0])) = true := by
  decide +kernel
theorem test_kdp_bread : answers (.kdpBread 1 (frame cBread)) (fun f => decide (byteNat f 3 = 0 ∧ slice f 32 2 = [0, 0])) = true := by
  decide +kernel
theorem test_kdp_write_denied : answers (.kdpWrite 1 (frame cWrite)) (fun f => decide (byteNat f 3 ≠ 0)) = true := by decide +kernel
theorem test_kdp_bwrite_denied : answers (.kdpBwrite 1 (frame cBwrite) true) (fun f => decide (byteNat f 3 ≠ 0)) = true := by
  decide +kernel

def cWrite3 : Bytes := client 2 3 0x050002 0 2 0 9 [0, 8]
def cBwrite3 : Bytes := client 4 3 0x050002 0 1 1 9 [0]
theorem wit_NetworkReadsAndWrites_FieldNetworkWrites : (∀ c ∈ [cWrite3, cBwrite3], (frame c).take 6 = sNet.macBytes ∧ ethType (frame c) = [0x88, 0xB5] ∧
      ethClient (frame c) = c ∧ kRole c = 3 ∧ kdpLengthOk c = true ∧ kdpFormatOk c = true ∧ sNet.kdpAccept c = .go) ∧
    (match sNet.accessStatus 3 0x050002 true with
      | (a, some x) => decide (a = dOK ∧ x.cls = .p ∧ keyEntry x.num = false ∧ x.num ≠ 0x010001 ∧ x.sizeOk 2 = true) && sNet.rangeOk x [0, 8]
      | _ => false) = true ∧
    sNet.dict.saving = none ∧ Quiet sNet ∧ sNet.pw.st = .p0 ∧ kOp cWrite3 = 2 ∧ kEntry cWrite3 = 0x050002 ∧
    (let u : State := { sNet with dict := { sNet.dict with vals := mset [] sNet.dict.vals 0x050002 [0, 8] } };
          (u.spareReserve : Int) ≤ u.sparePool) := by and_intros <;> decide +kernel
theorem wit_NetworkReadsAndWrites_FieldNetworkWrites_block : kOp cBwrite3 = 4 ∧ kEntry cBwrite3 = 0x050002 ∧
    kFirst cBwrite3 = true ∧ kOffset cBwrite3 = 0 ∧ kLast cBwrite3 = false := by and_intros <;> decide +kernel
/-- A block write half gathered at time 3, and a NOTIFY due on port 1. -/
def sGather : State := sNet.setRole 3 { gather := some { entry := 0x050002, data := [0], lastAt := 3 } }
def sNotify : State := { sNet with dict := { sNet.dict with notifyDue := [(1, true)], notifyBits := [(1, 6)] } }
theorem wit_NetworkReadsAndWrites_FieldNetworkWrites_timers : (sGather.role 3).gather = some { entry := 0x050002, data := [0], lastAt := 3 } ∧
    mget false sNotify.dict.notifyDue 1 = true := by and_intros <;> decide +kernel
theorem test_kdp_write : after (.kdpWrite 1 (frame cWrite3)) sNet (fun t =>
    decide (mget [] t.dict.vals 0x050002 = [0, 8] ∧ (t.role 3).counter = 9 ∧ (t.role 3).lastXid = some 5)) = true := by decide +kernel
theorem test_kdp_bwrite : after (.kdpBwrite 1 (frame cBwrite3) true) sNet (fun t =>
    decide ((t.role 3).gather = some { entry := 0x050002, data := [0], lastAt := 0 } ∧ (t.role 3).counter = 9)) = true := by decide +kernel
theorem test_bwrite_timeout : after (.kdpBwriteTimeout 3) sGather (fun t => decide ((t.role 3).gather = none ∧ t.now = 10000000003)) = true := by
  decide +kernel
theorem test_notify : after (.notify 1) sNotify (fun t => match t.out with
    | .kdp 1 f :: _ => decide (byteNat (ethClient f) 1 = 5 ∧ slice (ethClient f) 32 4 = [6, 0, 0, 0] ∧ (ethClient f).length = 46)
    | _ => false) = true := by decide +kernel

/-! ### Pytan (09, 10) -/

/-- A program of one label and 100 words, and core 0 running it for instance 0 with A1 = 7, A2 = 5 and C set; banks 0 and 1 of
tile 0 belong to the core. -/
def bCode : Bytes := [0x31, 0x54, 0x59, 0x50, 1, 0, 1, 0, 0x90, 1, 0, 0, 0, 0, 0, 0, 20, 0, 0, 0] ++ List.replicate 400 0
def coreItem : Item := { entry := 0x1E0014, inst := 0, prio := 3, handle := 1, seq := 1 }
def core0 : Core := { a := [(1, 7), (2, 5)], c := true, mode := .running, item := some coreItem, image := some (0, 1), pc := 0x1E0014 }
def sPy (k : Core) : State :=
  let s := { sStore with ld := { sStore.ld with progs := [(progKey 0 1, some (.program bCode [20] [20]))] } }
  ((s.setCore 0 k).setBank 0 0 { kind := 1 }).setBank 0 1 { kind := 1 }
/-- Whether core `c` at `s` reads `a` and `b` for `x` (R239). -/
def readsB (s : State) (c op : Nat) (x : PyI) (a b : Nat) : Bool :=
  decide (Issuing s c op x) && (match (s.evalAt c op x).source c ((s.evalAt c op x).core c) 1 (wbytes x.width) x.s1 with
    | .ok v u1 k1 => decide (v = a) && (match u1.source c k1 2 (wbytes x.width) x.s2 with | .ok w _ _ => decide (w = b) | _ => false)
    | _ => false)
theorem reads_of {s : State} {c op : Nat} {x : PyI} {a b : Nat} (h : readsB s c op x a b = true) : ∃ u k, Reads s c op x a b u k := by
  unfold readsB at h
  split at h
  · rename_i v u1 k1 h1
    split at h
    · rename_i w u k h2
      simp only [Bool.and_eq_true, decide_eq_true_eq] at h
      exact ⟨u, k, h.1, u1, k1, h.2.1 ▸ h1, h.2.2 ▸ h2⟩
    · simp at h
  · simp at h
/-- Three registers, two registers, and a source alone. -/
def x3 : PyI := { width := .w, d := .reg 3, s1 := .reg 1, s2 := .reg 2, cond := 0 }
def x2 : PyI := { x3 with s2 := .zero }
def x1 : PyI := { x2 with d := .zero }
def x0 : PyI := { x1 with s1 := .zero }

theorem wit_ArithmeticResults : ∀ e ∈ ([(0x01, x2, 0), (0x02, x3, 5), (0x03, x3, 5), (0x04, x3, 5), (0x05, x3, 5), (0x06, x2, 0), (0x20, x3, 5),
    (0x21, x3, 5), (0x22, x3, 5), (0x23, x3, 5), (0x1D, x2, 0)] : List (Nat × PyI × Nat)), ∃ u k, Reads (sPy core0) 0 e.1 e.2.1 7 e.2.2 u k := by
  have h : ∀ e ∈ ([(0x01, x2, 0), (0x02, x3, 5), (0x03, x3, 5), (0x04, x3, 5), (0x05, x3, 5), (0x06, x2, 0), (0x20, x3, 5),
    (0x21, x3, 5), (0x22, x3, 5), (0x23, x3, 5), (0x1D, x2, 0)] : List (Nat × PyI × Nat)), readsB (sPy core0) 0 e.1 e.2.1 7 e.2.2 = true := by decide +kernel
  exact fun e he => reads_of (h e he)
theorem wit_LogicAndShiftResults : ∀ e ∈ ([(0x08, x3, 5), (0x09, x3, 5), (0x0A, x3, 5), (0x0B, x3, 5), (0x0C, x2, 0), (0x10, x3, 5), (0x11, x3, 5),
    (0x12, x3, 5), (0x13, x3, 5), (0x14, x3, 5), (0x18, x3, 5), (0x19, x3, 5), (0x1A, x3, 5), (0x1B, x3, 5), (0x1C, x3, 5), (0x1E, x2, 0), (0x1F, x2, 0)]
    : List (Nat × PyI × Nat)), ∃ u k, Reads (sPy core0) 0 e.1 e.2.1 7 e.2.2 u k := by
  have h : ∀ e ∈ ([(0x08, x3, 5), (0x09, x3, 5), (0x0A, x3, 5), (0x0B, x3, 5), (0x0C, x2, 0), (0x10, x3, 5), (0x11, x3, 5),
    (0x12, x3, 5), (0x13, x3, 5), (0x14, x3, 5), (0x18, x3, 5), (0x19, x3, 5), (0x1A, x3, 5), (0x1B, x3, 5), (0x1C, x3, 5), (0x1E, x2, 0), (0x1F, x2, 0)]
    : List (Nat × PyI × Nat)), readsB (sPy core0) 0 e.1 e.2.1 7 e.2.2 = true := by decide +kernel
  exact fun e he => reads_of (h e he)
/-- ADR of [A1+4]. -/
def xAdr : PyI := { x2 with s1 := .disp 1 4 }
theorem wit_LogicAndShiftResults_adr : Issuing (sPy core0) 0 0x24 xAdr ∧
    (match ((sPy core0).evalAt 0 0x24 xAdr).dest 0 ((((sPy core0).evalAt 0 0x24 xAdr).core 0).address 4 xAdr.s1).2 4
      ((((sPy core0).evalAt 0 0x24 xAdr).core 0).address 4 xAdr.s1).1.toNat xAdr.d with | .ok _ _ _ => true | _ => false) = true := by and_intros <;> decide +kernel
/-- A3 after an instruction. -/
def a3 (i : Instr) (v : Nat) : Bool := after i (sPy core0) (fun t => decide ((t.core 0).areg 3 = BitVec.ofNat 32 v ∧ (t.core 0).pc = 0x1E0018))
theorem test_arithmetic : a3 (.mov 0 x2) 7 && a3 (.add 0 x3) 12 && a3 (.addc 0 x3) 13 && a3 (.sub 0 x3) 2 && a3 (.subc 0 x3) 1 &&
    a3 (.neg 0 x2) 0xFFFFFFF9 && a3 (.mul 0 x3) 35 && a3 (.mulh 0 x3) 0 && a3 (.min 0 x3) 5 && a3 (.max 0 x3) 7 && a3 (.widen 0 x2) 7 = true := by
  decide +kernel
theorem test_logic : a3 (.and 0 x3) 5 && a3 (.or 0 x3) 7 && a3 (.xor 0 x3) 2 && a3 (.andn 0 x3) 2 && a3 (.not 0 x2) 0xFFFFFFF8 && a3 (.shl 0 x3) 224 &&
    a3 (.shr 0 x3) 0 && a3 (.sar 0 x3) 0 && a3 (.rol 0 x3) 224 && a3 (.ror 0 x3) 0x38000000 && a3 (.setb 0 x3) 39 && a3 (.clrb 0 x3) 7 &&
    a3 (.flpb 0 x3) 39 && a3 (.fldu 0 x3) 0 && a3 (.flds 0 x3) 0 && a3 (.popc 0 x2) 3 && a3 (.clz 0 x2) 29 = true := by decide +kernel
theorem test_adr : after (.adr 0 xAdr) (sPy core0) (fun t => decide ((t.core 0).areg 3 = 11 ∧ (t.core 0).pc = 0x1E001C)) = true := by decide +kernel
theorem test_add_flags : after (.add 0 { x3 with width := .b, s1 := .imm 0x7F, s2 := .imm 1 }) (sPy core0) (fun t =>
    decide ((t.core 0).v = true ∧ (t.core 0).n = true ∧ (t.core 0).c = false ∧ (t.core 0).z = false)) = true := by decide +kernel

theorem bank_of_all {s : State} {t : Nat} {p : Bank → Prop} (hd : p {}) (h : ∀ e ∈ (s.tile t).banks, p e.2) (b : Nat) : p (s.bank t b) :=
  mget_of_all hd h
theorem noOwnerWrite {s : State} {t : Nat} (h : (s.tile t).banks.all (fun e => decide (e.2.next = none)) = true) (b : Nat) :
    (s.bank t b).next = none := by
  refine bank_of_all (p := fun x => x.next = none) rfl (fun e he => ?_) b
  have := (List.all_eq_true.1 h) e he
  simpa using this
theorem wit_ComputeAndStoreFrames_RegisterFormsTouchOneCore : Issuing (sPy core0) 0 0x02 x3 ∧ opdIsMem x3.d = false ∧ opdIsMem x3.s1 = false ∧ opdIsMem x3.s2 = false ∧
    (∀ b, ((sPy core0).bank 0 b).next = none) ∧ (match exec (.add 0 x3) (sPy core0) with | .next _ => true | _ => false) = true := by
  refine ⟨?_, ?_, ?_, ?_, noOwnerWrite ?_, ?_⟩ <;> decide +kernel

/-- Whether an evaluation succeeds, with a value and state that pass `p`. -/
def okWith {α : Type} (r : Ev α) (p : α → State → Core → Bool) : Bool := match r with | .ok a u k => p a u k | _ => false
/-- Core 0 with a pointer into bank 0 in A5. -/
def coreM : Core := { core0 with a := [(1, 0x40), (2, 5), (4, 0x40), (5, 0x60)] }
def xSt : PyI := { x2 with d := .ind 5 }
/-- The conditions of a store at address `p`. -/
def storeHyp (s : State) (c p n : Nat) : Bool := memWf (s.tile c).mem && decide ((s.tile c).synd = [] ∧ (s.bank c (p / bankBytes)).remap = [] ∧
  (s.bank c (p / bankBytes)).flipArm = false ∧ (s.bank c (p / bankBytes)).merge.length ≤ 5) &&
  (decide (p + n ≤ 0x1E0000 ∧ p / bankBytes = (p + n - 1) / bankBytes ∧ s.bankReady c (p / bankBytes) = true ∧
    (s.bank c (p / bankBytes)).admitsCore (s.core c) = true) || decide (0x1F0000 ≤ p ∧ p + n ≤ 0x200000))
theorem wit_ComputeAndStoreFrames_StoreWritesItsBytes : readsB (sPy coreM) 0 0x01 xSt 0x40 0 = true ∧ opdIsMem xSt.d = true ∧ opdIsMem xSt.s1 = false ∧
    (∀ b, ((sPy coreM).bank 0 b).next = none) ∧ storeHyp (sPy coreM) 0 0x60 4 = true := by
  refine ⟨?_, ?_, ?_, noOwnerWrite ?_, ?_⟩ <;> decide +kernel
def coreTop : Core := { coreM with a := [(1, 0x40), (5, 0x1FFFFC)] }
theorem wit_cleanFetch : ((sPy core0).fetch 0 0x02 x3).2 = sPy core0 ∧ ((sPy coreM).fetch 0 0x01 xSt).2 = sPy coreM ∧
    ((sPy coreTop).fetch 0 0x01 xSt).2 = sPy coreTop := ⟨rfl, rfl, rfl⟩
theorem wit_ComputeAndStoreFrames_StoreWritesItsBytes_top : readsB (sPy coreTop) 0 0x01 xSt 0x40 0 = true ∧ storeHyp (sPy coreTop) 0 0x1FFFFC 4 = true := by
  and_intros <;> decide +kernel
theorem test_store : after (.mov 0 xSt) (sPy coreM) (fun t => decide (t.peek 0 0x60 4 = [0x40, 0, 0, 0])) &&
    after (.mov 0 xSt) (sPy coreTop) (fun t => decide (t.peek 0 0x1FFFFC 4 = [0x40, 0, 0, 0])) = true := by decide +kernel

theorem wit_ControlTransfer : Issuing (sPy core0) 0 0x35 { x0 with d := .zero } ∧ Issuing (sPy core0) 0 0x30 x1 ∧ Issuing (sPy core0) 0 0x31 x1 ∧
    (∀ op ∈ [0x30, 0x31], Issuing (sPy core0) 0 op x1) ∧
    okWith (((sPy core0).evalAt 0 0x30 x1).source 0 (((sPy core0).evalAt 0 0x30 x1).core 0) 1 4 x1.s1) (fun a _ _ => decide (a = 7)) = true ∧
    Issuing (sPy core0) 0 0x32 x0 ∧ readsB (sPy core0) 0 0x33 { x1 with s2 := .reg 2 } 7 5 = true ∧ Issuing (sPy core0) 0 0x34 x0 := by
  and_intros <;> decide +kernel
def coreDelay : Core := { core0 with delay := some 0x1E0020 }
theorem wit_ControlTransfer_slot : Issuing (sPy coreDelay) 0 0x35 x0 ∧ (sPy coreDelay).core 0 = coreDelay := by and_intros <;> decide +kernel
def coreSkip : Core := { core0 with skip := true }
theorem wit_ControlTransfer_skip : ((sPy coreSkip).core 0).mode = .running ∧ ((sPy coreSkip).core 0).item ≠ none ∧
    ((sPy coreSkip).core 0).clockOff = false ∧ ((sPy coreSkip).core 0).skip = true ∧ ((sPy coreSkip).core 0).rpt = none := by
  and_intros <;> decide +kernel
theorem test_jump_and_slot : after (.jmp 0 { x1 with s1 := .imm 0x1E0040 }) (sPy core0) (fun t => decide ((t.core 0).pc = 0x1E001C ∧
      (t.core 0).delay = some 0x1E0040)) &&
    after (.nop 0 x0) (sPy coreDelay) (fun t => decide ((t.core 0).pc = 0x1E0020 ∧ (t.core 0).delay = none)) &&
    after (.nop 0 x0) (sPy coreSkip) (fun t => decide ((t.core 0).pc = 0x1E0018 ∧ (t.core 0).skip = false)) = true := by decide +kernel

/-- Core 0 about to run a string instruction, alone and under RPT. -/
def coreRpt : Core := { coreM with rpt := some (0x1E0010, false) }
theorem wit_StringElements : (∀ op ∈ [0x38, 0x39, 0x3A, 0x3B, 0x3C, 0x3D], Issuing (sPy coreM) 0 op { x0 with width := .b } ∧
      Issuing (sPy coreRpt) 0 op { x0 with width := .b }) ∧ ((sPy coreM).core 0).rpt = none ∧
    okWith (((sPy coreM).evalAt 0 0x38 { x0 with width := .b }).coreRead 0 (((sPy coreM).evalAt 0 0x38 { x0 with width := .b }).core 0) 1 6 0x40 1) (fun b u k =>
      okWith (u.coreWrite 0 k 3 0x60 b) (fun _ _ _ => true) && okWith (u.coreRead 0 k 2 11 0x60 1) (fun _ _ _ => true) &&
      okWith (u.coreRead 0 k 2 11 0x40 1) (fun b v k => okWith (v.coreWrite 0 k 3 0x60 b) (fun _ _ _ => true))) = true ∧
    okWith (((sPy coreM).evalAt 0 0x3B { x0 with width := .b }).coreWrite 0 (((sPy coreM).evalAt 0 0x3B { x0 with width := .b }).core 0) 3 0x60 [0]) (fun _ _ _ => true) = true ∧
    ((sPy coreRpt).core 0).rpt ≠ none ∧ (((sPy coreRpt).evalAt 0 0x38 { x0 with width := .b }).core 0).rcSeen = 0 := by
  and_intros <;> decide +kernel
/-- One element copied; the byte that the instruction before stored is seen only two instructions later (R266). -/
theorem test_scopy : after (.mov 0 { x2 with s1 := .imm 0x41, d := .ind 4, width := .b }) (sPy coreM) (fun s =>
    after (.scopy 0 { x0 with width := .b }) s (fun t => decide (t.peek 0 0x60 1 = [0])) &&
    after (.nop 0 x0) s (fun s => after (.nop 0 x0) s (fun s => after (.scopy 0 { x0 with width := .b }) s (fun t =>
      decide (t.peek 0 0x60 1 = [0x41] ∧ (t.core 0).areg 4 = 0x41 ∧ (t.core 0).areg 5 = 0x61))))) = true := by
  decide +kernel

/-- The core's state in mode `m`. -/
def sMode (m : CoreMode) : State := sPy { core0 with mode := m }
theorem wit_CoreWaits : Issuing (sPy core0) 0 0x36 x0 ∧ (sMode .done).core 0 = { core0 with mode := .done } ∧ coreItem.run = none ∧ coreItem.prio ≠ 0 ∧
    coreItem.kind = .posted ∧ Issuing (sPy core0) 0 0x40 x0 ∧ (((sPy core0).evalAt 0 0x40 x0).core 0).eSeen = false ∧
    Issuing (sPy { core0 with evp := 1, z := true }) 0 0x40 x0 ∧ (((sPy { core0 with evp := 1 }).evalAt 0 0x40 x0).core 0).eSeen = true ∧
    ((sPy { core0 with mode := .wfe, evp := 1 }).core 0).evp &&& ((sPy { core0 with mode := .wfe, evp := 1 }).core 0).ev ≠ 0 ∧
    Issuing (sPy core0) 0 0x42 { x1 with width := .d, s1 := .imm 100 } ∧
    okWith (((sPy core0).evalAt 0 0x42 { x1 with width := .d, s1 := .imm 100 }).source 0 (((sPy core0).evalAt 0 0x42 { x1 with width := .d, s1 := .imm 100 }).core 0) 1 8 (.imm 100)) (fun a u _ => decide (u.now % 18446744073709551616 < a)) = true ∧
    okWith (((sPy core0).evalAt 0 0x42 { x1 with width := .d, s1 := .imm 0 }).source 0 (((sPy core0).evalAt 0 0x42 { x1 with width := .d, s1 := .imm 0 }).core 0) 1 8 (.imm 0)) (fun a u _ => decide (a ≤ u.now % 18446744073709551616)) = true ∧
    ((sMode (.waitt 9 true)).core 0).mode = .waitt 9 true ∧ ((sPy { core0 with mode := .waitt 9 true, evp := 1 }).core 0).e = true ∧
    (sPy { core0 with mode := .waitt 9 true, evp := 1 }).now < 9 ∧ Issuing (sPy core0) 0 0x43 x0 ∧ ((sMode .fence).core 0).mode = .fence := by
  and_intros <;> decide +kernel
/-- Core 0 with two wrong bits in the word at its PC, and with one. -/
def sBadCode (z : BitVec 7) : State := (sPy core0).setTile 0 { (sPy core0).tile 0 with synd := [(wordKey 15 5, z)] }
theorem wit_CoreWaits_fetch : ((sBadCode 0x18).core 0).item = some coreItem ∧ ((sBadCode 0x18).core 0).mode = .running ∧ ((sBadCode 0x18).core 0).clockOff = false ∧
    ((sBadCode 0x18).core 0).skip = false ∧ (sBadCode 0x18).issueFault ((sBadCode 0x18).core 0) 0x35 x0 = none ∧ (sBadCode 0x18).groupAwake 0 15 = true ∧
    ((sBadCode 0x18).fetch 0 0x35 x0).1 = false := by and_intros <;> decide +kernel
theorem test_code_fetch : after (.nop 0 x0) (sBadCode 0x18) (fun t => decide ((t.core 0).item = none ∧ mget 0 t.health.faults 6 = 1 ∧ (t.bank 0 15).ue = true)) &&
    after (.nop 0 x0) (sBadCode 0x0B) (fun t => decide ((t.core 0).pc = 0x1E0018 ∧ (t.bank 0 15).cecnt = 1 ∧ (t.bank 0 15).errMaster = 15)) = true := by decide +kernel
theorem test_done : after (.done 0 x0) (sPy core0) (fun s => after (.doneTakesEffect 0 .ok true) s (fun t =>
    decide ((t.core 0).item = none ∧ (t.core 0).mode = .idle))) = true := by decide +kernel
theorem test_watchdog : after (.watchdog 0 true) (sPy core0) (fun t => decide ((t.core 0).item = none ∧ mget 0 t.health.faults 7 = 1 ∧
    t.now = 1000000)) = true := by decide +kernel
theorem test_waitt : after (.waitt 0 { x1 with width := .d, s1 := .imm 100, cond := 0 }) (sPy core0) (fun s => after (.waittWake 0) s (fun t =>
    decide ((t.core 0).mode = .running ∧ (t.core 0).z = true ∧ t.now = 100))) = true := by decide +kernel

/-- Core 1 runs the same instance; core 0 has a POST block at [A1]. -/
def sTwo : State := (sPy coreM).setCore 1 core0
def posted : State := (sPy { coreM with heldPost := some { coreItem with seq := 0 } })
/-- Core 0 about to be dispatched, its item ready in region 0. -/
def sReady : State := (sPy {}).setRegion 0 { (sPy {}).region 0 with ready := [coreItem] }
theorem wit_PostsAndDispatch : Issuing sTwo 0 0x41 { x1 with s1 := .imm 1 } ∧
    okWith ((sTwo.evalAt 0 0x41 { x1 with s1 := .imm 1 }).source 0 ((sTwo.evalAt 0 0x41 { x1 with s1 := .imm 1 }).core 0) 1 4 (.imm 1)) (fun a u k => decide (a % 64 = 1 ∧ (u.core 1).instOf = some (k.instOf.getD 0))) = true ∧
    Issuing (sPy coreM) 0 0x48 x1 ∧
    okWith (((sPy coreM).evalAt 0 0x48 x1).source 0 (((sPy coreM).evalAt 0 0x48 x1).core 0) 1 4 (.reg 1)) (fun a u k => okWith (u.coreRead 0 k 1 6 a 32) (fun b v w =>
      decide (w.heldPost = none) && v.takesPost (postedItem (BitVec.ofNat 256 (leNat b)) 0 (w.item.getD {})) &&
      decide ((postedItem (BitVec.ofNat 256 (leNat b)) 0 (w.item.getD {})).timed = false))) = true ∧
    (posted.core 0).heldPost = some { coreItem with seq := 0 } ∧ posted.takesPost { coreItem with seq := 0 } = true ∧ (posted.core 0).item ≠ none ∧
    Issuing posted 0 0x48 x1 ∧ Issuing (sPy coreM) 0 0x49 { x1 with cond := 1 } ∧
    okWith (((sPy coreM).evalAt 0 0x49 { x1 with cond := 1 }).coreRead 0 (((sPy coreM).evalAt 0 0x49 { x1 with cond := 1 }).core 0) 1 6 0x40 32) (fun _ v _ => decide ((v.tile 0).lanes.rxQ.length < 16)) = true := by
  and_intros <;> decide +kernel
theorem wit_PostsAndDispatch_classes : Issuing (sPy coreM) 0 0x49 { x1 with cond := 0 } ∧ Issuing (sPy coreM) 0 0x49 { x1 with cond := 2 } ∧
    Issuing (sPy coreM) 0 0x49 { x1 with cond := 3 } ∧
    okWith (((sPy coreM).evalAt 0 0x49 { x1 with cond := 0 }).coreRead 0 (((sPy coreM).evalAt 0 0x49 { x1 with cond := 0 }).core 0) 1 6 0x40 48) (fun _ v _ => decide ((v.tile 0).crypt.cxQ.length < 32)) = true ∧
    okWith (((sPy coreM).evalAt 0 0x49 { x1 with cond := 2 }).coreRead 0 (((sPy coreM).evalAt 0 0x49 { x1 with cond := 2 }).core 0) 1 6 0x40 32) (fun _ v _ =>
      decide ((v.tile 0).lanes.exQ.length < 16 ∧ (v.tile 0).crypt.dgQ.length < 16)) = true := by
  and_intros <;> decide +kernel
theorem wit_PostsAndDispatch_item : sReady.coreIdle 0 = true ∧ (sReady.tile 0).quiesced = false ∧ (sReady.tile 0).retired = false ∧
    sReady.nextItem 0 = some coreItem ∧ coreItem.kind ≠ .segment ∧ sReady.entryOk coreItem.inst coreItem.handle coreItem.entry.toNat = true := by
  and_intros <;> decide +kernel
/-- Core 0 of an instance with one context. -/
def sCams : State := (sPy coreM).setInst 0 { (sPy coreM).inst 0 with camBase := 0, camCount := 4 }
def xCams : PyI := { x1 with d := .disp 5 0 }
theorem wit_PostsAndDispatch_cams : Issuing sCams 0 0x4A xCams ∧
    okWith ((sCams.evalAt 0 0x4A xCams).source 0 ((sCams.evalAt 0 0x4A xCams).core 0) 1 4 (.reg 1)) (fun a u k => okWith (u.coreRead 0 k 1 6 a 32) (fun b v w =>
      let d := w.address 4 xCams.d
      decide (v.respPlace 0 d.2 d.1.toNat = none ∧ d.2.camsOut < 8) && (v.inst (d.2.item.getD {}).inst).hasCam (camsCtx b))) = true := by
  and_intros <;> decide +kernel
theorem test_post_and_dispatch : after (.post 0 x1) (sPy coreM) (fun t => decide ((t.core 0).z = true)) &&
    after (.itemDispatch 0 true) sReady (fun t => decide ((t.core 0).item = some coreItem ∧ (t.core 0).pc = 0x1E0014 ∧ (t.core 0).areg 7 = 0x200000)) &&
    after (.cams 0 xCams) sCams (fun t => decide ((t.core 0).z = true ∧ (mget [] t.cam.waiting 0).length = 1)) = true := by decide +kernel

/-! ### Tile memory (12) -/

theorem wit_BankAndTileRegisters_BankOwnership : (15 : Nat) ≠ 0 ∧ ((sPy core0).bank 0 0).retired = false ∧
    (((sPy core0).setBank 0 0 { kind := 1, next := some (0x0101, 0, true) }).bank 0 0).next = some (0x0101, 0, true) ∧
    (0 : BitVec 8) ≠ (0x0101 : Word).extractLsb' 8 8 ∧ (((sPy core0).setBank 0 0 { kind := 1, zeroing := some 0x0101 }).bank 0 0).zeroing = some 0x0101 ∧
    (((sPy core0).setBank 0 0 { next := some (1, 0, true) }).bank 0 0).next = some (1, 0, true) ∧ (0 : BitVec 8) = (1 : Word).extractLsb' 8 8 ∧
    (0 : BitVec 3) ≠ 6 ∧ (1 : Word).extractLsb' 0 3 ≠ 6 := by and_intros <;> decide +kernel
theorem test_owner_write_and_handover : after (.bankOwnerWrite 0 0 0x0101 .core) (sPy core0) (fun t => decide ((t.bank 0 0).next = some (0x0101, 0, true))) &&
    after (.bankHandover 0 0) ((sPy core0).setBank 0 0 { kind := 1, next := some (0x0101, 0, true) }) (fun t => decide ((t.bank 0 0).zeroing = some 0x0101)) &&
    after (.bankHandover 0 0) ((sPy core0).setBank 0 0 { next := some (1, 0, true) }) (fun t => decide ((t.bank 0 0).kind = 1 ∧ (t.core 0).evp = 8)) = true := by
  decide +kernel
/-- A byte of bank 0 and one of bank 1 written. -/
def sBytes : State := ((sPy core0).setTile 0 { (sPy core0).tile 0 with mem := [(5, 9), (0x20000, 7)] }).setBank 0 0 { zeroing := some 0x0101, merge := [{ word := 1, data := 3 }] }
theorem test_zeroing : after (.bankZeroingDone 0 0) sBytes (fun t => decide ((t.tile 0).mem = [(0x20000, 7)] ∧ (t.bank 0 0).merge = [] ∧ (t.bank 0 0).inst = 1)) = true := by
  decide +kernel

/-- Tile 0 asks for retention of groups 0 and 1; group 1 is asleep in `sAsleep`. -/
def sRetain : State := (sPy core0).setTile 0 { (sPy core0).tile 0 with retain := 3 }
def sAsleep : State := (sPy core0).setTile 0 { (sPy core0).tile 0 with awake := 0xD }
theorem wit_BankAndTileRegisters_TileRegisterCommands : bit (sRetain.tile 0).retain 1 = true ∧ bit (sRetain.tile 0).awake 1 = true ∧
    (∀ i, i < 4 → (sRetain.bank 0 (4 * 1 + i)).merge = []) ∧ bit (sAsleep.tile 0).retain 1 = false ∧ bit (sAsleep.tile 0).awake 1 = false ∧
    (∀ i, i < 1 → bit (sAsleep.tile 0).awake i = true ∨ bit (sAsleep.tile 0).retain i = true) ∧ bit (0x8000 : Word) 15 = true ∧ bit (0 : Word) 15 = false := by
  and_intros <;> decide +kernel
theorem test_retention : after (.retentionEntry 0 1) sRetain (fun t => decide ((t.tile 0).awake = 0xD)) &&
    after (.retentionWakeDone 0 1) sAsleep (fun t => decide ((t.tile 0).awake = 0xF ∧ t.now = 12000)) = true := by decide +kernel
def sCounted : State := (sPy core0).setTile 0 { (sPy core0).tile 0 with confLost := [(0, 4), (2, 6)], confWin := [(0, 3)] }
theorem test_conflict_clear : after (.conflictCounterClear 0 1) sCounted (fun t => decide ((t.tile 0).confLost = [(2, 6)] ∧ (t.tile 0).confWin = [])) = true := by
  decide +kernel

/-- Bank 0 holds a merge entry; its word 7 awaits the check of R320. -/
def sMerge : State := (sPy core0).setBank 0 0 { kind := 1, merge := [{ word := 1, data := 0x01020304 }] }
def sCheck : State := (sPy core0).setBank 0 0 { kind := 1, checkWord := some (7, 1) }
theorem wit_ErrorCorrection : (sMerge.bank 0 0).merge = [{ word := 1, data := 0x01020304 }] ∧ (sMerge.bank 0 0).flipArm = false ∧
    ((sPy core0).tile 0).scrubEn = true ∧ (sPy core0).groupAwake 0 0 = true ∧ ((sPy core0).bank 0 0).scrubAt = 0 ∧ ((sPy core0).bank 0 0).remap = [] ∧
    ((sPy core0).bank 0 0).merge = [] ∧ mget 0 ((sPy core0).tile 0).synd (wordKey 0 0) = 0 ∧
    ((sPy core0).bank 0 0).bucket + 1 < ((sPy core0).tile 0).thresh.toNat ∧ ((sPy core0).bank 0 0).bucket < 255 ∧
    (sPy core0).rawWord 0 0 3 = (0, 0) ∧ mwf {} (sPy core0).tiles = true ∧ mwf {} ((sPy core0).tile 0).banks = true ∧
    (sCheck.bank 0 0).checkWord = some (7, 1) ∧ (sCheck.bank 0 0).remap = [] := by and_intros <;> decide +kernel
theorem test_merge_write : after (.mergeEntryWrite 0 0) sMerge (fun t =>
    decide (t.rawWord 0 0 1 = (0x01020304, 0) ∧ (t.bank 0 0).merge = [] ∧ (t.tile 0).mem = [(4, 4), (5, 3), (6, 2), (7, 1)])) = true := by decide +kernel
theorem test_scrub : after (.scrubRead 0 0 4 none) (sPy core0) (fun t =>
    decide ((t.bank 0 0).cecnt = 1 ∧ (t.bank 0 0).bucket = 1 ∧ t.health.corrSram = 1 ∧ (t.bank 0 0).scrubAt = 1)) = true := by decide +kernel
theorem test_remap : after (.remapEntryWrite 0 0 2 0x80000003) (sPy core0) (fun t => decide (mget (0, false) (t.bank 0 0).remap 2 = (3, true) ∧
    t.rawWord 0 0 3 = (0, 0))) = true := by decide +kernel
theorem test_hard_fault : after (.hardFaultCheck 0 0 1) sCheck (fun t => decide (mget (0, false) (t.bank 0 0).remap 0 = (7, true) ∧
    (t.bank 0 0).checkWord = none)) = true := by decide +kernel
theorem test_leak : after .bucketLeak ((sPy core0).setBank 0 0 { kind := 1, bucket := 3 }) (fun t => decide ((t.bank 0 0).bucket = 2)) = true := by decide +kernel

/-! ### Engine lanes (13, 14, 15) -/

/-- A descriptor from its fields: pairs (bit position, value). -/
def desc (l : List (Nat × Nat)) : BitVec 384 := BitVec.ofNat 384 (l.foldl (fun n e => n + e.2 * 2 ^ e.1) 0)
def jobOf (d : BitVec 384) : Job := { desc := d, core := some 0, item := 1 }
/-- Core 0 with one engine job outstanding, bank 0 of SHARED ownership, and scratchpad bytes `m`. -/
def sLane (m : List Host.Cell) : State :=
  let s := (sPy { core0 with engOut := 1 }).setBank 0 0 { kind := 4 }
  let s := { s with
    dict := { s.dict with factoryKey := [], mac := [], serial := [] }
    stew := { s.stew with digests := [] } }
  s.setTile 0 { s.tile 0 with mem := m }
/-- A reducer job of four bytes from 0x40 in the host form, to 0x1000, with its record at 0x3000. -/
def jRx : Job := jobOf (desc [(0, 0x40), (32, 4), (64, 0x1000), (96, 0x800), (160, 0x3000), (192, 1), (193, 1)])
def sRx : State := let s := sLane [(0x40, 1), (0x41, 2), (0x42, 3), (0x43, 4)]
  s.setLanes 0 { (s.tile 0).lanes with rxRun := some jRx }
def rxHyp (s : State) (j : Job) : Bool :=
  let s1 := s.setLanes 0 { (s.tile 0).lanes with rxRun := none }
  decide ((s.tile 0).lanes.rxRun = some j) && jValid true j.desc && !jResume j.desc && jHost j.desc && jFinal j.desc && decide (0 < jLen j.desc ∧ jLen j.desc ≤ 4096) &&
  (match s1.laneRead 0 unitReducer j.inst 12 (jSrc j.desc) (jLen j.desc) with
    | (.ok b, v) => decide (v = s1 ∧ b.length = jLen j.desc ∧ (krfHost b).length ≤ jRoom j.desc) &&
      decide ((s1.laneWrite 0 unitReducer j.inst 12 (jDst j.desc) (krfHost b)).1 = none)
    | _ => false)
theorem wit_EngineJobEnds : sRx.hq.cqAnswer = true ∧ jRx.core = some 0 ∧ (sRx.core 0).item = some coreItem ∧ coreItem.seq = jRx.item ∧ rxHyp sRx jRx = true := by
  and_intros <;> decide +kernel
theorem test_reducer_end : after (.reducerJobEnd 0 true) sRx (fun t => decide ((t.tile 0).lanes.rxIn = 4 ∧ (t.tile 0).lanes.rxDone = 1 ∧
    (t.core 0).engOut = 0 ∧ bit (t.core 0).evp 1 = true ∧ t.peek 0 0x1000 (krfHost [1, 2, 3, 4]).length = krfHost [1, 2, 3, 4])) = true := by decide +kernel
/-- An expander job over the same unit. -/
def exMem : List Host.Cell := (List.zip (List.range 64) (krfHost [1, 2, 3, 4])).filterMap (fun e => if e.2 = 0 then none else some (0x40 + e.1, e.2))
def jEx : Job := jobOf (desc [(0, 0x40), (32, (krfHost [1, 2, 3, 4]).length), (64, 0x1000), (96, 0x800), (160, 0x3000), (192, 1), (193, 1)])
def sEx : State := let s := sLane exMem
  s.setLanes 0 { (s.tile 0).lanes with exRun := some jEx }
def exHyp (s : State) (j : Job) : Bool :=
  let s1 := s.setLanes 0 { (s.tile 0).lanes with exRun := none }
  decide ((s.tile 0).lanes.exRun = some j) && jValid false j.desc && !jResume j.desc && jHost j.desc &&
  (match s1.laneRead 0 unitExpander j.inst 13 (jSrc j.desc) (jLen j.desc) with
    | (.ok b, v) => decide (v = s1) && (let r := expandHostUnits (jRoom j.desc) (b.length + 1) b {}
      decide (r.code = 0 ∧ r.out = [1, 2, 3, 4]) && decide ((s1.laneWrite 0 unitExpander j.inst 13 (jDst j.desc) r.out).1 = none))
    | _ => false)
theorem wit_EngineJobEnds_expander : sEx.hq.cqAnswer = true ∧ (sEx.core 0).item = some coreItem ∧ coreItem.seq = jEx.item ∧ exHyp sEx jEx = true := by
  and_intros <;> decide +kernel
theorem test_expander_end : after (.expanderJobEnd 0 true) sEx (fun t => decide ((t.tile 0).lanes.exOut = 4 ∧ (t.core 0).engOut = 0 ∧
    t.peek 0 0x1000 4 = [1, 2, 3, 4])) = true := by decide +kernel
/-- A cipher job of no text in mode 2 that opens its context and leaves it open, and a digest job of no bytes whose digest is
compared. -/
def jCx : Job := jobOf (desc [(96, 0x3000), (192, 2), (194, 1)])
def sCx : State := let s := ((sLane []).setCslot 0 { cur := some { num := 1, key := List.replicate 16 1 }, gens := 1 }).setCtx 0 0 { st := 1, gen := 1 }
  s.setCrypt 0 { (s.tile 0).crypt with cxRun := [(0, some jCx)] }
def cxHyp (s : State) (j : Job) : Bool :=
  let s1 := s.setCrypt 0 { (s.tile 0).crypt with cxRun := mset none (s.tile 0).crypt.cxRun 0 none }
  decide (mget none (s.tile 0).crypt.cxRun 0 = some j) &&
  (match s1.cipherRun 0 j (cLen j.desc) with
    | (none, u) => (match u.cipherFinish 0 j with | (0, v) => decide ((v.core 0).item = some coreItem) | _ => false)
    | _ => false)
theorem wit_EngineJobEnds_cipher : sCx.hq.cqAnswer = true ∧ coreItem.seq = jCx.item ∧ cxHyp sCx jCx = true := by and_intros <;> decide +kernel
/-- The SHA-256 of no bytes (FIPS 180-4). -/
def shaNone : Bytes := [0xe3, 0xb0, 0xc4, 0x42, 0x98, 0xfc, 0x1c, 0x14, 0x9a, 0xfb, 0xf4, 0xc8, 0x99, 0x6f, 0xb9, 0x24, 0x27, 0xae, 0x41, 0xe4, 0x64, 0x9b, 0x93,
  0x4c, 0xa4, 0x95, 0x99, 0x1b, 0x78, 0x52, 0xb8, 0x55]
def jDg : Job := jobOf (desc [(96, 0x3000), (128, 0x2000), (169, 1), (170, 1), (171, 1)])
def sDg : State := let s := sLane ((List.zip (List.range 32) shaNone).map (fun e => (0x2000 + e.1, e.2)))
  (s.setDig 0 0 { st := 1, chain := shaInit }).setCrypt 0 { (s.tile 0).crypt with dgRun := [(0, some jDg)] }
def dgHyp (s : State) (j : Job) : Bool :=
  let s1 := s.setCrypt 0 { (s.tile 0).crypt with dgRun := mset none (s.tile 0).crypt.dgRun 0 none }
  decide (mget none (s.tile 0).crypt.dgRun 0 = some j) && dCompare j.desc &&
  (match s1.digestRun 0 j (cLen j.desc) with
    | (none, u) => (match u.digestFinish 0 j true true with | (0, w, v) => decide (w = compareWords true true ∧ (v.core 0).item = some coreItem) | _ => false)
    | _ => false)
theorem wit_EngineJobEnds_digest : sDg.hq.cqAnswer = true ∧ coreItem.seq = jDg.item ∧ dgHyp sDg jDg = true := by and_intros <;> decide +kernel
theorem test_cipher_and_digest_end : after (.cipherJobEnd 0 0 true) sCx (fun t => decide ((t.tile 0).crypt.cxDone = 1 ∧ (t.core 0).engOut = 0)) &&
    after (.digestJobEnd 0 0 true true true) sDg (fun t => decide ((t.tile 0).crypt.dgMatch = 1 ∧ (t.tile 0).crypt.dgDone = 1 ∧ (t.core 0).engOut = 0)) = true := by
  decide +kernel

/-- Jobs of 8,192 bytes at a boundary: the first 4,096 bytes are zeros, read by a digest lane and, with no key, not by a cipher lane. -/
def jDg2 : Job := jobOf (desc [(32, 8192), (64, 0x3000), (96, 0x3100), (169, 1), (170, 1)])
def sBoundary : State := let s := sLane []
  s.setLink 3 { katFails := 1 } |> fun s => s.setTile 0 { s.tile 0 with lanes := { (s.tile 0).lanes with katSoft := 1, katEx := 1, katRx := 1 } }
theorem wit_LaneBoundariesAndTests : (sBoundary.link 3).katFails = 1 ∧ (sBoundary.tile 0).lanes.katSoft = 1 ∧ (sBoundary.tile 0).lanes.exRun = none ∧
    (sBoundary.tile 0).lanes.katEx = 1 ∧ (sBoundary.tile 0).lanes.exRetired = false ∧ (sBoundary.tile 0).lanes.rxRun = none ∧
    (sBoundary.tile 0).lanes.katRx = 1 ∧ (sBoundary.tile 0).lanes.rxRetired = false := by and_intros <;> decide +kernel
theorem test_known_answers : after (.decoderKnownAnswerTest false 3 false) sBoundary (fun t => decide ((t.link 3).hardRetired = true)) &&
    after (.decoderKnownAnswerTest true 0 false) sBoundary (fun t => decide ((t.tile 0).lanes.softRetired = true)) &&
    after (.laneKnownAnswerTest 0 .expander false) sBoundary (fun t => decide ((t.tile 0).lanes.exRetired = true)) &&
    after (.laneKnownAnswerTest 0 .reducer true) sBoundary (fun t => decide ((t.tile 0).lanes.rxRetired = false)) = true := by decide +kernel
/-- A digest job and a cipher job at their first boundary. -/
def sDg2 : State := let s := sLane []
  s.setCrypt 0 { (s.tile 0).crypt with dgRun := [(0, some jDg2)] }
theorem wit_LaneBoundariesAndTests_digest : mget none (sDg2.tile 0).crypt.dgRun 0 = some jDg2 ∧ jDg2.done + 4096 < cLen jDg2.desc ∧
    (match sDg2.digestRun 0 jDg2 (jDg2.done + 4096) with
      | (none, u) => decide ((u.tile 0).crypt.dgQ = [] ∧ 0 < u.dgLanes 0) && bit (u.tile 0).crypt.dgEn 0
      | _ => false) = true := by and_intros <;> decide +kernel
/-- 1,024 bytes done, in a context opened before; the generation's key is left empty, which makes the evaluation of AES short. -/
def jCx2 : Job := { jobOf (desc [(32, 8192), (64, 0x4000), (96, 0x3000)]) with done := 1024 }
def sCx2 : State := let s := (sLane []).setCslot 0 { cur := some { num := 1 }, gens := 1 }
  (s.setCtx 0 0 { st := 1, gen := 1 }).setCrypt 0 { (s.tile 0).crypt with cxRun := [(0, some jCx2)] }
theorem xor_length : ∀ a b : Bytes, (xorBytes a b).length = Nat.min a.length b.length
  | [], _ => by simp [xorBytes]
  | _ :: _, [] => by simp [xorBytes]
  | _ :: x, _ :: y => by simp [xorBytes, xor_length x y]
/-- Under the empty key AES passes its block on, so a unit keeps its length. -/
theorem xts_length : ∀ (n : Nat) (t : BitVec 128) (b : Bytes), (xtsBlocks false [] n t b).length = 16 * n
  | 0, _, _ => rfl
  | n + 1, t, b => by
    have e : ∀ x, aesEnc [] x = x := fun x => by
      have h : aesRoundKeys [] = [] := by decide +kernel
      simp [aesEnc, h]
    have h : (natLe 16 t.toNat).length = 16 := by simp [natLe]
    simp [xtsBlocks, e, xor_length, xts_length n, h]
    omega
theorem quiet_cx2 (b : Nat) : (sCx2.bank 0 b).merge = [] ∧ (sCx2.bank 0 b).flipArm = false ∧ (sCx2.bank 0 b).remap = [] :=
  bank_of_all (p := fun x => x.merge = [] ∧ x.flipArm = false ∧ x.remap = []) ⟨rfl, rfl, rfl⟩ (by
    have h : (sCx2.tile 0).banks.all (fun e => decide (e.2.merge = [] ∧ e.2.flipArm = false ∧ e.2.remap = [])) = true := by decide +kernel
    exact fun e he => of_decide_eq_true ((List.all_eq_true.1 h) e he)) b
theorem wit_LaneBoundariesAndTests_cipher : mget none (sCx2.tile 0).crypt.cxRun 0 = some jCx2 ∧ jCx2.done + 4096 < cLen jCx2.desc ∧
    ∃ u, sCx2.cipherRun 0 jCx2 (jCx2.done + 4096) = (none, u) ∧ (u.tile 0).crypt.cxQ = [] ∧ 0 < u.cxLanes 0 ∧ bit (u.tile 0).crypt.cxEn 0 = true := by
  refine ⟨by decide +kernel, by decide +kernel, ?_⟩
  obtain ⟨d, hd, kd⟩ := State.laneRead_clean (s := sCx2) (t := 0) (fun b => ⟨(quiet_cx2 b).1, (quiet_cx2 b).2.2⟩) (by decide +kernel)
    (cls := unitCipher) (inst := 0) (a := 1024) (n := 4096) (by decide +kernel) 5 (by decide)
  have hl : ∀ r, (cipherText [] 0 r d).1.length = 4096 := by
    intro r
    simp [cipherText, kd, List.range_succ, xtsUnit, xts_length, slice_length]
  have e1 : sCx2.ctxRec 0 0 = { st := 1, gen := 1 } := by decide +kernel
  obtain ⟨u, hu, h1, h2, -⟩ := State.laneWrite_whole (s := sCx2) (t := 0) (fun b => ⟨(quiet_cx2 b).1, (quiet_cx2 b).2.1⟩) (a := 17408)
    (cls := unitCipher) (inst := 0) (d := (cipherText [] 0 (sCx2.ctxRec 0 0) d).1) (by decide) (by rw [hl]) (by rw [hl]; decide +kernel) 5
  have e3 : jSrc jCx2.desc = 0 ∧ cDst jCx2.desc = 16384 ∧ cCtx jCx2.desc = 0 ∧ cMode jCx2.desc = 0 := by decide +kernel
  have e2 : (sCx2.cslot (sCx2.ctxRec 0 (cCtx jCx2.desc)).kslot.toNat).gen? (sCx2.ctxRec 0 (cCtx jCx2.desc)).gen = some { num := 1 } := by decide +kernel
  have hc : sCx2.cipherRun 0 jCx2 (jCx2.done + 4096) = (none, _) := State.cipherRun_on (u := u) (t := 0) (j := jCx2) (g := { num := 1 }) (b := d)
    (by decide) e2 (by rw [e3.1]; exact hd) (by rw [e3.2.1, e3.2.2.1, e3.2.2.2]; exact hu)
  refine ⟨_, hc, ?_, ?_, ?_⟩
  · have e : (u.tile 0).crypt.cxQ = (sCx2.tile 0).crypt.cxQ := by rw [h2]
    exact e.trans (by decide +kernel)
  · unfold State.cxLanes
    split
    · decide
    · split <;> decide
  · have e : (u.tile 0).crypt.cxEn = (sCx2.tile 0).crypt.cxEn := by rw [h2]
    show bit (u.tile 0).crypt.cxEn 0 = true
    rw [e]; decide +kernel

/-! ### Interrupts (18) -/

/-- Core 0 runs an item of priority 0, and source 0x800 of tile 0 is in state `x`. -/
def sSrc (x : SrcState) : State :=
  let s := sPy { core0 with item := some { coreItem with prio := 0 } }
  s.setIntc 0 { s.intc 0 with src := mset .idle [] 0x800 x }
theorem wit_InterruptsAreDelivered_InterruptDelivery : (0x800 : Word).toNat % 4096 = 0x800 ∧ mget .idle ((sSrc .idle).intc 0).src 0x800 = .idle ∧ srcReserved 0x800 = false ∧
    (sSrc .idle).fullMask 0 = false ∧ mget .idle ((sSrc .raised).intc 0).src 0x800 = .raised ∧ (sSrc .raised).fullMask 0 = false ∧
    ((sSrc .raised).intc 0).masks ((sSrc .raised).srcPrio 0x800) = false ∧ ((sSrc .raised).core 0).item ≠ none ∧
    mget .idle ((sSrc .delivered).intc 0).src 0x800 = .delivered ∧ bit (0 : Word) 5 = false := by and_intros <;> decide +kernel
def sMasked : State := (sSrc .raised).setIntc 0 { (sSrc .raised).intc 0 with cmask := 0xF }
theorem wit_InterruptsAreDelivered_InterruptDelivery_masked : mget .idle (sMasked.intc 0).src 0x800 = .raised ∧ sMasked.fullMask 0 = false ∧
    (sMasked.intc 0).masks (sMasked.srcPrio 0x800) = true ∧ sMasked.sleepMode 0 ≠ 2 := by and_intros <;> decide +kernel
theorem test_interrupt : after (.intDoorbell 0 0x800) (sSrc .idle) (fun t => decide ((t.intc 0).src = [(0x800, .raised)])) &&
    after (.intDoorbell 0 0x800) (sSrc .raised) (fun t => decide ((t.intc 0).merged = 1)) &&
    after (.deliveryCommit 0 0x800) (sSrc .raised) (fun t => decide ((t.intc 0).src = [(0x800, .delivered)] ∧ bit (t.core 0).evp 5 = true)) &&
    after (.intAck 0 0x800) (sSrc .delivered) (fun t => decide ((t.intc 0).src = [])) = true := by decide +kernel

/-! ### Faults (19) -/

def sQuiesced : State := (sPy core0).setTile 0 { (sPy core0).tile 0 with quiesced := true, core := {} }
def sRestarting : State := (sPy core0).setTile 0 { (sPy core0).tile 0 with quiesced := true, restarting := true }
theorem wit_TileRegionAndChipFaults_TileQuiesceAndRestart : ((sPy core0).tile 0).quiesced = false ∧ ((sPy core0).core 0).item = some coreItem ∧ coreItem.run = none ∧
    coreItem.kind ≠ .segment ∧ coreItem.banks = 0 ∧ (sQuiesced.tile 0).quiesced = true ∧ (sQuiesced.tile 0).retired = false ∧
    (sQuiesced.tile 0).restarting = false ∧ ((sQuiesced.tile 0).recent sQuiesced.now).length < 3 ∧ (sRestarting.tile 0).restarting = true := by
  and_intros <;> decide +kernel
def sThird : State := sQuiesced.setTile 0 { sQuiesced.tile 0 with quiesces := [0, 0, 0] }
theorem wit_TileRegionAndChipFaults_TileQuiesceAndRestart_third : (sThird.tile 0).quiesced = true ∧ 3 ≤ ((sThird.tile 0).recent sThird.now).length := by and_intros <;> decide +kernel
theorem test_tile_fault : after (.heartbeatMissed 0 true) (sPy core0) (fun t => decide ((t.tile 0).quiesced = true ∧ (t.core 0).item = none ∧
      (t.region 0).ready.map (fun y => y.seq) = [1])) &&
    after (.tileParityError 0 .intc) (sPy core0) (fun t => decide ((t.tile 0).cause = 5)) &&
    after (.tileRestart 0 true) sQuiesced (fun t => decide ((t.tile 0).restarting = true)) &&
    after (.tileRestart 0 true) sThird (fun t => decide ((t.tile 0).retired = true)) &&
    after (.tileRestartDone 0) sRestarting (fun t => decide ((t.tile 0).quiesced = false ∧ t.health.tileRestarts = 1)) = true := by decide +kernel

def sRegionDown : State := (sPy {}).setRegion 0 { (sPy {}).region 0 with restarting := true, faultAt := some 0 }
def sOneFrame : State := (sPy {}).setLink 0 { (sPy {}).link 0 with st := .active }
theorem wit_TileRegionAndChipFaults_RegionAndChipFaults : ((sPy {}).region 0).restarting = false ∧ ((sPy {}).region 0).faultAt = none ∧ (∀ i, i < 8 → ((sPy {}).core (8 * 0 + i)).item = none) ∧
    (sRegionDown.region 0).restarting = true ∧ Quiet sRegionDown ∧ (∀ e ∈ sRegionDown.st.bands, e.2.st ≠ .stale) ∧
    (sPy {}).stew.boot ≠ .chipFault ∧ (sPy {}).hq.ops = [] ∧ (sPy {}).jr.holdStep = 0 := by and_intros <;> decide +kernel
/-- One of 32 credits of VC0 is charged and no frame holds it. -/
def sLostCredit : State := (sPy {}).setLink 0 { (sPy {}).link 0 with st := .standby, initial := (32, 0), total := (32, 0), charged := (1, 0) }
theorem wit_TileRegionAndChipFaults_RegionAndChipFaults_leak : sLostCredit.books 1 (2 * 0) = 0 + 1 ∧ (sLostCredit.link 0).waiting = [] := by
  and_intros <;> decide +kernel
theorem test_leaks_return : after (.ledgerCheck 1 0 0) sLostCredit (fun t =>
      decide ((t.link 0).avail 0 = 32 ∧ t.books 1 0 = 0 ∧ t.health.mismatches = 1)) &&
    after (.ledgerCheck 6 5 0) ((sPy {}).setQueue 5 { (sPy {}).queue 5 with tags := 0x10 }) (fun t => decide ((t.queue 5).tags = 0)) &&
    after (.ledgerCheck 7 4097 1) ((sPy {}).setHslot 1 { cur := some { refs := 3 } }) (fun t => decide (t.books 7 4097 = 1)) = true := by
  decide +kernel
theorem test_region_and_chip : after (.regionFault 0 1 true) (sPy {}) (fun t => decide ((t.region 0).restarting = true)) &&
    after (.regionRestartDone 0 true) sRegionDown (fun t => decide ((t.region 0).restarting = false ∧ t.health.regionRestarts = 1)) &&
    after (.chipFault { unit := 2, cause := 1, region := 0xF } true) (sPy {}) (fun t => decide (t.stew.boot = .chipFault ∧ t.jr.holdStep ≠ 0)) = true := by decide +kernel

/-! ### Rhaent links (06) -/

/-- The header of a frame of a type, length and SEQ that grants nothing; and a frame on the line, from a scrambler in some state
(R142, R144, R147, R148). -/
def header (ty len seq : Nat) : DWord := hdrOf ty len (BitVec.ofNat 12 seq) 3 0
def onLine (h : DWord) (p : Bytes) : List (BitVec 130) := lineOf 0x155 (frameBlocks h p)
def pay16 : Bytes := List.replicate 16 7
def lRsp : List (BitVec 130) := onLine (header 2 16 0) pay16
/-- The same with a bit of its last block changed on the way. -/
def lBad : List (BitVec 130) := lRsp.modify 2 (fun b => b ^^^ 16)
def lData : List (BitVec 130) := onLine (header 3 16 0) pay16
/-- Twelve blocks with valid sync headers. -/
def lLock : List (BitVec 130) := lineOf 0x155 (List.replicate 12 (controlBlock []))
/-- The machine with link 1 as given and nothing in the store. -/
def sLink (x : Link) : State := ample.setLink 1 x
def frame0 : Frame := { seq := 5, vc := 0, len := 32, body := .cmd 0 (List.replicate 32 1) }
def frame1 : Frame := { seq := 6, vc := 0, len := 32, body := .cmd 1 (List.replicate 32 2) }
def linkUp : Link := { st := .active, dies := 1 }
def linkHeld : Link := { linkUp with held := [frame0, frame1] }
def linkData (ring : Nat) : Link := { linkUp with rdFor := [(4, 2)], climbs := [(4, some { framesLeft := 2 })], ring := ring }
theorem wit_LinkFramesAndReplay : IdleLink ((sLink linkUp).link 1) ∧ ((sLink linkUp).link 1).carries = true ∧
    rxLine lRsp = .frame (header 2 16 0) pay16 true ∧ hdrSeq (header 2 16 0) = ((sLink linkUp).link 1).rxSeq + 1 ∧ hdrType (header 2 16 0) = 2 ∧
    ((sLink linkUp).link 1).nakHold = none ∧ ctlIs cACK (ctlWord cACK 5) = true ∧ ((sLink linkHeld).link 1).held = [] ++ frame0 :: [frame1] ∧
    frame0.seq = (ctlArg (ctlWord cACK 5)).setWidth 12 ∧ ctlIs cNAK (ctlWord cNAK 4) = true ∧ ((sLink linkHeld).link 1).carries = true ∧
    (∀ f ∈ ((sLink linkHeld).link 1).held, f.seq ≠ (ctlArg (ctlWord cNAK 4)).setWidth 12) ∧ ((sLink linkHeld).link 1).resendOldest < 3 ∧
    ctlIs cCRD (ctlWord cCRD 8) = true ∧ bits (ctlWord cCRD 8) 20 2 = 0 ∧ ((sLink { linkUp with nakHold := some 7 }).link 1).nakHold = some 7 := by
  and_intros <;> decide +kernel
theorem wit_LinkFramesAndReplay_data : rxLine lData = .frame (header 3 16 0) pay16 true ∧ hdrType (header 3 16 0) = 3 ∧
    (∀ n ∈ [0, ringFrames], IdleLink ((sLink (linkData n)).link 1) ∧ ((sLink (linkData n)).link 1).carries = true ∧
      ((sLink (linkData n)).link 1).rdFor = (4, 0 + 2) :: [] ∧ (mget none ((sLink (linkData n)).link 1).climbs 4).isSome = true ∧
      ((sLink (linkData n)).link 1).ring = n) ∧
    (match rxLine lBad with | .frame _ _ ok => !ok | _ => false) = true := by and_intros <;> decide +kernel
theorem test_frames : after (.rsp 1 lRsp) (sLink linkUp) (fun t => decide ((t.link 1).rxSeq = 0 ∧ (t.link 1).granted = (1, 0) ∧
      .ctl 1 (ctlWord cACK 0) ∈ t.out)) &&
    after (.rsp 1 lBad) (sLink linkUp) (fun t => decide ((t.link 1).rxSeq = 4095 ∧ .ctl 1 (ctlWord cNAK 4095) ∈ t.out)) &&
    after (.ack 1 (ctlWord cACK 5)) (sLink linkHeld) (fun t => decide ((t.link 1).held = [frame1])) &&
    after (.nak 1 (ctlWord cNAK 4)) (sLink linkHeld) (fun t => decide ((t.link 1).held = [frame0, frame1] ∧ (t.link 1).resends = 2)) &&
    after (.crd 1 (ctlWord cCRD 8)) (sLink linkUp) (fun t => decide ((t.link 1).total = (8, 0))) &&
    after (.replayTimeout 1) (sLink linkHeld) (fun t => decide (t.now = 16000 ∧ .frame 1 (header 1 32 6) (List.replicate 32 2) ∈ t.out)) &&
    after (.nakHoldoffEnd 1) (sLink { linkUp with nakHold := some 7 }) (fun t => decide (t.now = 16007 ∧ (t.link 1).nakHold = none)) = true := by decide +kernel
/-- An RDATA frame of two for command 4: its credit is granted again while the ring has room, and owed while it is full. -/
theorem test_rdata : after (.rdata 1 lData 0 true) (sLink (linkData 0)) (fun t =>
      decide ((t.link 1).rdFor = [(4, 1)] ∧ (t.link 1).granted = (0, 1) ∧ (t.link 1).ring = 1)) &&
    after (.rdata 1 lData 0 true) (sLink (linkData 8)) (fun t => decide ((t.link 1).granted = (0, 0) ∧ (t.link 1).owed = [1])) = true := by
  decide +kernel

def linkStalled : Link := { linkUp with waiting := [{ vc := 0, len := 64, body := .cmd 0 [] }] }
def linkRec (n : Nat) : Link := { st := .recovery, failedRec := n }
def linkTrain : Link := { st := .train }
theorem wit_RecoveryAndRetrain : (((sLink linkStalled).link 1).recTimes.filter (fun a => decide ((sLink linkStalled).now < a + 1000000000))).length < 15 ∧
    ((sLink linkStalled).link 1).st = .active ∧ ((sLink linkStalled).link 1).hunting = false ∧
    (∃ f ∈ ((sLink linkStalled).link 1).waiting, f.vc = 0 ∧ ((sLink linkStalled).link 1).avail 0 < frameCredits f.len) ∧
    ((sLink linkUp).link 1).carries = true ∧ ((sLink { linkUp with hunting := true }).link 1).hunting = true ∧
    ((sLink (linkRec 0)).link 1).st = .recovery ∧ ((sLink (linkRec 0)).link 1).failedRec = 0 ∧ ((sLink (linkRec 1)).link 1).failedRec = 1 ∧
    ((sLink (linkRec 1)).link 1).cmds = [] ∧ lockLost [0, 1, 3, 2, 0, 2, 3, 1] = true := by and_intros <;> decide +kernel
theorem wit_RecoveryAndRetrain_down : ((sLink { linkTrain with retraining := some 3 }).link 1).retraining = some 3 ∧
    ((sLink { linkTrain with retraining := some 3 }).link 1).st = .train ∧ Quiet (sLink { linkTrain with retraining := some 3 }) ∧
    ((sLink { linkTrain with retraining := some 3 }).link 1).cmds = [] ∧ ((sLink { linkTrain with retraining := some 3 }).link 1).queue = [] ∧
    (∀ e ∈ (sLink { linkTrain with retraining := some 3 }).st.bands, e.2.st ≠ .opened ∧ e.2.st ≠ .closed) := by and_intros <;> decide +kernel
theorem test_recovery : after (.creditStall 1 0) (sLink linkStalled) (fun t => decide ((t.link 1).st = .recovery ∧ t.health.stalls = 1 ∧ t.now = 10000000)) &&
    after (.lossOfLock 1 [0, 1, 3, 2, 0, 2, 3, 1]) (sLink linkUp) (fun t => decide ((t.link 1).hunting = true ∧ (t.link 1).hunts = 1)) &&
    after (.blockHuntTimeout 1) (sLink { linkUp with hunting := true }) (fun t => decide ((t.link 1).st = .recovery ∧ t.now = 1000)) &&
    after (.recoveryTimeout 1) (sLink (linkRec 0)) (fun t => decide ((t.link 1).failedRec = 1 ∧ t.now = 8000)) &&
    after (.recoveryTimeout 1) (sLink (linkRec 1)) (fun t => decide ((t.link 1).st = .train ∧ (t.link 1).retraining = some t.now ∧ t.health.linkRetrains = 1)) &&
    after (.fullRetrainFailure 1) (sLink { linkTrain with retraining := some 3 }) (fun t => decide ((t.link 1).st = .down ∧ t.now = 26000003)) = true := by decide +kernel

def linkDetect : Link := { st := .detect, trainAt := 50 }
/-- The same link, its signal found too late. -/
def sLate : State := { sLink linkDetect with now := 100000050 }
def linkTs1 : Link := { linkTrain with locked := true, ts1s := 7 }
def linkTrial (n : Nat) : Link := { linkTrain with trial := some (n, (List.range n).map (fun i => (i, 10 + i))) }
def linkTs2 : Link := { linkTrain with equalised := true, ts2s := 15 }
theorem wit_TrainingAndLowPowerLinks_LinkTraining : IdleLink ((sLink linkDetect).link 1) ∧ ((sLink linkDetect).link 1).st = .detect ∧ ((sLink linkTrain).link 1).st = .train ∧
    (sLink linkDetect).now < ((sLink linkDetect).link 1).trainAt + 100000000 ∧ (sLate.link 1).trainAt + 100000000 ≤ sLate.now ∧
    (sLate.link 1).st = .detect ∧ (lockAt lLock).isSome = true ∧ (sLink linkTs1).now < ((sLink linkTs1).link 1).limit ∧
    (∀ n ∈ [6, 7], Nat.max (sLink (linkTrial n)).now (((sLink (linkTrial n)).link 1).trainAt + 2000000 * (n + 1)) < ((sLink (linkTrial n)).link 1).limit) ∧
    (sLink linkTs2).now < ((sLink linkTs2).link 1).limit ∧ ((sLink linkTs1).link 1).locked = true ∧ ((sLink linkTs1).link 1).ts1s = 7 ∧ ((sLink linkTs1).link 1).trial = none ∧
    ((sLink linkTs1).link 1).equalised = false ∧ ctlIs cTS1 (ctlWord cTS1 2) = true ∧
    ((sLink (linkTrial 6)).link 1).trial = some (6, [(0, 10), (1, 11), (2, 12), (3, 13), (4, 14), (5, 15)]) ∧ ((sLink (linkTrial 7)).link 1).trial.isSome = true ∧
    ((sLink linkTs2).link 1).equalised = true ∧ ((sLink linkTs2).link 1).ts2s = 15 ∧ ((sLink linkTs2).link 1).retraining = none ∧
    ctlIs cTS2 (ctlWord cTS2 1) = true ∧ bits (ctlWord cTS2 1) 8 8 = 1 ∧ ((sLink linkTs2).link 1).freeCid = some 0 ∧ Quiet (sLink linkTrain) ∧
    ((sLink linkTrain).link 1).cmds = [] := by and_intros <;> decide +kernel
/-- Bring-up in waves of two links, both of wave 1 settled. -/
def sWave : State :=
  let s := (State.reset.setLink 0 linkUp).setLink 1 { st := .absent }
  { s with stew := { s.stew with wave := 1, waveSize := 2 } }
theorem wit_TrainingAndLowPowerLinks_LinkTraining_wave : 0 < sWave.stew.wave ∧ (∀ k ∈ sWave.waveLinks sWave.stew.wave, (sWave.link k).st = .active ∨ (sWave.link k).st = .absent) ∧
    sWave.stew.wave * sWave.stew.waveSize < 512 ∧ sWave.tableField 0x030002 2 1 0 = 0 := by and_intros <;> decide +kernel
theorem test_training : after (.signalDetect 1) (sLink linkDetect) (fun t => decide ((t.link 1).st = .train ∧ t.now = 10050)) &&
    after (.signalDetect 1) sLate (fun t => decide ((t.link 1).st = .absent)) &&
    after (.detectTimeout 1) (sLink linkDetect) (fun t => decide ((t.link 1).st = .absent ∧ t.now = 100000050)) &&
    after (.blockLock 1 lLock) (sLink linkTrain) (fun t => decide ((t.link 1).locked = true)) &&
    after (.ts1 1 (ctlWord cTS1 2)) (sLink linkTs1) (fun t => decide ((t.link 1).trial = some (0, []))) &&
    after (.equalisationPreset 1 99) (sLink (linkTrial 6)) (fun t => decide (t.now = 14000000)) &&
    after (.equalisationPreset 1 9) (sLink (linkTrial 7)) (fun t => decide ((t.link 1).presetRx = 6 ∧ (t.link 1).equalised = true)) &&
    after (.ts2 1 (ctlWord cTS2 1)) (sLink linkTs2) (fun t => decide ((t.link 1).st = .enumerate ∧ (t.link 1).granted = (32, 576))) &&
    after .enumerationWave sWave (fun t => decide (t.stew.wave = 2 ∧ (t.link 2).st = .detect ∧ (t.link 3).presetTx = 2)) = true := by decide +kernel
theorem test_training_limit : after (.trainingLimit 1) (sLink linkTrain) (fun t => decide ((t.link 1).st = .down)) = true := by decide +kernel

theorem wit_TrainingAndLowPowerLinks_LinkStandbyAndSleep : ctlIs cSTBY (ctlWord cSTBY 0) = true ∧ ((sLink { linkUp with req := some .standby }).link 1).req = some .standby ∧
    ctlIs cSLEEP (ctlWord cSLEEP 0) = true ∧ ((sLink { linkUp with req := some .sleeping }).link 1).req = some .sleeping ∧
    (sLink { linkUp with req := some .sleeping }).pw.entering ≠ some .p2 ∧
    ctlIs cWAKE (ctlWord cWAKE 0) = true ∧ ((sLink { st := .standby, wakeSent := true }).link 1).wakeSent = true ∧
    ((sLink { st := .standby, req := some .active }).link 1).req = some .active ∧ IdleLink ((sLink { st := .standby, req := some .active }).link 1) ∧
    ((sLink { st := .standby, req := some .active }).link 1).held = [] ∧ Quiet (sLink { st := .standby, req := some .active }) ∧
    (∀ e ∈ (sLink { st := .standby, req := some .active }).st.bands, e.2.eraseWait = []) := by and_intros <;> decide +kernel
theorem test_standby : after (.stby 1 (ctlWord cSTBY 0)) (sLink { linkUp with req := some .standby }) (fun t => decide ((t.link 1).st = .standby)) &&
    after (.sleep 1 (ctlWord cSLEEP 0)) (sLink { linkUp with req := some .sleeping }) (fun t => decide ((t.link 1).st = .sleeping)) &&
    after (.wake 1 (ctlWord cWAKE 0)) (sLink { st := .standby, wakeSent := true }) (fun t => decide ((t.link 1).req = some .active ∧ (t.link 1).st = .standby)) &&
    after (.blockLock 1 lLock) (sLink { st := .standby, req := some .active }) (fun t => decide ((t.link 1).st = .active)) = true := by decide +kernel

/-! ### Media (07) -/

/-- A response record of a CID, STATUS, FRAMES and VALUE (R173). -/
def resp (cid status frames value : Nat) : BitVec 128 := BitVec.ofNat 128 (cid + 65536 * status + 16777216 * frames + 4294967296 * value)
/-- Link 1 with the command `m` outstanding under ID 4, and the climb `c` of a READ_PAGE. -/
def linkCmd (m : MCmd) (c : Option Climb) : Link :=
  { linkUp with cmds := [(4, some m)], climbs := match c with | some c => [(4, some c)] | none => [] }
def mRead : MCmd := { op := .readPage, die := 0, planes := 1, block := 1, cwmask := 1, why := .hostRead 3 7 [(1, 1)] }
def mProg (w : Why) : MCmd := { op := .program, why := w }
def sRow : State :=
  let s := sStore.setLink 1 (linkCmd (mProg (.row 1 0)) none)
  { s with staged := [{ slab := 2, grain := 0, region := 0, band := 1, at_ := 0, data := [9], issued := true }] }
def sErase : State :=
  let s := (((sRoomy eRead).setLink 1 (linkCmd { op := .erase, why := .bandErase 2 } none)).setBand 0 2 { st := .erasing, erasePend := [0], erases := 5, own := 5 })
  { s with dict := { s.dict with vals := [(0x040010, [0, 0, 0, 0])] } }
theorem wit_MediaResponses : IdleLink ((sLink (linkCmd mRead (some {}))).link 1) ∧ mget none ((sLink (linkCmd mRead (some {}))).link 1).cmds 4 = some mRead ∧
    respCid (resp 4 0 2 0) = 4 ∧ respStatus (resp 4 0 2 0) = .pass ∧ 0 < respFrames (resp 4 0 2 0) ∧ respStatus (resp 4 4 0 0) = .notSuspended ∧
    (sLink (linkCmd mRead (some {}))).jr.holdStep = 0 ∧ (sLink (linkCmd mRead (some {}))).jr.rescueWait = [] ∧ (sLink (linkCmd mRead (some {}))).jr.rescueAgain = [] ∧
    Quiet (sLink (linkCmd mRead (some {}))) ∧ (sLink (linkCmd mRead (some {}))).hq.cqAnswer = true ∧
    mget none ((sLink (linkCmd mRead (some {}))).link 1).climbs 4 = some {} ∧ (mget {} ((sLink (linkCmd mRead (some {}))).link 1).susp mRead.die).active = false ∧
    Quiet sRow ∧ sRow.jr.holdStep = 0 ∧ sRow.jr.rescueWait = [] ∧ sRow.jr.rescueAgain = [] ∧ sRow.hq.cqAnswer = true ∧ sRow.rowStaged (bandRegion 1) (bandIndex 1) 0 ≠ [] ∧
    (∀ e ∈ sRow.rowStaged (bandRegion 1) (bandIndex 1) 0, e.programmed = true ∨ grainTile e.at_ = tileOfLink 1 % 8) ∧
    sRow.countCmds (fun x => decide (x.why = .parity 1 0)) = 0 ∧ bandKey (bandRegion 1) (bandIndex 1) = 1 := by and_intros <;> decide +kernel
theorem wit_MediaResponses_erase : IdleLink (sErase.link 1) ∧ Quiet sErase ∧ (sErase.bandAt 2).erasePend = [tileOfLink 1 % 8] ∧
    (sErase.bandAt 2).lossy = false ∧ sErase.st.sanitizing = false ∧ (sErase.bandAt 2).st = .erasing ∧ sErase.journalRoom 4 = true ∧
    sErase.hq.cqAnswer = true ∧ sErase.jr.holdStep = 0 ∧ sErase.jr.rescueWait = [] ∧ sErase.jr.rescueAgain = [] := by and_intros <;> decide +kernel
theorem wit_MediaResponses_suspend : ((sLink { linkUp with cmds := [(4, some { op := .suspend }), (5, some mRead)], climbs := [(5, some {})] }).link 1).readWaits 0 = true ∧
    IdleLink ((sLink { linkUp with cmds := [(4, some { op := .suspend }), (5, some mRead)], climbs := [(5, some {})] }).link 1) := by and_intros <;> decide +kernel
theorem test_media_responses : after (.readPageResponse 1 (resp 4 0 2 0) false true) (sLink (linkCmd mRead (some {}))) (fun t => decide ((t.link 1).rdFor = [(4, 2)])) &&
    after (.programResponse 1 (resp 4 0 0 0) true) (sLink (linkCmd (mProg (.pilotProg 2 1 2047)) none)) (fun t => decide ((t.link 1).cmds = [])) &&
    after (.programResponse 1 (resp 4 0 0 0) true) sRow (fun t => decide (t.staged = [] ∧ (t.link 1).cmds = [])) &&
    after (.eraseResponse 1 (resp 4 0 0 0) true) sErase (fun t => decide ((t.bandAt 2).own = 6 ∧ (t.bandAt 2).st = .free ∧ (t.bandAt 2).erasePend = [])) &&
    after (.suspendResponse 1 (resp 4 0 0 0)) (sLink { linkUp with cmds := [(4, some { op := .suspend }), (5, some mRead)], climbs := [(5, some {})] })
      (fun t => decide (mget none (t.link 1).cmds 4 = none)) = true := by decide +kernel
def mSet : MCmd := { op := .setFeature, die := 2, level := 0x91, arg := 6 }
theorem test_status_and_features : after (.statusResponse 1 (resp 4 0 0 3)) (sLink (linkCmd { op := .status } none))
      (fun t => decide ((t.link 1).cmds = [] ∧ mget 0 (t.link 1).dieStatus 0 = 3)) &&
    after (.setFeatureResponse 1 (resp 4 0 0 0)) (sLink (linkCmd mSet none)) (fun t => decide (mget 0 (t.link 1).features (256 * 2 + 0x91) = 6)) &&
    after (.getFeatureResponse 1 (resp 4 0 0 9)) (sLink (linkCmd { mSet with op := .getFeature } none))
      (fun t => decide (mget 0 (t.link 1).features (256 * 2 + 0x91) = 9)) = true := by decide +kernel

/-- The 256 bytes of a stack descriptor that R178 supports (R177). -/
def bDesc : Bytes :=
  let b : Bytes := natLe 2 1 ++ [1, 4] ++ natLe 2 1024 ++ natLe 2 1024 ++ natLe 2 2048 ++ natLe 2 18432 ++ [4, 15] ++ natLe 4 0x24E4E4E4 ++ natLe 2 100 ++
    natLe 2 1000 ++ natLe 2 1000 ++ List.replicate 30 0 ++ natLe 2 100 ++ natLe 8 77 ++ List.replicate 188 0
  b ++ natLe 4 (crc32c b).toNat
def dOk : StackDesc := (StackDesc.ofBytes bDesc).getD
  { rev := 0, dies := 0, planes := 0, blocks := 0, pilot := 0, pages := 0, pageBytes := 0, bits := 0, levels := 0, levelMap := 0, dac := 0, ratedQlc := 0,
    ratedSlc := 0, trQlc := 0, trSlc := 0, extraSense := 0, progQlc := 0, progSlc := 0, bers := 0, suspendUs := 0, offsets := [], dieReadyUs := 0, serial := 0 }
def sEnum : State := sLink { linkCmd { op := .descriptor, why := .enumerate } none with st := .enumerate }
def sDying : State := sLink (linkCmd { op := .status, die := 3 } none)
def linkBusy : Link := { linkUp with cmds := [(4, some (mProg .rescue)), (5, some mRead)], climbs := [(5, some {})] }
def sPilot : State := sLink { linkCmd { op := .readPilot, why := .pilot 2 1 1 0 } none with pilots := [(9, some {})] }
theorem wit_StacksDiesAndPilots : IdleLink (sEnum.link 1) ∧ sEnum.hq.cqAnswer = true ∧ mget none (sEnum.link 1).cmds 4 = some { op := .descriptor, why := .enumerate } ∧
    (sEnum.link 1).st = .enumerate ∧ StackDesc.ofBytes bDesc = some dOk ∧ sEnum.now < (sEnum.link 1).trainAt + enumLimit dOk.dies ∧ descSupported dOk = true ∧ (∀ e ∈ sEnum.links, regionOfLink e.1 = regionOfLink 1 → e.2.desc = none) ∧ Quiet sEnum ∧
    (∀ e ∈ sEnum.st.bands, e.2.eraseWait = []) ∧ (sDying.link 1).cmds = [(4, some { op := .status, die := 3 })] ∧ (sDying.link 1).climbs = [] ∧ Quiet sDying ∧
    sDying.st.failedDies.contains (16 * 1 + 3) = false ∧ ((sLink linkBusy).link 1).busyWith 0 = some (mProg .rescue) ∧ ((sLink linkBusy).link 1).readWaits 0 = true ∧
    mget {} ((sLink linkBusy).link 1).susp 0 = {} ∧ ((sLink linkBusy).link 1).freeCid = some 0 ∧ ((sLink linkBusy).link 1).st = .active ∧ (sLink linkBusy).jr.holdStep = 0 ∧ sDying.st.bands = [] ∧ IdleLink ((sLink linkBusy).link 1) := by
  and_intros <;> decide +kernel
theorem wit_StacksDiesAndPilots_rest : (mget {} ((sLink { linkUp with susp := [(2, { since := 9, active := true })] }).link 1).susp 2).active = true ∧
    ((sLink { linkUp with susp := [(2, { since := 9, active := true })] }).link 1).freeCid = some 0 ∧ mget none (sPilot.link 1).cmds 4 = some { op := .readPilot, why := .pilot 2 1 1 0 } ∧
    mget none (sPilot.link 1).pilots (4 * 2 + 1) = some {} ∧ ((sLink { linkUp with desc := some dOk }).link 1).desc = some dOk := by and_intros <;> decide +kernel
theorem test_stacks : after (.descriptorResponse 1 (resp 4 0 1 0) bDesc) sEnum (fun t => decide ((t.link 1).st = .active ∧ t.geomOf 0 = (1, 1024))) &&
    after (.dieNoAnswer 1 3 true) sDying (fun t => decide (t.st.failedDies = [19] ∧ (mget none (t.link 1).cmds 4).isSome = true)) &&
    after (.suspendWait 1 0) (sLink linkBusy) (fun t => decide ((mget {} (t.link 1).susp 0).active = true)) &&
    after (.suspendLimit 1 2) (sLink { linkUp with susp := [(2, { since := 9, active := true })] }) (fun t => decide (t.now = 2000009 ∧ (mget {} (t.link 1).susp 2).active = false)) &&
    after (.readPilotResponse 1 (resp 4 0 0 0) 7 8) sPilot (fun t => match mget none (t.link 1).pilots 9 with | some z => decide (z.got = [(0, 7, 8)]) | none => false) &&
    after .pilotSweep (sLink linkUp) (fun t => decide (t.now = 600000000000 ∧ t.stew.pilotWl = 1)) &&
    after (.pilotRewrite 1 2 1) (sLink { linkUp with desc := some dOk }) (fun t => match mget none (t.link 1).cmds 0 with
      | some y => decide (y.op = .erase ∧ y.die = 2 ∧ y.block = 1024) | none => false) = true := by decide +kernel

/-- An INLINE READ of grain 1 that waits for the codeword of command 4. -/
def oWant : Op := { oCmd eRead with started := true, listOk := true, want := [1] }
def sDecode (c : Climb) : State := (sStore.setLink 1 (linkCmd mRead (some c))).setOp 3 7 (some oWant)
def climb0 : Climb := { responded := true }
theorem wit_DecodeDeliversOrClimbs : IdleLink ((sDecode climb0).link 1) ∧ mget none ((sDecode climb0).link 1).cmds 4 = some mRead ∧ mRead.op = .readPage ∧
    mget none ((sDecode climb0).link 1).climbs 4 = some climb0 ∧ Quiet (sDecode climb0) ∧ (sDecode climb0).hq.cqAnswer = true ∧ ((sDecode climb0).link 1).pilots = [] ∧
    climb0.responded = true ∧ climb0.framesLeft = 0 ∧ climb0.rung = 0 ∧ climb0.joined = [] ∧ mRead.why = .hostRead 3 7 [(1, 1)] ∧ (sDecode climb0).op 3 7 = some oWant ∧
    oWant.started = true ∧ oWant.want = [1] ∧ Sqe.opcode oWant.sqe = 2 ∧ Sqe.fReduce oWant.sqe = false ∧ oWant.keyGen = none ∧ oWant.slack = false ∧ oWant.bytesOut = 0 ∧
    ((sDecode climb0).slabIdx oWant).isSome = true ∧ Posting (sDecode climb0) 3 := by and_intros <;> decide +kernel
/-- The band the codeword lies in holds an SLC copy. -/
def sSlcBand (c : Climb) (m : MCmd) : State := ((sDecode c).setLink 1 (linkCmd m (some c))).setBandAt ((sDecode c).bandAtPlace 1 0 1) { role := 2 }
/-- A codeword of zeros with the tag `Tag` starts as, as it lies at the place that `m` reads. -/
def cwOf (m : MCmd) : Bytes := cwEncode (readLoc 1 m).seed (List.replicate 4096 0) (Tag.bytes {})
theorem tagBytes_length : (Tag.bytes {}).length = 32 := by decide +kernel
theorem wit_DecodeDeliversOrClimbs_slc : (cwOf mRead).length = 4608 ∧ ldpcOk (cwOf mRead) = true ∧
    tagPoison (cwOpen (readLoc 1 mRead).seed (cwOf mRead)).2 = false ∧
    ((sSlcBand climb0 mRead).bandAt ((sSlcBand climb0 mRead).bandAtPlace 1 mRead.die mRead.block)).role = 2 ∧ Quiet (sSlcBand climb0 mRead) ∧
    (sSlcBand climb0 mRead).op 3 7 = some oWant ∧ ((sSlcBand climb0 mRead).slabIdx oWant).isSome = true ∧ Posting (sSlcBand climb0 mRead) 3 ∧
    ((sSlcBand climb0 mRead).link 1).hardRetired = false := by
  refine ⟨cwEncode_length _ List.length_replicate tagBytes_length, ldpcOk_cwEncode _ List.length_replicate tagBytes_length, ?_, ?_⟩
  · rw [cwOf, cwOpen_cwEncode _ List.length_replicate tagBytes_length]
    decide +kernel
  · and_intros <;> decide +kernel
def climb2 : Climb := { responded := true, rung := 2 }
def mSelf : MCmd := { mRead with why := .selfTest }
/-- A climb on rung 2, the soft decoder of tile 0 at work on it. -/
def sSoft : State := (sDecode climb2).setTile 0 { (sDecode climb2).tile 0 with lanes := { ((sDecode climb2).tile 0).lanes with softRun := some { link := 1, cid := 4, enq := 0 } } }
theorem wit_DecodeDeliversOrClimbs_rung : climb2.responded = true ∧ climb2.framesLeft = 0 ∧ climb2.rung < 4 ∧ sSoft.onSoft 1 4 = true ∧
    IdleLink (sSoft.link 1) ∧ Quiet sSoft ∧ (sSoft.link 1).pilots = [] ∧ mget none (sSoft.link 1).climbs 4 = some climb2 := by
  and_intros <;> decide +kernel
theorem xor_zero_list (b : Bytes) {n : Nat} (h : b.length = n) :
    xorAll n [b, [], [], [], [], [], [], []] = b := by
  have h1 : ∀ a : Bytes, a.length = n → (List.range n).map (fun i => a.getD i 0 ^^^ ([] : Bytes).getD i 0) = a := by
    intro a ha
    apply List.ext_getElem (by simp [ha])
    intro i hi _
    simp at hi
    simp [List.getElem?_eq_getElem (by omega : i < a.length)]
  have h2 : (List.range n).map (fun i => (List.replicate n (0 : Byte)).getD i 0 ^^^ b.getD i 0) = b := by
    apply List.ext_getElem (by simp [h])
    intro i hi _
    simp at hi
    simp [List.getElem?_eq_getElem (by omega : i < b.length), hi]
  simp only [xorAll, List.foldl_cons, List.foldl_nil, h2, h1 b h]
/-- A climb on rung 5 whose eight codewords have come: seven are zeros, and the eighth is what the lost one has to be. -/
def climb5 (s : State) : Climb :=
  { responded := true, rung := 5, parts := [cwEncode (s.homeOfRead 1 mSelf).seed (List.replicate 4096 0) (Tag.bytes {}), [], [], [], [], [], [], []] }
def sRebuild : State := (sSlcBand {} mSelf).setLink 1 (linkCmd mSelf (some (climb5 (sSlcBand {} mSelf))))
theorem wit_DecodeDeliversOrClimbs_rebuild : (climb5 (sSlcBand {} mSelf)).parts.length = 8 ∧ mSelf.why = .selfTest ∧ IdleLink (sRebuild.link 1) ∧
    Quiet sRebuild ∧ (sRebuild.bandAt (sRebuild.bandAtPlace 1 mSelf.die mSelf.block)).role = 2 ∧
    tagOk (cwOpen (sRebuild.homeOfRead 1 mSelf).seed (xorAll 4608 (climb5 (sSlcBand {} mSelf)).parts)).2 = true := by
  refine ⟨rfl, rfl, ?_, ?_, ?_, ?_⟩
  · decide +kernel
  · decide +kernel
  · decide +kernel
  · have e : (sRebuild.homeOfRead 1 mSelf).seed = ((sSlcBand {} mSelf).homeOfRead 1 mSelf).seed := by decide +kernel
    rw [e, climb5, xor_zero_list _ (cwEncode_length _ List.length_replicate tagBytes_length),
      cwOpen_cwEncode _ List.length_replicate tagBytes_length]
    decide +kernel
theorem test_decode : after (.codewordDecode 1 4 .fail .ok true) sSoft
    (fun t => match mget none (t.link 1).climbs 4 with | some d => decide (d.rung = 3) | none => false) = true := by
  decide +kernel

/-! ### DRAM (17) -/

def sDram (y : SubCh) : State := (State.reset.setSubch 1 0 y).setSubch 1 1 { inService := true }
def subUp : SubCh := { inService := true, temp := 40, trainTemp := 40, banks := [(3, { isOpen := true, last := some 5 })] }
def sMirror : State := (sDram subUp).setSubch 3 0 { inService := true }
/-- A read of the journal's copy, the beat that brings zeros to it, and one with two check bits wrong. -/
def qRead : DramReq := { rank := 0, bank := 3, row := 5, col := 0, access := .read .journal }
def beatOk : BitVec 40 := reqBeat qRead 0 false 0
def qWrite : DramReq := { qRead with access := .write (BitVec.allOnes 64) 9 false }
/-- A write of the whole burst waits. -/
def subWrite : SubCh := { subUp with writes := [{ req := qWrite, no := 0 }], arrivals := 1 }
theorem wit_DramCommands : (1 : Nat) < 4 ∧ ((sDram subUp).subch 1 0).inService = true ∧ ((sDram subUp).subch 1 0).selfRefresh = false ∧
    ((sDram subUp).subch 1 0).training = false ∧ ((sDram subUp).subch 1 1).training = false ∧
    (mget {} ((sDram subUp).subch 1 0).banks (64 * 0 + 3)).isOpen = true ∧ bit (6 : Word) 1 = true ∧ bit (6 : Word) 2 = true ∧
    ((sDram subUp).subch 1 1).inService = true ∧ (sDram subUp).param 0x010023 8 < 9 ∧ ((sDram { subUp with training := true }).subch 1 0).training = true ∧
    ((sDram subUp).chan 1).scrubEn = true := by and_intros <;> decide +kernel
theorem wit_DramCommands_bursts : (∀ e ∈ [beatOk].zipIdx, (reqRead qRead e.1 e.2).synd = 0 ∧ (reqRead qRead e.1 e.2).apMis = false) ∧
    ((sDram subUp).subch 1 0).reads = [] ∧ ((sDram subUp).subch 1 0).writes = [] ∧ ((sDram subUp).subch 1 0).outside = [] ∧
    ((sDram subUp).subch 1 0).scrubDue = false ∧ (reqRead qRead (beatOk ^^^ (3 * 2 ^ 32)) 0).synd = 3 ∧
    (reqRead qRead (beatOk ^^^ (3 * 2 ^ 32)) 0).apMis = false ∧ (sMirror.subch 1 0).ueTimes = [] ∧ (sMirror.subch (mirrorOf 1) 0).serves = true ∧
    reqMirrored qRead = true ∧ ((sDram subWrite).subch 1 0).writes = [{ req := qWrite, no := 0 }] ∧ reqBurst qWrite = reqBurst qRead := by
  and_intros <;> decide +kernel
theorem test_dram : after (.dramRefresh 1 0 0) (sDram subUp) (fun t => decide ((t.subch 1 0).refreshes = 1)) &&
    after (.zqCalibration 1 0) (sDram subUp) (fun t => decide ((t.subch 1 0).zqDone = 1)) &&
    after (.mr4Read 1 0 0 2 49) (sDram subUp) (fun t => decide ((t.subch 1 0).temp = 49 ∧ (t.subch 1 0).training = false)) &&
    after (.mr4Read 1 0 0 2 50) (sDram subUp) (fun t => decide ((t.subch 1 0).training = true)) &&
    after (.rowIdleClose 1 0 0 3) (sDram subUp) (fun t => decide ((mget {} (t.subch 1 0).banks 3).isOpen = false)) &&
    after (.dcRetrainWrite 1 6) (sDram subUp) (fun t => decide ((t.subch 1 0).training = true ∧ (t.subch 1 1).retrain = true)) &&
    after (.dqsOscillatorDrift 1 0 9) (sDram subUp) (fun t => decide ((t.subch 1 0).training = true)) &&
    after (.dramRetrainDone 1 0 true) (sDram { subUp with training := true, temp := 60 }) (fun t => decide ((t.subch 1 0).training = false ∧ (t.subch 1 0).trainTemp = 60)) &&
    after (.dramScrub 1 0 0 3 5 0 [beatOk]) (sDram subUp) (fun t => decide ((t.subch 1 0).scrubAt = 1)) &&
    after (.dramReadReturn 1 0 [qRead] [beatOk ^^^ (3 * 2 ^ 32)]) sMirror (fun t => decide ((t.chan 1).ue = true ∧ .dramMirror 3 0 ∈ t.out)) = true := by decide +kernel
/-- A write waits for the first read of another burst; a read of its own burst takes its data (R404). -/
theorem test_dram_queues : after (.dramReadReturn 1 0 [qRead] []) (sDram subWrite) (fun t => decide (.dramForward 1 0 9 ∈ t.out ∧ (t.subch 1 0).reads = [])) &&
    after (.dramReadReturn 1 0 [{ qRead with row := 6 }] [beatOk]) (sDram { subWrite with banks := [(3, { isOpen := true, last := some 6 })] })
      (fun t => decide ((t.subch 1 0).writes.length = 1 ∧ (t.subch 1 0).reads = [])) = true := by decide +kernel

/-! ### The journal, checkpoints and recovery (05, 20) -/

def sJr (j : Journal) : State := { ample with jr := j, hq := { State.reset.hq with idReady := 0xFF1F } }
def jPad (n : Nat) : JEntry := { jseq := n, region := 0, cont := false, body := .pad }
/-- One page being programmed, its programs in both copies having answered. -/
def sFly : State := sJr { flying := [jPad 1], bandA := { band := some 1, next := 1, issued := 1 }, bandB := { band := some 2, next := 1, issued := 1 } }
theorem wit_JournalAndCheckpoints_JournalFlushes : (sJr {}).jr.holdStep = 0 ∧ ((sJr {}).spareReserve : Int) + 2 ≤ (sJr {}).sparePool ∧
    6144 ≤ (sJr { buf := List.replicate 6144 (jPad 1) }).jr.buf.length ∧ sFly.jr.flying ≠ [] ∧ sFly.hq.cqAnswer = true ∧ sFly.pageOver = true ∧
    sFly.copyReady sFly.jr.regA = true ∧ sFly.copyReady sFly.jr.regB = true ∧ sFly.jr.acts = [] ∧ Still sFly := by
  refine ⟨by decide +kernel, by decide +kernel, ?_, by decide +kernel, by decide +kernel, by decide +kernel, by decide +kernel, by decide +kernel, by decide +kernel,
    by decide +kernel⟩
  show 6144 ≤ (List.replicate 6144 (jPad 1)).length
  exact Nat.le_of_eq List.length_replicate.symm
theorem test_flush : after .journalInterval (sJr { buf := [jPad 1] }) (fun t => decide (t.jr.flying.length = 512 ∧ t.jr.buf = [] ∧ t.now = 2000000)) = true := by
  decide +kernel
theorem test_persist : after (.journalPagePersisted true) sFly (fun t => decide (t.jr.flash = [jPad 1] ∧ t.jr.flying = [])) = true := by decide +kernel

/-- A checkpoint whose two bands have had their first rows read. -/
def sCkpt : State := sJr { ckptRun := some (1, false), ckptBands := [bandKey 4 0, bandKey 5 0] }
theorem wit_JournalAndCheckpoints_CheckpointsAreTaken : (sJr {}).jr.ckptRun = none ∧ bit (sJr {}).hq.idReady 3 = true ∧ (sJr {}).st.moves = [] ∧
    (sJr { written := 4294967296 }).param 0x040042 4 * 1073741824 ≤ (sJr { written := 4294967296 }).jr.written ∧
    sCkpt.jr.ckptRun = some (1, false) ∧ sCkpt.jr.ckptBands ≠ [] ∧ (∀ k ∈ sCkpt.jr.ckptBands, (sCkpt.bandAt k).taken = false) ∧
    (∀ a ∈ sCkpt.jr.acts, 1 ≤ a.1) ∧ sCkpt.journalRoom 16 = true ∧ sCkpt.hq.cqAnswer = true ∧ sCkpt.st.sanitizing = false ∧ Quiet sCkpt ∧
    sCkpt.jr.jbands = [] ∧ sCkpt.jr.ckpts.length ≤ 1 := by and_intros <;> decide +kernel
theorem test_checkpoint : after .checkpointTimer (sJr {}) (fun t => decide (t.now = 60000000000 ∧ t.jr.ckptRun = some (1, false))) &&
    after .checkpointJournalVolume (sJr { written := 4294967296 }) (fun t => decide (t.jr.ckptRun = some (1, false))) &&
    after (.checkpointDone true) sCkpt (fun t => decide (t.jr.ckptRun = none ∧ t.jr.ckpts.map (·.num) = [1] ∧ t.jr.buf.length = 1)) = true := by
  decide +kernel

/-- One checkpoint on flash, whose map holds slab 2 OPEN at write pointer 5; after it the journal advanced it to 9. -/
def ckpt0 : Ckpt := { num := 1, start := 1, clean := false, regA := 0, regB := 4, image := sStore.st, insts := [], health := {}, levels := [], pilotAge := [], ageClock := 7, wall := none }
def sStopped (clean : Bool) : State :=
  let s := sJr { ckpts := [{ ckpt0 with clean := clean }], flash := [⟨1, 0, false, .checkpoint 1 1 clean 0 4⟩] ++ (if clean then [] else [⟨2, 0, false, .wpAdvance 2 9 3⟩]) }
  { s with hq := { s.hq with idReady := 0xFF11 }, stew := { s.stew with boot := .firmware } }
theorem wit_RecoveryLoadsTheMap : (sStopped false).jr.recovered = false ∧ bit (sStopped false).hq.idReady 3 = false ∧ (sStopped false).stew.boot = .firmware ∧
    (sStopped false).recoverable {} = true ∧ (sStopped false).startCkpt {} = some ckpt0 ∧ (sStopped false).stopClean ckpt0 = false ∧
    (sStopped true).startCkpt {} = some { ckpt0 with clean := true } ∧ (sStopped true).stopClean { ckpt0 with clean := true } = true ∧
    (sStopped true).recoverable {} = true ∧ (∀ e ∈ (sStopped true).st.bands, e.2.torn = false) ∧ mwf ({} : Slab) ckpt0.image.slabs = true := by
  and_intros <;> decide +kernel
def sLoaded : State :=
  let s := sRoomy eRead
  { s with jr := { s.jr with recovered := true, unsafeStop := true }, hq := { s.hq with idReady := 0x111, ops := [] } }
theorem wit_RecoveryLoadsTheMap_ready : sLoaded.jr.recovered = true ∧ bit sLoaded.hq.idReady 3 = false ∧ (∀ e ∈ sLoaded.hq.insts, e.2.st ≠ .resetting) ∧
    Quiet sLoaded ∧ sLoaded.jr.clean = false ∧ sLoaded.jr.holdStep = 0 ∧ bit (sJr {}).hq.idReady 3 = true ∧ (sJr {}).stew.wallUsed = false := by
  and_intros <;> decide +kernel
theorem test_recovery_start : after (.recoveryStart {}) (sStopped false) (fun t => decide (t.jr.recovered = true ∧ (t.slab 2).wp = 9)) &&
    after (.recoveryStart {}) (sStopped true) (fun t => decide (t.jr.clean = true ∧ (t.slab 2).wp = 5)) &&
    after .mapReady sLoaded (fun t => decide (t.hq.idReady = 0x119 ∧ t.health.unsafeShutdowns = 1)) &&
    after .wallTimeDeadline (sJr {}) (fun t => decide (t.now = 60000000000 ∧ t.stew.wallUsed = true)) = true := by decide +kernel

/-! ### Power loss, resets and bring-up (05, 20) -/

/-- The device running with its supplies up, its map recovered. -/
def sOn : State :=
  let s := sJr { recovered := true }
  { s with stew := { s.stew with supplies := true, boot := .firmware, perst := false } }
def sDown : State := { sOn with hq := { sOn.hq with shutdown := true } }
def sHeld : State := { sOn with now := 5, jr := { sOn.jr with holdStep := 5, holdFor := .powerFail } }
def sLow : State := { sHeld with stew := { sHeld.stew with powerFail := true } }
/-- The same with region 0 able to take a journal band. -/
def sDownUp : State := (List.range 8).foldl (fun (s : State) t => s.setLink (8 * t) { st := .active, dies := 1 })
  { sDown with st := { sDown.st with geom := [(0, (1, 1024))] } }
/-- A SHUTDOWN in P2, and one before recovery. -/
def sDownP2 : State := { sDown with pw := { sDown.pw with st := .p2 } }
def sDownEarly : State := { sDown with jr := { sDown.jr with recovered := false } }
theorem wit_StopsRescueStaging : sDown.hq.shutdown = true ∧ sDown.hq.shutdownDone = false ∧ sDown.anyStarted = false ∧ sDown.jr.holdStep = 0 ∧ sDown.jr.recovered = true ∧
    sDownP2.asleep = true ∧ sDownP2.hq.shutdown = true ∧ sDownP2.anyStarted = false ∧ sDownEarly.jr.recovered = false ∧ sDownEarly.jr.flying = [] ∧
    sDownEarly.countCmds (fun m => decide (m.why = .rescue)) = 0 ∧ sDownEarly.anyStarted = false ∧ sOn.stew.supplies = true ∧
    sOn.stew.powerFail = false ∧ sOn.stew.boot ≠ .off ∧ sOn.jr.holdStep = 0 ∧ sHeld.jr.holdStep = 5 ∧ sHeld.jr.holdFor = .powerFail ∧ sHeld.stew.powerFail = false ∧
    sLow.stew.powerFail = true ∧ State.reset.stew.supplies = false := by and_intros <;> decide +kernel
theorem test_stops : after .shutdownDone sDownP2 (fun t => decide (t.hq.shutdownDone = true ∧ t.jr.holdStep = 5)) &&
    after .shutdownDone sDownUp (fun t => decide (t.hq.shutdownDone = false ∧ t.hq.stopFetch = true ∧ t.jr.holdStep = 3)) &&
    after .powerFailAsserted sOn (fun t => decide (t.stew.powerFail = true ∧ t.hq.stopFetch = true)) &&
    after .powerFailReturn sHeld (fun t => decide (t.now = 10000000 ∧ t.jr.holdStep = 0)) &&
    after .powerFailReturn sLow (fun t => decide (t.now = 5 ∧ t.stew.highAt = 5 ∧ t.stew.powerFail = false ∧ t.jr.holdStep = 5)) &&
    after .powerLoss sOn (fun t => decide (t.stew.supplies = false ∧ t.jr.unsafeStop = true)) &&
    after .powerOn State.reset (fun t => decide (t.stew.supplies = true ∧ t.stew.boot = .off)) = true := by decide +kernel

def sDone : State := { sOn with hq := { sOn.hq with shutdownDone := true } }
def sPins (perst devRst : Bool) : State := { State.reset with stew := { State.reset.stew with supplies := true, perst := perst, devRst := devRst } }
theorem wit_ResetPins : sDone.stew.supplies = true ∧ sDone.stew.boot ≠ .off ∧ sDone.stew.boot ≠ .chipFault ∧ sDone.hq.shutdownDone = true ∧ mwf {} sDone.hq.insts = true ∧
    (sPins true false).stew.supplies = true ∧ (sPins true false).stew.boot = .off ∧ (sPins true false).stew.perst = true ∧ (sPins true false).stew.devRst = false ∧
    (sPins false true).stew.devRst = true ∧ (sPins false true).stew.perst = false := by and_intros <;> decide +kernel
theorem test_resets : after .perstAsserted sDone (fun t => decide (t.stew.perst = true ∧ t.stew.boot = .off ∧ t.hq.idReady = 0)) &&
    after .devRstAsserted sDone (fun t => decide (t.stew.devRst = true ∧ t.now = 1000)) &&
    after (.perstDeasserted 5 1) (sPins true false) (fun t => decide (t.stew.boot = .rom ∧ t.stew.image = 1 ∧ t.stew.nodeId = 5)) &&
    after (.devRstDeasserted 5 2) (sPins false true) (fun t => decide (t.stew.boot = .recovery)) = true := by decide +kernel

def sRom (tried : Nat) : State := { sOn with stew := { sOn.stew with boot := .rom, tried := tried, digests := [(9, false), (8, true)] } }
def img (d : BitVec 256) : BootImage := { magic := 0x4B535431, rev := 1, length := 4096, entry := 64, version := 3, digest := d }
theorem wit_BootAndReadyBits : (sRom 0).stew.boot = .rom ∧ (sRom 0).bootHits 9 ≠ 0 ∧ (sRom 0).bootHits 8 = 0 ∧ (sRom 0).stew.tried = 0 ∧ (sRom 1).stew.tried ≠ 0 ∧
    sOn.stew.boot ≠ .off ∧ sOn.stew.boot ≠ .chipFault := by and_intros <;> decide +kernel
/-- Before DRAM and region 0 are ready; links 0 to 63 are absent. -/
def sBare : State :=
  let s := (List.range 64).foldl (fun (s : State) l => s.setLink l { st := .absent }) sOn
  { s with hq := { s.hq with idReady := 1 } }
theorem wit_BootAndReadyBits_ready : sBare.stew.boot = .firmware ∧ bit sBare.hq.idReady 2 = false ∧ sBare.ld.runs = [] ∧ (sBare.region 0).restarting = false ∧
    sBare.regionReady 0 = false ∧ (∀ i, i < 64 → sBare.linkSettled (64 * 0 + i) = true) ∧ (∀ e ∈ sBare.st.bands, e.2.st ≠ .stale) ∧ Quiet sBare := by
  and_intros <;> decide +kernel
theorem test_boot : after (.bootImageLoaded (img 8)) (sRom 0) (fun t => decide (t.stew.tried = 1 ∧ t.stew.image = 1)) &&
    after (.bootImageLoaded (img 8)) (sRom 1) (fun t => decide (t.stew.boot = .recovery)) &&
    after .cfgReady sOn (fun t => decide (t.hq.linkUp = true)) && after .adminReady { sOn with hq := { sOn.hq with idReady := 1 } } (fun t => decide (t.hq.idReady = 3)) = true := by
  decide +kernel
theorem test_dram_ready : after (.dramReady 32 [(0, .ok 1), (1, .ok 1), (4, .ok 1), (5, .ok 1)]) { sOn with hq := { sOn.hq with idReady := 1 } } (fun t =>
    decide (t.hq.idReady = 5 ∧ t.dram.gib = 32 ∧ (t.subch 2 1).inService = true)) = true := by decide +kernel
theorem test_region_ready : after (.regionReady 0) sBare (fun t => decide (t.hq.idReady = 0x101)) = true := by decide +kernel

/-! ### Power states, clocks, throttling (22) -/

def sIn (p : PState) : State := { sOn with pw := { sOn.pw with st := p } }
def sLeaving : State := { sOn with pw := { sOn.pw with st := .p1, leaving := true } }
theorem tile_of_all {s : State} {p : Tile → Prop} (hd : p {}) (h : ∀ e ∈ s.tiles, p e.2) (k : Nat) : p (s.tile k) := mget_of_all hd h
theorem noLaneWork {s : State} (h : s.tiles = []) (k : Nat) : (s.tile k).laneWork = false :=
  tile_of_all (p := fun x => x.laneWork = false) rfl (by rw [h]; simp) k
/-- P2 is being entered: the journal is flushed, and link 1 alone is left ACTIVE, asked for SLEEP. -/
def sEnteringP2 : State :=
  let s := (sIn .p1).setLink 1 { st := .active, req := some .sleeping }
  { s with pw := { s.pw with entering := some .p2, flushed := true } }
theorem wit_PowerStates : sOn.mayEnter 1 .p0 = true ∧ (sIn .p1).mayEnter 2 .p1 = true ∧ (sIn .p1).staged = [] ∧ (sIn .p1).st.tails = [] ∧
    (sIn .p1).jr.recovered = true ∧ (sIn .p2).mayEnter 3 .p2 = true ∧ ctlIs cSLEEP (ctlWord cSLEEP 0) = true ∧ sEnteringP2.pw.entering = some .p2 ∧
    sEnteringP2.pw.flushed = true ∧ sEnteringP2.rescuing = false ∧ sEnteringP2.jr.holdStep = 0 ∧ sEnteringP2.jr.buf = [] ∧ sEnteringP2.jr.flying = [] ∧
    mwf ({} : Link) sEnteringP2.links = true ∧ (sEnteringP2.link 1).st = .active ∧ (sEnteringP2.link 1).req = some .sleeping ∧
    (∀ e ∈ sEnteringP2.links, e.1 ≠ 1 → e.2.st ≠ .active ∧ e.2.st ≠ .standby) ∧
    sLeaving.pw.leaving = true ∧ (∀ e ∈ sLeaving.links, e.2.st ≠ .standby ∧ e.2.st ≠ .sleeping) ∧ Quiet sLeaving ∧ ∀ k, (sLeaving.tile k).laneWork = false := by
  refine ⟨?_, ?_, ?_, ?_, ?_, ?_, ?_, ?_, ?_, ?_, ?_, ?_, ?_, ?_, ?_, ?_, ?_, ?_, ?_, ?_, noLaneWork ?_⟩ <;> decide +kernel
theorem test_p1 : after .p1Entry (sOn.setLink 1 { st := .active }) (fun t => decide (t.pw.st = .p1 ∧ t.now = 50000 ∧ (t.link 1).req = some .standby)) = true := by decide +kernel
theorem test_p2 : after .p2Entry ((sIn .p1).setLink 1 { st := .standby }) (fun t =>
      decide (t.pw.st = .p1 ∧ t.pw.entering = some .p2 ∧ t.pw.flushed = true ∧ (t.link 1).wakeSent = true)) &&
    after (.sleep 1 (ctlWord cSLEEP 0)) sEnteringP2 (fun t => decide (t.pw.st = .p2 ∧ (t.link 1).st = .sleeping ∧ (t.tile 1).retain = 0xF)) = true := by decide +kernel
theorem test_p3 : after .p3Entry (sIn .p2) (fun t => decide (t.pw.st = .p3)) = true := by decide +kernel
set_option maxRecDepth 20000 in
theorem test_power_exit : after .powerStateExitDone sLeaving (fun t => decide (t.pw.st = .p0)) = true := by decide +kernel

/-- Tile 0 works with its clock at 800 MHz. -/
def sWork : State := let s := sPy core0
  { s with stew := { s.stew with supplies := true } }
/-- A raised sleep mode for every core, and for the steward. -/
def sSleep : State := { sOn with dict := { sOn.dict with vals := [(0x050070, List.replicate 65 2)] } }
def sGov (past : Nat) : State := { sOn with pw := { sOn.pw with samples := List.replicate 9 past } }
def sUnder : State := { sOn with now := 10000000, pw := { sOn.pw with belowAt := some 0, steps := 2 } }
def cool : List Nat := List.replicate 9 300
def hot : List Nat := [300, 300, 1000, 300, 300, 300, 300, 300, 300]
theorem wit_ClocksAndThrottling : sOn.tileBusy 0 = false ∧ sWork.tileBusy 0 = true ∧ sWork.pw.st = .p0 ∧ (sWork.tile 0).clockMhz < ceilingMhz (sWork.stepsOf 0) ∧
    sSleep.sleepMode 0 ≠ 0 ∧ (sSleep.core 0).atRest = true ∧ sSleep.sleepMode 64 ≠ 0 ∧ sOn.stew.supplies = true ∧ Quiet sOn ∧
    ((30000 :: (sGov 30000).pw.samples).take 10).length = 10 ∧ 290000 < ((30000 :: (sGov 30000).pw.samples).take 10).foldl (· + ·) 0 ∧ (sGov 30000).pw.overAt = none ∧
    (sGov 30000).pw.steps < 20 ∧ sUnder.pw.belowAt = some 0 ∧ 0 + 10000000 ≤ sUnder.now ∧ sUnder.pw.samples.length < 9 ∧ 0 < sUnder.pw.steps ∧ cool.length = 9 ∧
    (∀ d ∈ cool, d < 1000) ∧ (∀ d ∈ hot, d < 1100) ∧ hot.length = 9 ∧ 1000 ≤ hot.getD (1 + 1) 0 ∧ (∀ p, p < 8 → (sOn.region p).hot = false) ∧ ∀ k, (sOn.tile k).laneWork = false := by
  refine ⟨?_, ?_, ?_, ?_, ?_, ?_, ?_, ?_, ?_, ?_, ?_, ?_, ?_, ?_, ?_, ?_, ?_, ?_, ?_, ?_, ?_, ?_, ?_, noLaneWork ?_⟩ <;> decide +kernel
set_option maxRecDepth 20000 in
theorem test_clocks : after (.tileClockDrop 3) sOn (fun t => decide (t.now = 20000 ∧ (t.tile 3).clockMhz = 800)) &&
    after (.tileClockRaise 0) sWork (fun t => decide ((t.tile 0).clockMhz = ceilingMhz 0)) &&
    after (.coreClockStop 0) sSleep (fun t => decide ((t.core 0).clockOff = true)) && after (.coreClockStop 64) sSleep (fun t => decide (t.stew.clockOff = true)) &&
    after (.governorEstimate 30000) (sGov 30000) (fun t => decide (t.pw.steps = 1)) && after (.governorEstimate 100) sUnder (fun t => decide (t.pw.steps = 1)) &&
    after (.thermalSample cool) sOn (fun t => decide ((t.region 7).tempDeci = 300 ∧ t.now = 1000000)) &&
    after (.thermalSample hot) sOn (fun t => decide ((t.region 1).hot = true ∧ (t.region 1).steps = 1 ∧ t.stew.thermAlert = true)) = true := by decide +kernel

/-! ### Ladle's own rows, and the store's background work (04, 11) -/

def dItem (timed : Bool) : ItemDesc := BitVec.ofNat 256 (0x1E0014 + (if timed then 2 ^ 77 + 5000 * 2 ^ 192 else 0))
def itT : Item := { due := 5000, timed := true }
def itB : Item := { kind := .background, prio := 7 }
def sReg (r : Region) : State := sOn.setRegion 0 r
theorem wit_LadleRows : sOn.canAccept (itemOfDesc (dItem false)) = true ∧ sOn.toTimer (itemOfDesc (dItem false)) = false ∧
    sOn.spills (itemOfDesc (dItem false)).region (itemOfDesc (dItem false)) = false ∧ sOn.canAccept (itemOfDesc (dItem true)) = true ∧
    sOn.toTimer (itemOfDesc (dItem true)) = true ∧ ((sReg { timers := [itT], nextTick := 5 }).region 0).timers = [itT] ∧ itT.region = 0 ∧
    (sReg { timers := [itT], nextTick := 5 }).tickOf itT.due ≤ (sReg { timers := [itT], nextTick := 5 }).endingTick 0 + 5 ∧
    ((sReg { ready := [itB] }).region 0).ready.find? (fun (y : Item) => decide (y.kind = .background ∧ y.prio = 7) && !y.raised) = some itB ∧
    sOn.now < itB.enq + sOn.stealDelay ∧ ((sReg { spilled := [itB] }).region 0).spilled = [itB] ∧ ((sReg { spilled := [itB] }).region 0).ready.length < 3584 ∧
    ∀ k, ((sReg { ready := [itB] }).tile k).laneWork = false := by
  refine ⟨?_, ?_, ?_, ?_, ?_, ?_, ?_, ?_, ?_, ?_, ?_, ?_, noLaneWork ?_⟩ <;> decide +kernel
/-- The clock within tick 5. -/
def sTick : State := { sReg { timers := [itT], nextTick := 5 } with now := 5100 }
theorem wit_LadleRows_tick : (sTick.region 0).timers = [itT] ∧ sTick.tickOf itT.due ≤ sTick.endingTick 0 ∧ sTick.hasPlace 0 itT = true ∧ sTick.spills 0 itT = false := by
  and_intros <;> decide +kernel
theorem test_ladle : after (.stewardItemSubmit (dItem false)) sOn (fun t => decide ((t.region 0).ready.length = 1 ∧ t.ld.seq = 1)) &&
    after (.stewardItemSubmit (dItem true)) sOn (fun t => decide ((t.region 0).timers.length = 1)) &&
    after (.timerTick 0) sTick (fun t => decide ((t.region 0).timers = [] ∧ (t.region 0).ready.length = 1 ∧ t.now = 6000)) &&
    after (.backgroundRaise 0) (sReg { ready := [itB] }) (fun t => decide (t.now = 5000000 ∧ (t.region 0).ready.map (·.raised) = [true])) &&
    after (.stealDelayExpiry 0) (sReg { ready := [itB] }) (fun t => decide (t.now = 2000)) &&
    after (.stockpotBringBack 0) (sReg { spilled := [itB] }) (fun t => decide ((t.region 0).spilled = [] ∧ (t.region 0).ready.length = 1)) = true := by decide +kernel

/-- Slab 2 asks to be relocated for a failed verify-read; its band 1 is CLOSED and old. -/
def sMoveReq : State := let s := sRoomy eRead
  { s with st := { s.st with moveReq := [(2, some (.verifyFail, false))] } }
def sOld (age : Nat) : State := let s := (sRoomy eRead).setBand 0 1 { st := .closed, firstProg := some 0 }
  { s with now := age * 1000000000 }
theorem wit_BackgroundWork : mget none sMoveReq.st.moveReq 2 = some (.verifyFail, false) ∧ (sMoveReq.slab 2).moving = false ∧ (sMoveReq.slab 2).st = .opened ∧
    sMoveReq.jr.buf.length + 4 ≤ 8192 ∧ sMoveReq.place? = some (0, 0) ∧ sMoveReq.jr.holdStep = 0 ∧ ((sOld 15552000).bandAt (bandKey 0 1)).firstProg = some 0 ∧
    86400 * (sOld 15552000).param 0x030014 180 ≤ (sOld 15552000).ageNow - 0 ∧ ((sOld 15552000).bandAt (bandKey 0 1)).st = .closed ∧ (sOld 15552000).logOf 0 1 = none ∧
    (sOld 15552000).slabOf 0 1 = some 2 ∧ ((sOld 15552000).slab 2).moving = false ∧ (sOld 5).ageNow - 0 < 86400 * (sOld 5).param 0x030014 180 := by
  and_intros <;> decide +kernel
/-- Band 0 of region 0 CLOSED with slab 4 in it at write pointer 600; its reads go to the links of offset 0. -/
def sVer : State := ((sRoomy eRead).setSlab 4 { st := .full, band := 0, wp := 600 }).setBand 0 0 { st := .closed }
def sFold : State := { sVer with st := { sVer.st with slcs := [(0, some { f := 0, w := 1, rows := [(0, 8, 0)] })] } }
/-- The same with row 0 still staged. -/
def sFoldStaged : State := { sFold with staged := (List.range 512).map (fun i => { slab := 4, grain := i, band := 0, at_ := i, issued := true }) }
theorem wit_BackgroundWork_bands : (sVer.bandAt (bandKey 0 0)).st = .closed ∧ (sVer.bandAt (bandKey 0 0)).role = 0 ∧ mget none sVer.st.verifies (bandKey 0 0) = none ∧
    bandRegion (bandKey 0 0) = 0 ∧ bandIndex (bandKey 0 0) = 0 ∧ sVer.bgPaused 0 = false ∧ sVer.verifiable 0 0 = true ∧ mget none sVer.st.slcs (bandKey 0 0) = none ∧ sVer.movingTo 0 0 = none ∧
    sVer.staged = [] ∧ 0 < sVer.writtenOf 0 0 ∧ sVer.hq.cqAnswer = true ∧ mget none sFold.st.slcs (bandKey 0 0) = some { f := 0, w := 1, rows := [(0, 8, 0)] } ∧
    sFold.regionReady 0 = true ∧ sFold.noCmds (.slcRow (bandKey 0 0) 0) = true := by and_intros <;> decide +kernel
theorem wit_BackgroundWork_rows : 512 * 0 < sFold.writtenOf 0 0 ∧ (sFold.rowStaged 0 0 0).length ≠ 512 ∧
    (∀ c ∈ sFold.rowLocs 0 0 (512 * 0) (Nat.min (sFold.writtenOf 0 0) (512 * (0 + 1))), sFold.reachable c = true ∧ (sFold.link c.link).retraining = none) ∧
    (sFoldStaged.rowStaged 0 0 0).length = 512 ∧ sFoldStaged.noCmds (.slcRow (bandKey 0 0) 0) = true := by and_intros <;> decide +kernel
theorem test_background : after (.relocationStart 2) sMoveReq (fun t => decide ((t.slab 2).moving = true ∧ (t.band 0 0).taken = true ∧ t.st.epoch = 1)) &&
    after (.bandAgeRefresh 0 1) (sOld 15552000) (fun t => decide ((mget none t.st.moveReq 2).map Prod.fst = some .refresh)) &&
    after (.verifyRead 0 0 true) sVer (fun t => match mget none t.st.verifies 0 with | some v => decide (v.row = 1 ∧ 0 < v.left) | none => false) = true := by decide +kernel
theorem test_fold : after (.foldRow 0 0) sFoldStaged (fun t => match mget none t.st.slcs 0 with | some x => decide (x.phase = 2) | none => false) = true := by decide +kernel

/-! ### Reset, and what every step keeps -/

theorem wit_StepsKeepTargetsWf : targetsWf { State.reset with pending := [.lock] } = true ∧
    (match step { State.reset with pending := [.lock] } with | .next t => t.intLock | _ => false) = true := by and_intros <;> decide +kernel
theorem wit_LockedTargetsStay : ({ State.reset with intLock := true, intTgt := [(3, { prio := 1 })], pending := [.journalInterval] } : State).intLock = true ∧
    (match step { State.reset with intLock := true, intTgt := [(3, { prio := 1 })], pending := [.journalInterval] } with
      | .next t => decide (t.intTgt = [(3, { prio := 1 })]) | _ => false) = true := by and_intros <;> decide +kernel

/-! ### Well-formedness: one term for each check that the check refuses, and one that every check of its row passes -/

def q0 : DramReq := { rank := 0, bank := 0, row := 0, col := 0, access := .read .journal }
def b16 : List (BitVec 40) := List.replicate 16 0
theorem test_ill_formed_0 : ([
  .sqTail 4096 0, .cqHead 4096 0, .restart 4096 true, .flushPending 4096 true, .restartTakesEffect 4096 true, .registerWrite .steward 0 24 0,
  .descriptorListRead 4096 0 (.ok []) .ok true, .descriptorListRead 0 32 (.ok []) .ok true, .hostDataArrival 4096 0 (.ok []) .ok true,
  .hostDataArrival 0 32 (.ok []) .ok true, .moderationWindowEnd 2048, .vectorUnmask 2048, .queueDrainEnd 4096 true, .append 4096 0 true,
  .append 0 32 true, .read 4096 0 .ok true, .read 0 32 .ok true, .overwrite 4096 0 true, .overwrite 0 32 true, .openSlab 4096 0 true,
  .openSlab 0 32 true, .closeSlab 4096 0 true, .closeSlab 0 32 true, .resetSlab 4096 0 true, .resetSlab 0 32 true, .flushTail 4096 0 true,
  .flushTail 0 32 true, .run 4096 0 true, .run 0 32 true, .programLoad 4096 0 (.ok []) .ok true, .programLoad 0 32 (.ok []) .ok true,
  .pipelineDescriptorLoad 4096 0 (.ok []) .ok true, .pipelineDescriptorLoad 0 32 (.ok []) .ok true, .programDrop 4096 0 true, .programDrop 0 32 true,
  .cipherLoad 4096 0 (.ok []) true, .cipherLoad 0 32 (.ok []) true, .cipherZeroise 4096 0 true, .cipherZeroise 0 32 true,
  .hmacLoad 4096 0 (.ok []) true, .hmacLoad 0 32 (.ok []) true, .hmacZeroise 4096 0 true, .hmacZeroise 0 32 true, .camSearch 4096 0 (.ok []) true,
  .camSearch 0 32 (.ok []) true, .camInsert 4096 0 (.ok []) true, .camInsert 0 32 (.ok []) true, .camDelete 4096 0 (.ok []) true,
  .camDelete 0 32 (.ok []) true, .camUpdate 4096 0 (.ok []) true, .camUpdate 0 32 (.ok []) true, .camRead 4096 0 (.ok []) .ok true,
  .camRead 0 32 (.ok []) .ok true, .camClear 4096 0 (.ok []) true, .camClear 0 32 (.ok []) true, .abort 4096 0 true, .abort 0 32 true,
  .instanceCreate 4096 0 true, .instanceCreate 0 32 true, .instanceDelete 4096 0 true, .instanceDelete 0 32 true, .instanceReset 4096 0 true,
  .instanceReset 0 32 true, .instanceResetComplete 256 true, .instanceResetTimeout 256, .queueCreate 4096 0 true, .queueCreate 0 32 true,
  .queueDelete 4096 0 true, .queueDelete 0 32 true, .pasidBind 4096 0 true] : List Instr).all (fun i => !wellFormed i) = true := by decide +kernel
theorem test_ill_formed_1 : ([
  .pasidBind 0 32 true, .pasidUnbind 4096 0 true, .pasidUnbind 0 32 true, .keyGrant 4096 0 true, .keyGrant 0 32 true, .camGrant 4096 0 true,
  .camGrant 0 32 true, .moderate 4096 0 true, .moderate 0 32 true, .logReadErrorLog 4096 0 .ok true, .logReadErrorLog 0 32 .ok true,
  .logReadHealthReport 4096 0 .ok true, .logReadHealthReport 0 32 .ok true, .dictRead 4096 0 .ok true, .dictRead 0 32 .ok true,
  .dictWrite 4096 0 (.ok []) true, .dictWrite 0 32 (.ok []) true, .format 4096 0 true, .format 0 32 true, .sanitize 4096 0 true, .sanitize 0 32 true,
  .selfTestShort 4096 0 true, .selfTestShort 0 32 true, .selfTestExtended 4096 0 true, .selfTestExtended 0 32 true, .readWaitLimit 4096 0 true,
  .readWaitLimit 0 32 true, .writeClosedReopen 256, .runStart 4096 0 (.ok []) (.ok []) (.ok []) true, .runStart 0 32 (.ok []) (.ok []) (.ok []) true,
  .keyScheduleDone true 256 true, .keyScheduleDone false 4096 true, .mov 64 x0, .add 64 x0, .addc 64 x0, .sub 64 x0, .subc 64 x0, .neg 64 x0,
  .and 64 x0, .or 64 x0, .xor 64 x0, .andn 64 x0, .not 64 x0, .shl 64 x0, .shr 64 x0, .sar 64 x0, .rol 64 x0, .ror 64 x0, .setb 64 x0, .clrb 64 x0,
  .flpb 64 x0, .fldu 64 x0, .flds 64 x0, .widen 64 x0, .popc 64 x0, .clz 64 x0, .mul 64 x0, .mulh 64 x0, .min 64 x0, .max 64 x0, .adr 64 x0,
  .jmp 64 x0, .call 64 x0, .skip 64 x0, .skipbit 64 x0, .rpt 64 x0, .nop 64 x0, .done 64 x0, .doneTakesEffect 64 .ok true, .scopy 64 x0] : List Instr).all (fun i => !wellFormed i) = true := by decide +kernel
theorem test_ill_formed_2 : ([
  .scomp 64 x0, .sseek 64 x0, .sfill 64 x0, .smap 64 x0, .scrc 64 x0, .wfe 64 x0, .wfeWake 64, .sev 64 x0, .waitt 64 x0, .waittWake 64, .fence 64 x0,
  .fenceDone 64, .post 64 x0, .postAccepted 64, .eng 64 x0, .cams 64 x0, .watchdog 64 true, .itemDispatch 64 true, .timerTick 8, .backgroundRaise 8,
  .stealDelayExpiry 8, .stockpotBringBack 8, .bankOwnerWrite 64 0 0 .core, .bankOwnerWrite 0 16 0 .core, .bankHandover 64 0, .bankHandover 0 16,
  .bankZeroingDone 64 0, .bankZeroingDone 0 16, .tlEvpWrite 64 0, .remapEntryWrite 64 0 0 0, .remapEntryWrite 0 16 0 0, .remapEntryWrite 0 0 4 0,
  .tlRetWrite 64 0, .retentionEntry 64 0, .retentionEntry 0 4, .retentionWakeDone 64 0, .retentionWakeDone 0 4, .conflictCounterClear 64 0,
  .collideClear 64 0 0, .collideClear 0 16 0, .mergeEntryWrite 64 0, .mergeEntryWrite 0 16, .hardFaultCheck 64 0 0, .hardFaultCheck 0 16 0,
  .scrubRead 64 0 0 none, .scrubRead 0 16 0 none, .reducerJobEnd 64 true, .expanderJobEnd 64 true, .cipherJobEnd 64 0 true, .cipherJobEnd 0 4 true,
  .digestJobEnd 64 0 true true true, .digestJobEnd 0 2 true true true, .cipherSegmentBoundary 64 0 0, .cipherSegmentBoundary 0 4 0,
  .digestSegmentBoundary 64 0, .digestSegmentBoundary 0 2, .decoderKnownAnswerTest true 64 true, .decoderKnownAnswerTest false 512 true,
  .laneKnownAnswerTest 64 .expander true, .laneKnownAnswerTest 0 (.digest 2) true, .camSegmentPlacingDone 16, .dramReadReturn 4 0 [] b16,
  .dramReadReturn 0 2 [] b16, .dramReadReturn 0 0 [] [], .dramReadReturn 0 0 [{ q0 with rank := 2 }] b16,
  .dramReadReturn 0 0 [{ q0 with bank := 32 }] b16, .dramReadReturn 0 0 [{ q0 with row := 131072 }] b16,
  .dramReadReturn 0 0 [{ q0 with col := 2048 }] b16, .dramRefresh 4 0 0, .dramRefresh 0 2 0] : List Instr).all (fun i => !wellFormed i) = true := by decide +kernel
theorem test_ill_formed_3 : ([
  .dramRefresh 0 0 2, .mr4Read 4 0 0 0 0, .mr4Read 0 2 0 0 0, .mr4Read 0 0 2 0 0, .zqCalibration 4 0, .zqCalibration 0 2, .rowIdleClose 4 0 0 0,
  .rowIdleClose 0 2 0 0, .rowIdleClose 0 0 2 0, .rowIdleClose 0 0 0 32, .dramScrub 0 0 0 0 0 0 [], .dramScrub 4 0 0 0 0 0 b16,
  .dramScrub 0 2 0 0 0 0 b16, .dramScrub 0 0 2 0 0 0 b16, .dramScrub 0 0 0 32 0 0 b16, .dramScrub 0 0 0 0 131072 0 b16,
  .dramScrub 0 0 0 0 0 2048 b16, .dcRetrainWrite 4 0, .dramRetrainDone 4 0 true, .dramRetrainDone 0 2 true, .rdata 512 [] 0 true, .rsp 512 [],
  .ack 512 0, .nak 512 0, .crd 512 0, .ts1 512 0, .ts2 512 0, .stby 512 0, .wake 512 0, .sleep 512 0, .blockLock 512 [], .blockHuntTimeout 512,
  .lossOfLock 512 [], .replayTimeout 512, .creditStall 512 0, .creditStall 0 3, .nakHoldoffEnd 512, .signalDetect 512, .detectTimeout 512,
  .equalisationPreset 512 0, .trainingLimit 512, .recoveryTimeout 512, .fullRetrainFailure 512, .linkDegraded 512, .readPageResponse 0 256 true true,
  .readPageResponse 512 0 true true, .programResponse 0 256 true, .programResponse 512 0 true, .eraseResponse 0 256 true, .eraseResponse 512 0 true,
  .statusResponse 0 256, .statusResponse 512 0, .getFeatureResponse 0 256, .getFeatureResponse 512 0, .setFeatureResponse 0 256,
  .setFeatureResponse 512 0, .suspendResponse 0 256, .suspendResponse 512 0, .resumeResponse 0 256, .resumeResponse 512 0,
  .readPilotResponse 0 256 0 0, .readPilotResponse 512 0 0 0, .descriptorResponse 0 256 [], .descriptorResponse 512 0 [], .dieNoAnswer 512 0 true,
  .dieNoAnswer 0 16 true, .suspendWait 512 0, .suspendWait 0 16, .suspendLimit 512 0, .suspendLimit 0 16] : List Instr).all (fun i => !wellFormed i) = true := by decide +kernel
theorem test_ill_formed_4 : ([
  .codewordDecode 512 0 .fail .ok true, .codewordDecode 0 256 .fail .ok true, .parityRebuild 512 0 .ok true, .pilotRewrite 512 0 0,
  .pilotRewrite 0 16 0, .pilotRewrite 0 0 4, .bandAgeRefresh 8 0, .bandAgeRefresh 0 524160, .verifyRead 8 0 true, .verifyRead 0 524160 true,
  .relocationStart 2097152, .foldRow 8 0, .foldRow 0 524160, .regionReady 8, .kdpRead 2 [], .kdpWrite 2 [], .kdpBread 2 [], .kdpBwrite 2 [] true,
  .kdpBwriteTimeout 4, .notify 2, .tileClockDrop 64, .tileClockRaise 64, .coreClockStop 64, .intDoorbell 65 0, .deliveryCommit 65 0,
  .deliveryCommit 0 4096, .intCmask 65 0, .intAck 65 0, .heartbeatMissed 64 true, .tileRestart 64 true, .tileRestartDone 64, .regionFault 8 0 true,
  .regionRestartDone 8 true, .tileParityError 64 .core, .dqsOscillatorDrift 4 0 0, .dqsOscillatorDrift 0 2 0] : List Instr).all (fun i => !wellFormed i) = true := by decide +kernel
theorem test_well_formed_0 : ([
  .sqTail 0 0, .cqHead 0 0, .restart 0 true, .flushPending 0 true, .restartTakesEffect 0 true, .registerWrite .steward 0 32 0,
  .descriptorListRead 0 0 (.ok []) .ok true, .hostDataArrival 0 0 (.ok []) .ok true, .moderationWindowEnd 0, .vectorUnmask 0, .queueDrainEnd 0 true,
  .append 0 0 true, .read 0 0 .ok true, .overwrite 0 0 true, .openSlab 0 0 true, .closeSlab 0 0 true, .resetSlab 0 0 true, .flushTail 0 0 true,
  .run 0 0 true, .programLoad 0 0 (.ok []) .ok true, .pipelineDescriptorLoad 0 0 (.ok []) .ok true, .programDrop 0 0 true,
  .cipherLoad 0 0 (.ok []) true, .cipherZeroise 0 0 true, .hmacLoad 0 0 (.ok []) true, .hmacZeroise 0 0 true, .camSearch 0 0 (.ok []) true,
  .camInsert 0 0 (.ok []) true, .camDelete 0 0 (.ok []) true, .camUpdate 0 0 (.ok []) true, .camRead 0 0 (.ok []) .ok true,
  .camClear 0 0 (.ok []) true, .abort 0 0 true, .instanceCreate 0 0 true, .instanceDelete 0 0 true, .instanceReset 0 0 true,
  .instanceResetComplete 0 true, .instanceResetTimeout 0, .queueCreate 0 0 true, .queueDelete 0 0 true, .pasidBind 0 0 true, .pasidUnbind 0 0 true,
  .keyGrant 0 0 true, .camGrant 0 0 true, .moderate 0 0 true, .logReadErrorLog 0 0 .ok true, .logReadHealthReport 0 0 .ok true,
  .dictRead 0 0 .ok true, .dictWrite 0 0 (.ok []) true, .format 0 0 true, .sanitize 0 0 true, .selfTestShort 0 0 true, .selfTestExtended 0 0 true,
  .readWaitLimit 0 0 true, .writeClosedReopen 0, .runStart 0 0 (.ok []) (.ok []) (.ok []) true, .keyScheduleDone true 0 true, .mov 0 x0, .add 0 x0,
  .addc 0 x0, .sub 0 x0, .subc 0 x0, .neg 0 x0, .and 0 x0, .or 0 x0, .xor 0 x0, .andn 0 x0, .not 0 x0, .shl 0 x0, .shr 0 x0, .sar 0 x0, .rol 0 x0,
  .ror 0 x0, .setb 0 x0, .clrb 0 x0, .flpb 0 x0, .fldu 0 x0, .flds 0 x0, .widen 0 x0, .popc 0 x0] : List Instr).all wellFormed = true := by decide +kernel
theorem test_well_formed_1 : ([
  .clz 0 x0, .mul 0 x0, .mulh 0 x0, .min 0 x0, .max 0 x0, .adr 0 x0, .jmp 0 x0, .call 0 x0, .skip 0 x0, .skipbit 0 x0, .rpt 0 x0, .nop 0 x0,
  .done 0 x0, .doneTakesEffect 0 .ok true, .scopy 0 x0, .scomp 0 x0, .sseek 0 x0, .sfill 0 x0, .smap 0 x0, .scrc 0 x0, .wfe 0 x0, .wfeWake 0,
  .sev 0 x0, .waitt 0 x0, .waittWake 0, .fence 0 x0, .fenceDone 0, .post 0 x0, .postAccepted 0, .eng 0 x0, .cams 0 x0, .watchdog 0 true,
  .itemDispatch 0 true, .timerTick 0, .backgroundRaise 0, .stealDelayExpiry 0, .stockpotBringBack 0, .bankOwnerWrite 0 0 0 .core, .bankHandover 0 0,
  .bankZeroingDone 0 0, .tlEvpWrite 0 0, .remapEntryWrite 0 0 0 0, .tlRetWrite 0 0, .retentionEntry 0 0, .retentionWakeDone 0 0,
  .conflictCounterClear 0 0, .collideClear 0 0 0, .mergeEntryWrite 0 0, .hardFaultCheck 0 0 0, .scrubRead 0 0 0 none, .reducerJobEnd 0 true,
  .expanderJobEnd 0 true, .cipherJobEnd 0 0 true, .digestJobEnd 0 0 true true true, .cipherSegmentBoundary 0 0 0, .digestSegmentBoundary 0 0,
  .decoderKnownAnswerTest true 0 true, .laneKnownAnswerTest 0 .expander true, .laneKnownAnswerTest 0 (.digest 1) true, .camSegmentPlacingDone 0,
  .dramReadReturn 0 0 [q0] b16, .dramRefresh 0 0 0, .mr4Read 0 0 0 0 0, .zqCalibration 0 0, .rowIdleClose 0 0 0 0, .dramScrub 0 0 0 0 0 0 b16,
  .dcRetrainWrite 0 0, .dramRetrainDone 0 0 true, .rdata 0 [] 0 true, .rsp 0 [], .ack 0 0, .nak 0 0, .crd 0 0, .ts1 0 0, .ts2 0 0, .stby 0 0,
  .wake 0 0, .sleep 0 0, .blockLock 0 [], .blockHuntTimeout 0] : List Instr).all wellFormed = true := by decide +kernel
theorem test_well_formed_2 : ([
  .lossOfLock 0 [], .replayTimeout 0, .creditStall 0 0, .nakHoldoffEnd 0, .signalDetect 0, .detectTimeout 0, .equalisationPreset 0 0,
  .trainingLimit 0, .recoveryTimeout 0, .fullRetrainFailure 0, .linkDegraded 0, .readPageResponse 0 0 true true, .programResponse 0 0 true,
  .eraseResponse 0 0 true, .statusResponse 0 0, .getFeatureResponse 0 0, .setFeatureResponse 0 0, .suspendResponse 0 0, .resumeResponse 0 0,
  .readPilotResponse 0 0 0 0, .descriptorResponse 0 0 [], .dieNoAnswer 0 0 true, .suspendWait 0 0, .suspendLimit 0 0,
  .codewordDecode 0 0 .fail .ok true, .parityRebuild 0 0 .ok true, .pilotRewrite 0 0 0, .bandAgeRefresh 0 0, .verifyRead 0 0 true,
  .relocationStart 0, .foldRow 0 0, .regionReady 0, .kdpRead 0 [], .kdpWrite 0 [], .kdpBread 0 [], .kdpBwrite 0 [] true, .kdpBwriteTimeout 0,
  .notify 0, .tileClockDrop 0, .tileClockRaise 0, .coreClockStop 0, .intDoorbell 0 0, .deliveryCommit 0 0, .intCmask 0 0, .intAck 0 0,
  .heartbeatMissed 0 true, .tileRestart 0 true, .tileRestartDone 0, .regionFault 0 0 true, .regionRestartDone 0 true, .tileParityError 0 .core,
  .dqsOscillatorDrift 0 0 0] : List Instr).all wellFormed = true := by decide +kernel

/-! ### Stated rules: R37, R383, R418, R423 -/

theorem wit_DoorbellsOfStoppedQueues : sFrozen.barOpen = true ∧ (sFrozen.queue 3).st = .frozen ∧ (sFrozen.queue 4).st = .disabled ∧
    (withQueue 3 { st := .draining }).barOpen = true ∧ ((withQueue 3 { st := .draining }).queue 3).st = .draining := by and_intros <;> decide +kernel
theorem test_doorbells_of_stopped_queues : after (.sqTail 3 5) sFrozen (fun t => decide ((t.queue 3).sqTail = 5 ∧ (t.queue 3).unfetched = 6 ∧ (t.queue 3).st = .frozen)) &&
    after (.sqTail 4 5) sFrozen (fun t => decide (t.queue 4 = {})) = true := by decide +kernel
theorem wit_InterruptDoorbells : (0x800 : Word).toNat % 4096 = 0x800 ∧ srcReserved 0x800 = false ∧ mget .idle ((sSrc .idle).intc 0).src 0x800 = .idle ∧
    mget .idle ((sSrc .raised).intc 0).src 0x800 ≠ .idle ∧ mget .idle ((sSrc .delivered).intc 0).src 0x800 = .delivered := by and_intros <;> decide +kernel
/-- Tile 0 quiesced with source 0x800 DELIVERED, source 0x801 RAISED and source 0x802 IDLE. -/
def sQuiescedSrc : State := sQuiesced.setIntc 0 { sQuiesced.intc 0 with src := [(0x800, .delivered), (0x801, .raised)] }
theorem wit_TileRestartKeepsSources : (sQuiescedSrc.tile 0).quiesced = true ∧ (sQuiescedSrc.tile 0).retired = false ∧ (sQuiescedSrc.tile 0).restarting = false ∧
    ((sQuiescedSrc.tile 0).recent sQuiescedSrc.now).length < 3 ∧ mget .idle (sQuiescedSrc.intc 0).src 0x800 = .delivered ∧
    mget .idle (sQuiescedSrc.intc 0).src 0x801 = .raised ∧ mget .idle (sQuiescedSrc.intc 0).src 0x802 = .idle ∧ srcReserved 0x802 = false := by
  and_intros <;> decide +kernel
theorem test_restart_keeps_sources : after (.tileRestart 0 true) sQuiescedSrc (fun t => decide ((t.intc 0).src = [(0x800, .raised), (0x801, .raised)])) &&
    after (.intDoorbell 0 0x802) sQuiescedSrc (fun t => decide (mget .idle (t.intc 0).src 0x802 = .raised)) = true := by decide +kernel
/-- Three entries of context 0 with one key, two of them at PRIO 1. -/
def sCamThree : State :=
  ((State.reset.setPlace 4 { valid := true, key := 7, prio := 2 }).setPlace 5 { valid := true, key := 7, prio := 1 }).setPlace 9 { valid := true, key := 7, prio := 1 }
theorem wit_CamWinner : sCamThree.cam.winner 7 0 = some (5, { valid := true, key := 7, prio := 1 }, 2) := by decide +kernel

/-! ### Reads of registers, and the ball map -/

/-- Reset values of RO and RW registers as their maps list them (R26, R52, R416, R424, 16). -/
theorem test_reset_register_reads :
    State.reset.readBar0 32 0 = 0x00B00512 ∧ State.reset.readBar0 32 0x10010 = 0 ∧ State.reset.readBar0 32 0x50000C = 1 ∧
    State.reset.readSteward 32 0x02000404 = 0xFFFF ∧ State.reset.readSteward 32 0x02002000 = 0x37F ∧ State.reset.readSteward 32 0x02001010 = 0x10000000 ∧
    State.reset.readSteward 32 0x02000800 = 1 := by decide +kernel

/-- The queue context page of an ACTIVE queue 5 of instance 3, class Medium, weight 9, vector 17, PASID 0x4321 (R32). -/
theorem test_read_queue_context :
    let s := withQueue 5 { st := .active, inst := 3, cls := 2, weight := 9, vector := 17, pasid := some 0x4321, sqTail := 4, cqTail := 2, phase := true }
    s.readBar0 32 0x101400 = 0x09020301 ∧ s.readBar0 32 0x101404 = 17 ∧ s.readBar0 32 0x101408 = 0x80004321 ∧ s.readBar0 32 0x101420 = 0x80020400 := by
  decide +kernel

/-- The example of R503: link 300 and its reference clock. -/
theorem test_ball_map_example :
    ballAt 26 69 = .flTx 300 false ∧ ballAt 26 68 = .flTx 300 true ∧ ballAt 27 69 = .flRx 300 false ∧ ballAt 27 68 = .flRx 300 true ∧
    ballAt 19 69 = .fref 18 false ∧ ballAt 19 68 = .fref 18 true := by decide +kernel

/-- Ball counts of R507: VSS, VDDQ_DDR, VDD_FLA and link signals. -/
theorem test_ball_counts :
    let n := fun (p : Ball → Bool) => (List.range 4900).countP (fun i => p (ballAt (i / 70 + 1) (i % 70 + 1)))
    n (fun b => decide (b = .vss)) = 1214 ∧ n (fun b => decide (b = .rail .ddr)) = 132 ∧ n (fun b => decide (b = .rail .fla)) = 128 ∧
    n (fun b => match b with | .flTx .. | .flRx .. => true | _ => false) = 2048 := by decide +kernel

/-- The SOF word and the codes' distance from it (R146). -/
theorem test_sof_word : sofWord = 0xF500000A ∧
    [cACK, cNAK, cCRD, cTS1, cTS2, cSTBY, cWAKE, cSLEEP, cPARK, 0].all (fun c => decide (4 ≤ (List.range 8).countP (fun i => bit (c ^^^ 0xF5#8) i))) = true := by
  decide +kernel
/-- An SOF with two line errors two bits early (R152); with three errors there is none. -/
theorem test_sof_found : sofOffset (((sofWord ^^^ 0x00010100).setWidth 38) <<< 1) = some (-2) ∧ isSof (sofWord ^^^ 0x00010101) = false := by decide +kernel
/-- A frame of 4,608 bytes takes 289 data blocks (R147, R150). -/
theorem test_frame_blocks : (8 + 4608 + 4 + 4) / 16 = 289 ∧ (frameBlocks 0 (List.replicate 16 0)).length = 3 := by decide +kernel
/-- Descrambling recovers what was scrambled (R144). -/
theorem descramble_scramble : ∀ (h : BitVec 58) (d : List Bool), descramble h (scramble h d) = d
  | _, [] => rfl
  | h, x :: r => by
    have e := descramble_scramble (tapNext h (x != tapOf h)) r
    simp only [scramble, descramble, e]
    cases x <;> cases tapOf h <;> rfl
/-- Four invalid headers of sixteen lose the lock (R153); a read of another width than the register's gives 0 (R4). -/
theorem test_lock_lost : lockLost (List.replicate 12 0b01 ++ List.replicate 4 0b00) = true ∧
    lockLost (List.replicate 13 0b01 ++ List.replicate 3 0b00) = false ∧ State.reset.readBar0 16 0 = 0 ∧ State.reset.readSteward 64 0x02000404 = 0 := by
  decide +kernel

end Sys2Proof.Tests
end

section
/-! Doorbells and arbitration (02): what a BAR write leaves alone, what each doorbell does to a queue in each of its states, and
which queues arbitration can pick. -/

namespace Sys2Proof.Machine

variable {s : State} {q : Nat} {v : Word} {ok : Bool}

/-! ### BAR writes that reach the device (R54, R486) -/

@[simp] theorem State.barWrite_queue {k : Nat} : s.barWrite.queue k = s.queue k := by
  simp [State.barWrite, State.queue, State.busy]

theorem exec_sqTail_of_barOpen (h : s.barOpen = true) : exec (.sqTail q v) s = .next (s.barWrite.writeTail q v) := by
  change execSqTail q v s = _
  simp [execSqTail, h]

theorem exec_cqHead_of_barOpen (h : s.barOpen = true) : exec (.cqHead q v) s = .next (s.barWrite.writeHead q v) := by
  change execCqHead q v s = _
  simp [execCqHead, h]

theorem exec_restart_of_barOpen (h : s.barOpen = true) : exec (.restart q ok) s = .next (s.barWrite.writeRestart q ok false) := by
  change execRestart q ok s = _
  simp [execRestart, h]

theorem exec_flushPending_of_barOpen (h : s.barOpen = true) :
    exec (.flushPending q ok) s = .next (s.barWrite.writeRestart q ok true) := by
  change execFlushPending q ok s = _
  simp [execFlushPending, h]

/-! ### Doorbells by the state of the queue (R34, R36, R37, R41) -/

theorem Queue.listens_eq_true_of_frozen {x : Queue} (h : x.st = .frozen) : x.listens = true := by
  simp [Queue.listens, h]

theorem Queue.listens_eq_false_of_stopped {x : Queue} (h : x.st = .disabled ∨ x.st = .draining) : x.listens = false := by
  rcases h with h | h <;> simp [Queue.listens, h]

theorem State.writeTail_of_not_listens (h : (s.queue q).listens = false) : s.writeTail q v = s := by
  simp [State.writeTail, h]

theorem State.queue_writeTail_of_listens (h : (s.queue q).listens = true) :
    (s.writeTail q v).queue q = (s.queue q).tailWrite (v.extractLsb' 0 5) := by
  simp [State.writeTail, h]

theorem State.writeHead_of_not_listens (h : (s.queue q).listens = false) : s.writeHead q v = s := by
  simp [State.writeHead, h]

theorem State.queue_writeHead_of_listens (h : (s.queue q).listens = true) :
    (s.writeHead q v).queue q = (s.queue q).headWrite (v.extractLsb' 0 5) := by
  simp [State.writeHead, h]

theorem State.writeRestart_of_not_frozen {flush : Bool} (h : (s.queue q).st ≠ .frozen) : s.writeRestart q ok flush = s := if_pos h

/-- A head that does not pass CQ_TAIL is recorded (R36). -/
theorem Queue.headWrite_cqHead {x : Queue} {h : BitVec 5} (le : (h - x.cqHead).toNat ≤ x.cqTags.length) :
    (x.headWrite h).cqHead = h := by
  simp only [Queue.headWrite, if_neg (Nat.not_lt_of_le le)]

/-- Of a doorbell to a DISABLED or DRAINING queue only the BAR write is left (R37, R486). -/
theorem exec_doorbell_of_stopped {i : Instr} (hb : s.barOpen = true) (hq : (s.queue q).st = .disabled ∨ (s.queue q).st = .draining)
    (hi : i ∈ [Instr.sqTail q v, Instr.cqHead q v, Instr.restart q ok, Instr.flushPending q ok]) :
    exec i s = .next s.barWrite := by
  have hl : (s.barWrite.queue q).listens = false := by
    rw [State.barWrite_queue]; exact Queue.listens_eq_false_of_stopped hq
  have hf : (s.barWrite.queue q).st ≠ .frozen := by
    rw [State.barWrite_queue]; rcases hq with h | h <;> simp [h]
  simp only [List.mem_cons, List.not_mem_nil, or_false] at hi
  rcases hi with rfl | rfl | rfl | rfl
  · rw [exec_sqTail_of_barOpen hb, State.writeTail_of_not_listens hl]
  · rw [exec_cqHead_of_barOpen hb, State.writeHead_of_not_listens hl]
  · rw [exec_restart_of_barOpen hb, State.writeRestart_of_not_frozen hf]
  · rw [exec_flushPending_of_barOpen hb, State.writeRestart_of_not_frozen hf]

/-! ### Arbitration picks an eligible queue (R42, R43) -/

theorem mem_of_cyclicFrom {k : Nat} {l : List Nat} (h : cyclicFrom k l = some q) : q ∈ l := by
  unfold cyclicFrom at h
  split at h
  case h_1 hfind => exact Option.some.inj h ▸ List.mem_of_find?_eq_some hfind
  case h_2 => exact List.mem_of_head? h

theorem State.mem_of_grantIn {c : Nat} {l : List Nat} {u : State} (h : s.grantIn c l = some (q, u)) : q ∈ l := by
  unfold State.grantIn at h
  dsimp only at h
  split at h
  case h_1 => cases h
  case h_2 hpick =>
    cases h
    have hmem := mem_of_cyclicFrom hpick
    split at hmem
    · exact hmem
    · exact (List.mem_filter.1 hmem).1

theorem State.eligible_of_arbitrate {u : State} (h : s.arbitrate = some (q, u)) : s.eligible q = true := by
  unfold State.arbitrate at h
  dsimp only at h
  split at h
  case h_1 hpick =>
    cases h
    exact (List.mem_filter.1 (List.mem_filter.1 (mem_of_cyclicFrom hpick)).1).2
  case h_2 =>
    split at h
    case h_1 => cases h
    case h_2 => exact (List.mem_filter.1 (List.mem_filter.1 (State.mem_of_grantIn h)).1).2

theorem State.active_of_eligible (h : s.eligible q = true) : (s.queue q).st = .active := by
  simp only [State.eligible, Bool.and_eq_true, decide_eq_true_eq] at h
  obtain ⟨⟨⟨⟨⟨hactive, -⟩, -⟩, -⟩, -⟩, -⟩ := h
  exact hactive

theorem State.arbitrate_ne_of_frozen {u : State} (h : (s.queue q).st = .frozen) : s.arbitrate ≠ some (q, u) := by
  intro hpick
  have hactive := State.active_of_eligible (State.eligible_of_arbitrate hpick)
  rw [h] at hactive
  cases hactive

/-- Settles O4: a stopped queue does not listen and takes no restart; a FROZEN one listens, and arbitration picks ACTIVE
queues only (R37). -/
theorem doorbellsOfStoppedQueues : Obligations.DoorbellsOfStoppedQueues := by
  intro s q v ok hb
  constructor
  · intro hstopped i hi
    exact ⟨s.barWrite, exec_doorbell_of_stopped hb hstopped hi, fun _ => State.barWrite_queue, rfl⟩
  · intro hfrozen
    have hl : (s.barWrite.queue q).listens = true := by
      rw [State.barWrite_queue]; exact Queue.listens_eq_true_of_frozen hfrozen
    have htail := State.queue_writeTail_of_listens (v := v) hl
    have hhead := State.queue_writeHead_of_listens (v := v) hl
    rw [State.barWrite_queue] at htail hhead
    refine ⟨⟨_, exec_sqTail_of_barOpen hb, htail⟩, ⟨_, exec_cqHead_of_barOpen hb, fun hle => ?_⟩,
      fun _ => State.arbitrate_ne_of_frozen hfrozen⟩
    rw [hhead]
    exact Queue.headWrite_cqHead hle

end Sys2Proof.Machine
end

section
/-! The CAM's winner (16): a search keeps the least matching entry by (PRIO, index), and the MULTI bit of its response says
that COUNT is 2 or more. -/

namespace Sys2Proof.Machine

variable {s : State} {c : Cam} {key : BitVec 128} {ctx inst k n : Nat} {x : Place}

/-! ### The order in which a search prefers entries: by PRIO, then by index (R383) -/

/-- `w` wins against `e`, or is the entry itself: a lower PRIO, or the same PRIO and no higher index. -/
def CamNoLater (w e : Nat × Nat × Place) : Prop :=
  w.2.2.prio < e.2.2.prio ∨ (w.2.2.prio = e.2.2.prio ∧ w.1 ≤ e.1)

theorem CamNoLater.refl (e : Nat × Nat × Place) : CamNoLater e e := .inr ⟨rfl, Nat.le_refl _⟩

theorem CamNoLater.trans {a b e : Nat × Nat × Place} (hab : CamNoLater a b) (hbe : CamNoLater b e) : CamNoLater a e := by
  unfold CamNoLater at *
  omega

/-- The least entries of a list. -/
structure CamLeast (l : List (Nat × Nat × Place)) (w : Nat × Nat × Place) : Prop where
  mem : w ∈ l
  noLater : ∀ e ∈ l, CamNoLater w e

/-! ### One pass over the entries finds a least one -/

/-- One step of the pass: what is kept after entry `e`. -/
def camKeep (b : Option (Nat × Nat × Place)) (e : Nat × Nat × Place) : Option (Nat × Nat × Place) :=
  match b with
  | none => some e
  | some m => if e.2.2.prio < m.2.2.prio ∨ (e.2.2.prio = m.2.2.prio ∧ e.1 < m.1) then some e else some m

/-- Of the entry kept so far and the next one, the one kept is no later than either. -/
theorem camKeep_some (m e : Nat × Nat × Place) : ∃ w, camKeep (some m) e = some w ∧ CamLeast [m, e] w := by
  by_cases hlt : e.2.2.prio < m.2.2.prio ∨ (e.2.2.prio = m.2.2.prio ∧ e.1 < m.1)
  · have hem : CamNoLater e m := hlt.imp_right fun ⟨hprio, hidx⟩ => ⟨hprio, Nat.le_of_lt hidx⟩
    exact ⟨e, if_pos hlt, by simp, by simp [hem, CamNoLater.refl]⟩
  · have hme : CamNoLater m e := by
      unfold CamNoLater
      omega
    exact ⟨m, if_neg hlt, by simp, by simp [hme, CamNoLater.refl]⟩

theorem foldl_camKeep_some (l : List (Nat × Nat × Place)) (m : Nat × Nat × Place) :
    ∃ w, l.foldl camKeep (some m) = some w ∧ CamLeast (m :: l) w := by
  induction l generalizing m with
  | nil => exact ⟨m, rfl, by simp, by simp [CamNoLater.refl]⟩
  | cons e l ih =>
    obtain ⟨v, hkeep, hv⟩ := camKeep_some m e
    obtain ⟨w, hfold, hw⟩ := ih v
    have hwv : CamNoLater w v := hw.noLater v List.mem_cons_self
    refine ⟨w, by rw [List.foldl_cons, hkeep, hfold], ?_, fun a ha => ?_⟩
    · rcases List.mem_cons.1 hw.mem with rfl | hl
      · exact List.mem_append_left l hv.mem
      · exact List.mem_append_right [m, e] hl
    · rcases List.mem_append.1 (show a ∈ [m, e] ++ l from ha) with hme | hl
      · exact hwv.trans (hv.noLater a hme)
      · exact hw.noLater a (List.mem_cons_of_mem v hl)

theorem foldl_camKeep_eq_none_iff {l : List (Nat × Nat × Place)} : l.foldl camKeep none = none ↔ l = [] := by
  cases l with
  | nil => exact iff_of_true rfl rfl
  | cons e l =>
    obtain ⟨w, hfold, -⟩ := foldl_camKeep_some l e
    exact iff_of_false (fun h => Option.some_ne_none w (hfold.symm.trans h)) (List.cons_ne_nil e l)

theorem camLeast_of_foldl_camKeep {l : List (Nat × Nat × Place)} {m : Nat × Nat × Place}
    (h : l.foldl camKeep none = some m) : CamLeast l m := by
  cases l with
  | nil => cases h
  | cons e l =>
    obtain ⟨w, hfold, hw⟩ := foldl_camKeep_some l e
    exact Option.some.inj (hfold.symm.trans h) ▸ hw

/-! ### The winner and its COUNT (R383) -/

/-- The live entries that match a key in a context (R380). -/
def Cam.matching (c : Cam) (key : BitVec 128) (ctx : Nat) : List (Nat × Nat × Place) :=
  c.live.filter (fun e => e.2.2.hits key ctx)

/-- COUNT of a search whose winner has PRIO `p`: the matches at `p`, saturating at 255 (R383). -/
def camCountAt (hits : List (Nat × Nat × Place)) (p : Nat) : Nat :=
  Nat.min 255 (hits.filter (fun e => decide (e.2.2.prio = p))).length

theorem Cam.winner_eq_map_foldl : c.winner key ctx = ((c.matching key ctx).foldl camKeep none).map
    (fun m => (m.1, m.2.2, camCountAt (c.matching key ctx) m.2.2.prio)) := rfl

theorem Cam.winner_eq_none_iff : c.winner key ctx = none ↔ c.matching key ctx = [] := by
  rw [Cam.winner_eq_map_foldl, Option.map_eq_none_iff, foldl_camKeep_eq_none_iff]

/-- A winner is a least matching entry, given with the COUNT of its PRIO. -/
theorem Cam.camLeast_of_winner (h : c.winner key ctx = some (k, x, n)) :
    (∃ i, CamLeast (c.matching key ctx) (k, i, x)) ∧ n = camCountAt (c.matching key ctx) x.prio := by
  rw [Cam.winner_eq_map_foldl, Option.map_eq_some_iff] at h
  obtain ⟨⟨k', i, x'⟩, hfold, heq⟩ := h
  cases heq
  exact ⟨⟨i, camLeast_of_foldl_camKeep hfold⟩, rfl⟩

/-! ### MULTI (R383, R384) -/

/-- Bit 81 of a response lies above RESULT and PRIO and below COUNT and POSITION. -/
theorem respMulti_ofNat {low count pos : Nat} (hlow : low < 2 ^ 80) (multi : Prop) [Decidable multi] :
    respMulti (BitVec.ofNat 128 (low + (1 + (if multi then 2 else 0)) * 2 ^ 80 + count * 2 ^ 88 + pos * 2 ^ 96)) =
      decide multi := by
  rw [respMulti, bit, BitVec.getLsbD_ofNat, Nat.testBit_eq_decide_div_mod_eq, decide_eq_true (show 81 < 128 by decide),
    Bool.true_and, decide_eq_decide]
  split
  case isTrue hm => exact iff_of_true (by omega) hm
  case isFalse hm => exact iff_of_false (by omega) hm

theorem State.respMulti_camResponse (h : s.cam.winner key ctx = some (k, x, n)) :
    respMulti (s.camResponse inst key ctx) = decide (2 ≤ n) := by
  have hlow : x.result.toNat + x.prio % 65536 * 2 ^ 64 < 2 ^ 80 := by
    have hresult := x.result.isLt
    omega
  simp only [State.camResponse, h]
  exact respMulti_ofNat hlow (2 ≤ n)

/-- Settles O20: one pass over the matching entries finds the least by PRIO, then by index (R383). -/
theorem camWinner : Obligations.CamWinner := by
  intro s key ctx inst
  refine ⟨Cam.winner_eq_none_iff, fun k x n h => ?_⟩
  obtain ⟨⟨i, hleast⟩, hcount⟩ := Cam.camLeast_of_winner h
  exact ⟨⟨i, hleast.mem⟩, hleast.noLater, hcount, State.respMulti_camResponse h⟩

end Sys2Proof.Machine
end

section
/-! Interrupt sources (18): what a doorbell write, an acknowledgement and a tile restart make of the source they name, and that
a source once RAISED stays RAISED under every other doorbell write. -/

namespace Sys2Proof.Machine

variable {s : State} {c d j n m : Nat} {v : Word}

/-! ### The controllers under the updates of the state -/

@[simp] theorem State.intc_setIntc_self {x : IntC} : (s.setIntc c x).intc c = x := by
  by_cases hc : c = 64 <;> simp [State.intc, State.setIntc, hc]

theorem State.intc_setIntc_ne {x : IntC} (h : j ≠ c) : (s.setIntc c x).intc j = s.intc j := by
  by_cases hc : c = 64
  · have hj : j ≠ 64 := hc ▸ h
    simp [State.intc, State.setIntc, hc, hj, State.tile]
  · simp [State.intc, State.setIntc, hc, State.tile_setTile_ne h]

theorem State.intc_setTile_self {x : Tile} (hc : c ≠ 64) : (s.setTile c x).intc c = x.intc := by
  simp [State.intc, hc]

@[simp] theorem State.intc_setCore {t : Nat} {x : Core} : (s.setCore t x).intc c = s.intc c := by
  by_cases ht : c = t
  · simp [State.intc, State.setCore, ht]
  · simp [State.intc, State.setCore, State.tile_setTile_ne ht]

@[simp] theorem State.intc_setLink {l : Nat} {x : Link} : (s.setLink l x).intc c = s.intc c := rfl

@[simp] theorem State.intc_emit {o : Out} : (s.emit o).intc c = s.intc c := rfl

@[simp] theorem State.intc_setPending : (s.setPending d).intc c = s.intc c := by
  unfold State.setPending
  split
  · dsimp only
    split
    · exact State.intc_setCore
    · rfl
  · rfl

@[simp] theorem State.intc_clearLinkCounts {t : Nat} : (s.clearLinkCounts t).intc c = s.intc c :=
  foldS_proj (g := fun u : State => u.intc c) (fun _ _ => State.intc_setLink)

/-- A lost raise changes the state of no source (R417). -/
@[simp] theorem State.intc_lostRaise_src : (s.lostRaise.intc c).src = (s.intc c).src := by
  by_cases hc : c = 64
  · simp [State.intc, State.lostRaise, hc]
  · simp [State.intc, State.lostRaise, hc, State.tile]

/-! ### A doorbell write by the state of its source (R415, R418) -/

theorem State.ring_of_reserved (hr : srcReserved n = true) : s.ring c n = s.setIntc c { s.intc c with lost := true } :=
  if_pos hr

theorem State.ring_of_idle (hr : srcReserved n = false) (hidle : mget .idle (s.intc c).src n = .idle) :
    s.ring c n = s.setIntc c { s.intc c with src := mset .idle (s.intc c).src n .raised } := by
  simp [State.ring, hr, hidle]

/-- A write for a source that is RAISED or DELIVERED is merged. -/
theorem State.ring_of_not_idle (hr : srcReserved n = false) (hbusy : mget .idle (s.intc c).src n ≠ .idle) :
    s.ring c n = s.setIntc c { s.intc c with merged := satAdd 0xFFFFFFFF (s.intc c).merged 1 } := by
  cases hn : mget .idle (s.intc c).src n with
  | idle => exact absurd hn hbusy
  | raised | delivered => simp [State.ring, hr, hn]

theorem State.raised_ring_self (hr : srcReserved n = false) (hidle : mget .idle (s.intc c).src n = .idle) :
    mget .idle ((s.ring c n).intc c).src n = .raised := by
  rw [State.ring_of_idle hr hidle, State.intc_setIntc_self, mget_mset_self]

/-- A doorbell write, of whatever source at whatever controller, leaves a RAISED source RAISED. -/
theorem State.raised_ring (h : mget .idle (s.intc c).src n = .raised) : mget .idle ((s.ring d m).intc c).src n = .raised := by
  by_cases hc : c = d
  · subst hc
    cases hr : srcReserved m with
    | true => rwa [State.ring_of_reserved hr, State.intc_setIntc_self]
    | false =>
      by_cases hidle : mget .idle (s.intc c).src m = .idle
      · have hne : n ≠ m := by
          rintro rfl
          simp [h] at hidle
        rw [State.ring_of_idle hr hidle, State.intc_setIntc_self, mget_mset_ne hne, h]
      · rwa [State.ring_of_not_idle hr hidle, State.intc_setIntc_self]
  · have hkept : (s.ring d m).intc c = s.intc c := by
      unfold State.ring
      dsimp only
      (repeat' split) <;> exact State.intc_setIntc_ne hc
    rwa [hkept]

/-- The tile's own raise under the full mask leaves a RAISED source RAISED (R421). -/
theorem State.raised_raiseHeld (h : mget .idle (s.intc c).src n = .raised) :
    mget .idle ((s.raiseHeld d).intc c).src n = .raised := by
  unfold State.raiseHeld
  split
  · exact State.raised_ring (by simpa using h)
  · simpa using h

theorem State.raised_doorbell (hr : srcReserved n = false) (hidle : mget .idle (s.intc c).src n = .idle) :
    mget .idle ((s.doorbell c n).intc c).src n = .raised := by
  have hraised := State.raised_ring_self hr hidle
  unfold State.doorbell
  dsimp only
  split
  · exact State.raised_raiseHeld hraised
  · exact hraised

theorem State.doorbell_of_not_idle (hr : srcReserved n = false) (hbusy : mget .idle (s.intc c).src n ≠ .idle) :
    s.doorbell c n = s.setIntc c { s.intc c with merged := satAdd 0xFFFFFFFF (s.intc c).merged 1 } := by
  rw [← State.ring_of_not_idle hr hbusy]
  exact if_neg fun ⟨hidle, _⟩ => hbusy hidle

/-! ### An acknowledgement (R422) -/

theorem State.idle_ackSource_of_delivered (h : mget .idle (s.intc c).src n = .delivered) :
    mget .idle ((s.ackSource c n).intc c).src n = .idle := by
  have hacked : (s.ackSource c n).intc c = { s.intc c with src := mset .idle (s.intc c).src n .idle } := by
    unfold State.ackSource
    simp only [h, if_true]
    split <;> simp
  rw [hacked, mget_mset_self]

/-! ### The instructions -/

/-- The field SRC of INT_DOORBELL and INT_ACK. -/
theorem bits_src (v : Word) : bits v 0 12 = v.toNat % 4096 := by
  simp [bits, BitVec.extractLsb'_toNat]

theorem exec_intDoorbell : exec (.intDoorbell c v) s = .next (s.doorbell c (v.toNat % 4096)) := by
  rw [← bits_src]
  rfl

theorem exec_intAck : exec (.intAck c v) s = .next (s.ackSource c (v.toNat % 4096)) := by
  rw [← bits_src]
  rfl

theorem exec_tileRestart_of_restartable (hq : (s.tile c).quiesced = true) (hret : (s.tile c).retired = false)
    (hres : (s.tile c).restarting = false) (hrecent : ((s.tile c).recent s.now).length < 3) :
    exec (.tileRestart c true) s = .next ((s.setTile c (s.tile c).restart).clearLinkCounts c) := by
  change execTileRestart c true s = _
  simp [execTileRestart, hq, hret, hres, Nat.not_le_of_lt hrecent]

theorem completes_intDoorbell_of_idle (hv : v.toNat % 4096 = n) (hr : srcReserved n = false)
    (hidle : mget .idle (s.intc c).src n = .idle) :
    Completes (.intDoorbell c v) s (fun t => mget .idle (t.intc c).src n = .raised) :=
  ⟨_, hv ▸ exec_intDoorbell, State.raised_doorbell hr hidle⟩

/-- Settles O39: a doorbell write raises an IDLE source and merges otherwise, and the acknowledgement leaves its source
IDLE, so that the doorbell write after it raises the source again (R418). -/
theorem interruptDoorbells : Obligations.InterruptDoorbells := by
  intro s c n v _ hv hr
  refine ⟨completes_intDoorbell_of_idle hv hr, fun hbusy => ?_, fun hdelivered u hack => ?_⟩
  · rw [exec_intDoorbell, hv, State.doorbell_of_not_idle hr hbusy]
  · rw [exec_intAck, hv] at hack
    cases hack
    exact completes_intDoorbell_of_idle hv hr (State.idle_ackSource_of_delivered hdelivered)

/-! ### A tile restart (R423) -/

/-- What a tile restart makes of the state of a source. -/
def SrcState.restarted : SrcState → SrcState
  | .delivered => .raised
  | x => x

/-- A read of a table mapped with its default fixed; the table need not be canonical, as the map drops no entry. -/
theorem mget_map {β : Type} {b : β} {f : β → β} (hf : f b = b) :
    ∀ {l : SMap β}, mget b (l.map fun e => (e.1, f e.2)) n = f (mget b l n)
  | [] => hf.symm
  | (k, y) :: r => by
    have ih := mget_map hf (l := r)
    by_cases hk : k = n
    · simp [mget, hk]
    · simpa [mget, hk] using ih

theorem Tile.src_restart {x : Tile} : x.restart.intc.src = x.intc.src.map fun e => (e.1, e.2.restarted) := rfl

theorem State.src_restart (hc : c ≠ 64) : mget .idle (((s.setTile c (s.tile c).restart).clearLinkCounts c).intc c).src n =
    (mget .idle (s.intc c).src n).restarted := by
  rw [State.intc_clearLinkCounts, State.intc_setTile_self hc, Tile.src_restart, mget_map rfl, State.intc, if_neg hc]

/-- Settles O40: the restart maps every source of the controller, DELIVERED to RAISED and RAISED to itself; the doorbell
write asks nothing of the tile, so it is taken while the tile is quiesced (R423). -/
theorem tileRestartKeepsSources : Obligations.TileRestartKeepsSources := by
  intro s c hc hq
  refine ⟨fun hret hres hrecent => ⟨_, exec_tileRestart_of_restartable hq hret hres hrecent, fun n => ?_⟩,
    fun n v hv hr hidle => completes_intDoorbell_of_idle hv hr hidle⟩
  rw [State.src_restart (Nat.ne_of_lt hc)]
  exact ⟨congrArg SrcState.restarted, congrArg SrcState.restarted⟩

end Sys2Proof.Machine
end
